-- ==== Sys2Proof/Word.lean ====
section
/-! DEFINITION. The byte, the unit of memory (spec chapter 12 counts every offset in bytes), and the stream number. -/

namespace Sys2Proof

/-- One byte of memory. -/
abbrev Byte := BitVec 8

/-- A stream number, 0 to 31: the low five bits of a request ID (R4, section 6 "Indices"). -/
abbrev StreamId := Fin 32

end Sys2Proof
end

