-- ==== Sys2Proof/Config.lean ====
section
/-! DEFINITION. The constants the spec fixes for every CI-32, and the one value it leaves free. -/

namespace Sys2Proof.Config

/-- The span of the aperture, 1 GiB (R1). -/
def apertureSize : Nat := 1073741824

/-- 4 KiB: the boundary no burst may cross (R4) and the alignment of regions (R22). -/
def pageSize : Nat := 4096

/-- Offset of the note area (R2). -/
def noteBase : Nat := 4096

/-- Offset of the summary area, at whose start the summary record stands (R2). -/
def summaryBase : Nat := 8192

/-- Size of the summary area (R2). -/
def summaryAreaSize : Nat := 8192

/-- Length of the summary record (section 12.1). -/
def summarySize : Nat := 80

/-- Offset of desk 0 (R2). -/
def deskBase : Nat := 16384

/-- Size of a desk (R2). -/
def deskSize : Nat := 1024

/-- The lowest offset a region may have (R22). -/
def regionFloor : Nat := 65536

/-- Offsets within a desk (section 12.2). -/
def closeOff : Nat := 512
def cancelOff : Nat := 520
def answerOff : Nat := 528
def outcomeOff : Nat := 544
def answerEnd : Nat := 800
def sessionOff : Nat := 800
def sessionEnd : Nat := 808

/-- Offsets within the setup block (section 12.3). -/
def calendarOff : Nat := 3840
def applyOff : Nat := 3848
def formatOff : Nat := 3856
def warmOff : Nat := 3864
def statusOff : Nat := 3872

/-- Offset of image `i` within the note area, and the place an image has there (section 12.3). -/
def imageOff (i : Nat) : Nat := 64 + i * 384
def imageSize : Nat := 384

/-- The balance ceiling in cents (R26, R144). -/
def balanceCeiling : Nat := 9999999

/-- The last day number (section 6, R115). -/
def lastDay : Nat := 65535

/-- The top of the saturating 16-bit counts (R11, R166, R170). -/
def countTop : Nat := 65535

/-- The value of an optional 4-byte field that is absent (R181). -/
def absent4 : Nat := 4294967295

/-- The value of an optional 1-byte field that is absent (R181). -/
def absent1 : Nat := 255

/-- The format stamp, its bytes in ascending address (section 12.1). -/
def formatStamp : List Byte := [0x43, 0x49, 0x52, 0x43, 0x53, 0x54, 0x4F, 0x52]

/-- The note-state byte that means WRITTEN (R182). -/
def noteWritten : Byte := 0x5A

/-- FREE VALUE (log 33). The data the memory returns beside an error answer on a pass-through read: R5 returns
them "as received", and nothing says what they are. `tag` is the serial number of the request, `i` the place in the burst. -/
opaque errorReadByte (tag i : Nat) : Byte

end Sys2Proof.Config
end

