-- ==== Sys2Proof/Syntax.lean ====
section
/-! DEFINITION. The commands of the CI-32: one constructor for each row of spec/opcode_table.json. -/

namespace Sys2Proof

/-- One byte lane of a write: its strobe and its data ("a write carries one strobe per byte", chapter 1). -/
structure Lane where
  strobe : Bool
  value : Byte
  deriving DecidableEq, Repr

/-- An upstream request as it stands at the port (chapter 1): the request ID (the low five bits name the stream),
read or write, a byte address, a burst length in 8-byte words, and for a write the lanes of all its bytes, lowest address first. -/
structure Request where
  id : Nat
  write : Bool
  addr : Nat
  words : Nat
  lanes : List Lane
  deriving DecidableEq, Repr

/-- The stream of a request (R4). -/
def Request.stream (r : Request) : StreamId := ⟨r.id % 32, Nat.mod_lt _ (by decide)⟩

/-- The downstream answer to an issued request. `done`: for a read, the data are what memory holds now.
`doneAsIssued`: for a read, the data are what memory held when the request was issued (log 5); for a write the same as `done`.
`error landed`: answered error, or for an own read not usable; of a write, the first `landed` strobed bytes
reached memory all the same (log 6). -/
inductive Answer where
  | done
  | doneAsIssued
  | error (landed : Nat)
  deriving DecidableEq, Repr

/-- The commands. `tag` is the serial number an accepted upstream request or a raised own request carries. -/
inductive Instr where
  /-- COLD_RESET (R20). `landed`: for each downstream write still unanswered, upstream writes before own writes and
  each in order of issue, how many of its strobed bytes had reached memory (log 7). -/
  | coldReset (landed : List Nat)
  /-- COLD_RESET_RELEASE (R178), with the four aperture select pins (R1). -/
  | coldResetRelease (apsel : Fin 16)
  /-- STARTUP_READ_DONE (R178). -/
  | startupReadDone (a : Answer)
  /-- STARTUP_WRITE_DONE (R179). -/
  | startupWriteDone (a : Answer)
  /-- UPSTREAM_REQUEST (R4). -/
  | upstreamRequest (r : Request)
  /-- ARBITER_GRANT (R17). -/
  | arbiterGrant
  /-- PASS_THROUGH_RESPONSE (R5). -/
  | passThroughResponse (tag : Nat) (a : Answer)
  /-- APERTURE_WRITE_RESPONSE (R10). -/
  | apertureWriteResponse (tag : Nat) (a : Answer)
  /-- ENTRY_SLOT_WRITE (R54). -/
  | entrySlotWrite (tag : Nat) (a : Answer)
  /-- CLOSE (R57). -/
  | closeWord (tag : Nat) (a : Answer)
  /-- CANCEL (R61). -/
  | cancelWord (tag : Nat) (a : Answer)
  /-- ANSWER_WRITE_RESPONSE (R19): the oldest issued answer write of stream `n` that a close or cancel waits for. -/
  | answerWriteResponse (n : StreamId) (a : Answer)
  /-- OWN_WRITE_RESPONSE (R18). -/
  | ownWriteResponse (tag : Nat) (a : Answer)
  /-- READ_DATA_ARRIVAL (R13). -/
  | readDataArrival (tag : Nat) (a : Answer)
  /-- ANSWER_STATE_READ (R67). -/
  | answerStateRead (tag : Nat) (a : Answer)
  /-- IDLE_EXPIRY (R47). -/
  | idleExpiry (n : StreamId)
  /-- COLLECT_TIMER_EXPIRY (R56). -/
  | collectTimerExpiry (n : StreamId)
  /-- UNIT_BOUNDARY (R84). -/
  | unitBoundary
  /-- GATHER_READ_RESPONSE (R88). -/
  | gatherReadResponse (a : Answer)
  /-- GATHER_READ_TIMEOUT (R96). -/
  | gatherReadTimeout
  /-- CLAIM (R41). -/
  | claim
  /-- RELEASE (R45). -/
  | release
  /-- LEND (R107). -/
  | lend
  /-- RETURN (R111). -/
  | returnItem
  /-- RENEW (R113). -/
  | renew
  /-- RENEW_SET (R116). -/
  | renewSet
  /-- RENEWAL_SUB_UNIT (R117). -/
  | renewalSubUnit
  /-- CLOSING_UNIT (R118). -/
  | closingUnit
  /-- HOLD_PLACE (R133). -/
  | holdPlace
  /-- HOLD_CANCEL (R136). -/
  | holdCancel
  /-- HOLD_PAUSE (R138). -/
  | holdPause
  /-- PAY (R148). -/
  | pay
  /-- WAIVE (R149). -/
  | waive
  /-- ARRIVE (R140). -/
  | arrive
  /-- PATRON_BAR (R154). -/
  | patronBar
  /-- STREAM_REOPEN (R50). -/
  | streamReopen
  /-- FRESHEN_SUB_UNIT (R146). -/
  | freshenSubUnit
  /-- SKIP_UNIT (R87). -/
  | skipUnit
  /-- END_UNIT (R94, R95). -/
  | endUnit
  /-- FAULT_UNIT (R96). -/
  | faultUnit
  /-- SWEEP_FRESHEN (R164). -/
  | sweepFreshen
  /-- SWEEP_EXPIRY (R164). -/
  | sweepExpiry
  /-- SWEEP_RESUME (R164). -/
  | sweepResume
  /-- SWEEP_PROGRESS (R163). -/
  | sweepProgress
  /-- NOTE_WRITE_DONE (R92). -/
  | noteWriteDone (a : Answer)
  /-- APPLY_WRITE_DONE (R93). -/
  | applyWriteDone (a : Answer)
  /-- UNIT_END (R93). -/
  | unitEnd (a : Answer)
  /-- SWEEP_READ_DONE (R161). -/
  | sweepReadDone (a : Answer)
  /-- SWEEP_READ_TIMEOUT (R166). -/
  | sweepReadTimeout
  /-- CALENDAR_WRITE (R157). -/
  | calendarWrite (tag : Nat) (a : Answer)
  /-- APPLY_REQUEST (R172). -/
  | applyRequest (tag : Nat) (a : Answer)
  /-- FORMAT_REQUEST (R172). -/
  | formatRequest (tag : Nat) (a : Answer)
  /-- WARM_RESET_REQUEST (R172). -/
  | warmResetRequest (tag : Nat) (a : Answer)
  /-- APPLY (R173). -/
  | applySetup
  /-- SETUP_READ_DONE (R173). -/
  | setupReadDone (a : Answer)
  /-- SETUP_READ_TIMEOUT (R173). -/
  | setupReadTimeout
  /-- FORMAT (R174). -/
  | format
  /-- FORMAT_WRITE_DONE (R175). -/
  | formatWriteDone (a : Answer)
  /-- WARM_RESET (R177). -/
  | warmReset
  /-- STARTUP_READ_TIMEOUT (R178). -/
  | startupReadTimeout
  deriving DecidableEq, Repr

end Sys2Proof
end

