-- ==== Sys2Proof/WellFormed.lean ====
section
/-! DEFINITION. What a command must satisfy to be one the ports can carry (chapter 1: "burst length is 1 to 16 words",
"a write also carries one strobe per byte"). -/

namespace Sys2Proof

/-- A request the upstream port can carry. -/
def Request.wf (r : Request) : Bool :=
  decide (1 ≤ r.words) && decide (r.words ≤ 16) &&
    (if r.write then decide (r.lanes.length = 8 * r.words) else r.lanes.isEmpty)

/-- A well-formed command. Only UPSTREAM_REQUEST has operands that can be malformed. -/
def Instr.wf : Instr → Bool
  | .upstreamRequest r => r.wf
  | _ => true

end Sys2Proof
end

