-- ==== Sys2Proof/Machine/State.lean ====
section
/-! DEFINITION. The state of the CI-32 as plain data: everything spec/ names, on chip and in memory, and the queue of waiting
commands. INVENTORY.md lists each piece with its rule and reset value. -/

namespace Sys2Proof.Machine

/-- Memory: (address, byte) pairs, addresses strictly rising, no byte equal to what an unlisted address reads as (log 1). -/
abbrev Memory := List Host.Cell

/-! ## Records of the store (chapter 2, section 12.1) -/

/-- The five regions (R22). -/
inductive Region where
  | patrons | cards | titles | items | holds
  deriving DecidableEq, Repr

/-- What a read of the engine gathers and an image names: a region record, the summary record, or a desk (R91). -/
inductive Target where
  | record (r : Region) (i : Nat)
  | summary
  | desk (n : StreamId)
  deriving DecidableEq, Repr

/-- The fields of a patron record that a unit reads (R26): one plain field and the guarded part. -/
structure Patron where
  expiry : Nat
  balance : Nat
  loans : List Nat
  activeHolds : Nat
  noShow : Nat
  bar : Bool
  ban : Option Nat
  deriving DecidableEq, Repr

inductive CardState where
  | active | lost | withdrawn
  deriving DecidableEq, Repr

/-- A card record (R28); `patron` is the index as stored. -/
structure Card where
  patron : Nat
  state : CardState
  deriving DecidableEq, Repr

/-- A title record (R29, R30); `copies` are the copy-list entries as stored. -/
structure Title where
  copies : List Nat
  queueLen : Nat
  first : Option Nat
  last : Option Nat
  deriving DecidableEq, Repr

inductive ItemState where
  | available | onLoan | setAside
  deriving DecidableEq, Repr

/-- An item record (R31); `title` is the index as stored. -/
structure Item where
  title : Nat
  cls : Nat
  home : Nat
  circulates : Bool
  state : ItemState
  loc : Option Nat
  renewals : Nat
  borrower : Option Nat
  due : Option Nat
  accrued : Nat
  charged : Option Nat
  aside : Option Nat
  deriving DecidableEq, Repr

inductive HoldState where
  | free | waiting | suspended | inTransit | onShelf
  deriving DecidableEq, Repr

/-- A hold record (R32). -/
structure Hold where
  state : HoldState
  pickup : Nat
  patron : Option Nat
  title : Option Nat
  placed : Nat
  suspend : Option Nat
  copy : Option Nat
  deadline : Option Nat
  next : Option Nat
  deriving DecidableEq, Repr

/-- The sweep state, and the phase field of the summary (R34, R159). -/
inductive SweepPhase where
  | idle | items | holds
  deriving DecidableEq, Repr

/-- The summary record (R34). -/
structure Summary where
  stamp : List Byte
  freeHead : Option Nat
  freeCount : Nat
  charged : Nat
  paid : Nat
  waived : Nat
  placed : Nat
  collected : Nat
  expired : Nat
  cancelled : Nat
  lent : Nat
  returned : Nat
  renewed : Nat
  target : Nat
  phase : SweepPhase
  position : Nat
  sweptThrough : Nat
  skipped : Nat
  deriving DecidableEq, Repr

/-! ## Streams, sessions, watches, desks (chapters 3, 4, 5) -/

inductive Grade where
  | kiosk | desk | supervisor
  deriving DecidableEq, Repr

/-- A stream's session (R38). The claimed patron is present exactly while CLAIMED, so it stands in that constructor. -/
inductive Session where
  | off | vacant | claimed (patron : Nat) | barred
  deriving DecidableEq, Repr

inductive WatchCondition where
  | unspoiled | spoiled
  deriving DecidableEq, Repr

/-- A watch (R71). -/
structure Watch where
  region : Region
  index : Nat
  condition : WatchCondition
  deriving DecidableEq, Repr

inductive BatchState where
  | idle | collecting | queued | settling
  deriving DecidableEq, Repr

inductive AnswerState where
  | empty | waiting | working | fresh | seen
  deriving DecidableEq, Repr

inductive BatchResult where
  | none | complete | notReady | barred | badClose | short | torn | check | cancelled
  | collectTimeout | claimTaken | idleRelease | cut | halted
  deriving DecidableEq, Repr

/-- The outcome codes (section 12.4). -/
inductive OutcomeCode where
  | done | partially | skipped | cancelled | cut | halted | storeFault | badKind | grade | noPatron
  | outOfTurn | badTarget | cardUnknown | cardLost | inUse | patronExpired | patronBarred | fineBlock
  | notShown | changed | notCirculating | onLoan | alreadyYours | reserved | loanLimit | notOnLoan
  | notYours | renewLimit | holdsWaiting | holdExists | haveCopy | holdLimit | queueFull | poolFull
  | copyHere | holdBan | noHold | holdBusy | badDay | notInTransit | wrongBranch | badAmount
  | overBalance | overWaiveLimit | notBarred | badStream
  deriving DecidableEq, Repr

/-- An outcome record (R64). -/
structure OutcomeRec where
  entry : Nat
  kind : Nat
  code : OutcomeCode
  tag : Nat
  d1 : Nat
  d2 : Nat
  deriving DecidableEq, Repr

/-- The answer header of a desk (R65). -/
structure AnswerHeader where
  state : AnswerState
  result : BatchResult
  count : Nat
  guardHits : Nat
  deriving DecidableEq, Repr

/-- Everything the Session Table, the Guard, the Watch Table and Desk Capture hold for one stream (R36, R11, R71, R53).
The four setup fields of R36 stand in the setup in force. `captured` is the captured slots, offset from slot 0 to byte, zero
where unlisted. `answersRaised` is the model's own count of answer writes raised (R67, log 39). -/
structure Stream where
  session : Session
  checkFails : Nat
  idleTimer : Option Nat
  guardHits : Nat
  watches : List Watch
  batch : BatchState
  captured : Memory
  written : Vector Bool 64
  torn : Vector Bool 64
  collectTimer : Option Nat
  closedCount : Nat
  cancelAsked : Bool
  answer : AnswerState
  answersRaised : Nat
  deriving DecidableEq, Repr

/-! ## The setup in force (R169) -/

structure RegionEntry where
  offset : Nat
  count : Nat
  deriving DecidableEq, Repr

structure RegionTable where
  patrons : RegionEntry
  cards : RegionEntry
  titles : RegionEntry
  items : RegionEntry
  holds : RegionEntry
  deriving DecidableEq, Repr

/-- The four setup fields of a stream (R36). -/
structure StreamCfg where
  enable : Bool
  grade : Grade
  branch : Nat
  attention : Bool
  deriving DecidableEq, Repr

/-- A class-table entry (R143). -/
structure ClassEntry where
  loanPeriod : Nat
  renewalLimit : Nat
  rate : Nat
  cap : Nat
  grace : Nat
  deriving DecidableEq, Repr

/-- The limits, in the order of R169. -/
structure Limits where
  loanLimit : Nat
  holdLimit : Nat
  blockThreshold : Nat
  noShowLimit : Nat
  banLength : Nat
  shelfDays : Nat
  waiveLimit : Nat
  idleLimit : Nat
  collectLimit : Nat
  checkLimit : Nat
  deriving DecidableEq, Repr

structure Setup where
  regions : RegionTable
  streams : Vector StreamCfg 32
  classes : Vector ClassEntry 8
  limits : Limits
  deriving DecidableEq, Repr

/-! ## Requests on the path (chapter 1) -/

/-- An accepted upstream request with its serial number; its lanes are as the Guard left them once it has judged them. -/
structure UpReq where
  tag : Nat
  req : Request
  deriving DecidableEq, Repr

/-- What an own request is for: the block that raised it and where its answer goes (R17, R18). -/
inductive SetupPart where
  | status | regions | streams | classes | limits | calendar
  deriving DecidableEq, Repr

inductive OwnTag where
  /-- a gather read of the Settle Engine (R88) -/
  | gather (t : Target)
  /-- the WORKING write of a batch taken (R85) -/
  | working (n : StreamId)
  /-- a note write before WRITTEN (R92) -/
  | note
  /-- the WRITTEN write (R92) -/
  | written
  /-- an apply write; `desk` names the desk of a desk image, which is an answer write (R93) -/
  | image (desk : Option StreamId)
  /-- the CLEAR write of a unit (R93) -/
  | clear
  /-- an answer write of a halting engine (R98) -/
  | haltAnswer (n : StreamId)
  /-- a session-word write (R39) -/
  | sessionWord (n : StreamId)
  /-- an answer write of Desk Capture (R65) -/
  | answer (n : StreamId)
  /-- the SEEN write (R67) -/
  | seen (n : StreamId)
  /-- a status-word write (R170) -/
  | status
  /-- a calendar rewrite (R158) -/
  | calendar
  /-- an examination read of the Day Sweep (R161) -/
  | sweepRead
  /-- a setup read for an apply or a format (R173) -/
  | setupRead
  /-- a start-up read (R178 to R180) -/
  | startupRead
  /-- a start-up write (R179, R180); `desk` names the desk whose answer area it changes, which makes it an answer write (R67, R93) -/
  | startupWrite (desk : Option StreamId)
  /-- the status-word write of a start-up outcome (R178) -/
  | startupStatus
  /-- a format write (R175) -/
  | format
  deriving DecidableEq, Repr

inductive OwnBody where
  | read (len : Nat)
  | write (lanes : List Lane)
  deriving DecidableEq, Repr

/-- An own request. `holds` names the upstream request whose response waits for this write (R19, R49). -/
structure OwnReq where
  serial : Nat
  tag : OwnTag
  addr : Nat
  body : OwnBody
  holds : Option Nat
  deriving DecidableEq, Repr

/-- An upstream request issued downstream. `snapshot`: for a read, what memory held at the issue. `touched`: the in-flight
records met since the issue (R14). `answersAtIssue`, `answerPending`: the state of the stream's answer writes at the issue (R67). -/
structure IssuedUp where
  up : UpReq
  snapshot : List Byte
  touched : List Target
  answersAtIssue : Nat
  answerPending : Bool
  deriving DecidableEq, Repr

/-- An own request issued downstream. -/
structure IssuedOwn where
  req : OwnReq
  snapshot : List Byte
  touched : List Target
  deriving DecidableEq, Repr

/-- A response at the upstream port: done or error, and the data of a read. -/
structure UpAnswer where
  ok : Bool
  data : List Byte
  deriving DecidableEq, Repr

/-- An accepted upstream request not yet answered upstream, in order of acceptance (R17). `closes`: it is a close or cancel write,
which holds back its stream's later requests (R19). `failed`: an answer write its response waits for was answered error. -/
structure Outstanding where
  tag : Nat
  stream : StreamId
  closes : Bool
  failed : Bool
  answer : Option UpAnswer
  deriving DecidableEq, Repr

/-- A response returned at the upstream port (log 38). -/
structure Returned where
  tag : Nat
  stream : StreamId
  answer : UpAnswer
  deriving DecidableEq, Repr

inductive PortKind where
  | upstream | own
  deriving DecidableEq, Repr

/-- The inline path and the Downstream Arbiter (R6, R17, R18, R19). -/
structure Path where
  upSlot : Option UpReq
  ownSlot : Option OwnReq
  raised : List OwnReq
  lastGranted : PortKind
  holdList : List UpReq
  holdFull : Bool
  aside : List UpReq
  upIssued : List IssuedUp
  ownIssued : List IssuedOwn
  outstanding : List Outstanding
  formatHeld : List OwnReq
  returned : List Returned
  deriving DecidableEq, Repr

/-! ## The Settle Engine (R82) -/

inductive EntryKind where
  | claim | release | lend | returnItem | renew | renewSet | holdPlace | holdCancel | holdPause
  | pay | waive | arrive | patronBar | streamReopen
  deriving DecidableEq, Repr

/-- The Day Sweep's offers (R161 to R163): an item unit, a resume unit, or the progress unit at the end of ITEMS
(`false`) or HOLDS (`true`). -/
inductive Offer where
  | item (k : Nat)
  | resume (k : Nat)
  | progress (endOfHolds : Bool)
  deriving DecidableEq, Repr

/-- `refusal` is an entry whose common check prefix failed (R88, R89). -/
inductive UnitKind where
  | entry (k : EntryKind)
  | refusal
  | freshenSub
  | renewalSub
  | closing
  | skip
  | endBatch
  | fault
  | sweep (o : Offer)
  deriving DecidableEq, Repr

inductive Phase where
  | gather | decide | note | apply | clear
  deriving DecidableEq, Repr

/-- A desk image (R90): the header when it ends the batch, and consecutive outcome records from index `first`. -/
structure DeskImage where
  desk : StreamId
  header : Option AnswerHeader
  first : Nat
  records : List OutcomeRec
  deriving DecidableEq, Repr

/-- One image of a change list (R91). A region image holds the record as gathered and its new contents. -/
inductive Image where
  | patron (i : Nat) (raw : List Byte) (p : Patron)
  | title (i : Nat) (raw : List Byte) (t : Title)
  | item (i : Nat) (raw : List Byte) (c : Item)
  | hold (i : Nat) (raw : List Byte) (h : Hold)
  | summary (x : Summary)
  | desk (d : DeskImage)
  deriving DecidableEq, Repr

/-- A downstream write not yet raised. -/
structure MemWrite where
  off : Nat
  lanes : List Lane
  tag : OwnTag
  deriving DecidableEq, Repr

/-- The current unit (R82). `code` is its unit-kind code in the note, `failed` the record whose gather read failed (fault unit),
`toWrite` the writes of its phase not yet raised, `reported` whether the Day Sweep still listens for its end (R167). -/
structure WorkUnit where
  kind : UnitKind
  owner : Option StreamId
  entry : Option Nat
  code : Nat
  phase : Phase
  day : Nat
  gathered : List (Target × List Byte)
  failed : Option Target
  changes : List Image
  spoil : List Target
  redoUsed : Bool
  toWrite : List MemWrite
  reported : Bool
  deriving DecidableEq, Repr

/-- The progress of a RENEW_SET (R116, R117): positions and items still to renew, how many renewed and refused, and the position and
code of the first refusal. -/
structure RenewProgress where
  remaining : List (Nat × Nat)
  renewed : Nat
  refused : Nat
  firstRefusal : Option (Nat × OutcomeCode)
  deriving DecidableEq, Repr

/-- The units of the current entry not yet run (R82, R86). -/
inductive SubUnits where
  | none
  | claim (patron : Nat) (items : List Nat)
  | renew (r : RenewProgress)
  deriving DecidableEq, Repr

/-- Why the current batch is to be ended at the boundary (R95). -/
inductive CutCause where
  | disabled | warmReset
  deriving DecidableEq, Repr

/-- The current batch: its stream; the entry to begin next, or in progress while `sub` is not `none`; whether the entry before it
finished DONE (R87); the copy of the outcome records its units have written (R90). -/
structure CurrentBatch where
  stream : StreamId
  next : Nat
  prevDone : Bool
  sub : SubUnits
  outcomes : List OutcomeRec
  cut : Option CutCause
  deriving DecidableEq, Repr

inductive Turn where
  | batch | sweep
  deriving DecidableEq, Repr

structure Engine where
  running : Bool
  batch : Option CurrentBatch
  unit : Option WorkUnit
  inFlight : List Target
  lastTurn : Turn
  deriving DecidableEq, Repr

/-! ## The Day Sweep (R159) -/

/-- An examination read under way (R161): the own request, and what is examined. -/
inductive Examined where
  | item (k : Nat)
  | asideHold (k : Nat) (h : Nat)
  | hold (k : Nat)
  deriving DecidableEq, Repr

structure Sweep where
  phase : SweepPhase
  target : Nat
  position : Nat
  sweptThrough : Nat
  skipped : Nat
  offer : Option Offer
  stopped : Bool
  reading : Option (Nat × Examined)
  deriving DecidableEq, Repr

/-! ## The Setup Loader (R169) -/

inductive PartState where
  | starting | unset | unformatted | formatting | ready
  deriving DecidableEq, Repr

/-- The last setup result (R170). -/
inductive ResultCode where
  | noneYet | accepted | outOfRange | misaligned | badCount | beyondAperture | overlap
  | regionsFixed | busy | calendarBackward | readFault | formatFault
  deriving DecidableEq, Repr

/-- A result with the field the status word shows beside it (section 12.3). -/
structure SetupResult where
  code : ResultCode
  field : Nat
  deriving DecidableEq, Repr

inductive RequestKind where
  | apply | format | warmReset
  deriving DecidableEq, Repr

/-- An image as the note area holds it (section 12.3). -/
structure RawImage where
  kind : Nat
  run : Nat
  index : Nat
  length : Nat
  bytes : List Byte
  deriving DecidableEq, Repr

/-- The places of the start-up order (R178 to R180), each a read or a write under way. -/
inductive StartStep where
  | readSetup (p : SetupPart)
  | readStamp
  | readNoteState
  | readNoteHead
  | readImage (i : Nat)
  | writeImage (i : Nat)
  | clearNote
  | scanDesk (n : StreamId)
  | answerDesk (n : StreamId)
  | writeSession (n : StreamId)
  deriving DecidableEq, Repr

structure Startup where
  step : StartStep
  retried : Bool
  block : Memory
  count : Nat
  images : List RawImage
  deriving DecidableEq, Repr

/-- The places of a format (R175). -/
inductive FormatStep where
  | stampZero
  | note
  | desk (n : StreamId)
  | record (r : Region) (k : Nat)
  | summaryRest
  | summaryFields
  | stamp
  deriving DecidableEq, Repr

/-- A format under way: its place, whether its write was raised again, and the today it took (R35). -/
structure Formatting where
  step : FormatStep
  retried : Bool
  day : Nat
  deriving DecidableEq, Repr

/-- The exchange the Setup Loader is carrying out. -/
inductive Job where
  | idle
  | reading (k : RequestKind) (p : SetupPart) (block : Memory)
  | validated (k : RequestKind) (u : Setup)
  | startup (st : Startup)
  | formatting (f : Formatting)
  deriving DecidableEq, Repr

structure Loader where
  part : PartState
  inForce : Option Setup
  today : Option Nat
  result : SetupResult
  faults : Nat
  requests : List RequestKind
  job : Job
  deriving DecidableEq, Repr

/-! ## The whole state -/

structure State where
  inReset : Bool
  base : Nat
  mem : Memory
  path : Path
  streams : Vector Stream 32
  queue : List StreamId
  engine : Engine
  sweep : Sweep
  loader : Loader
  serial : Nat
  pending : List Instr
  deriving DecidableEq, Repr

/-- The reasons a step ends in a fault: there are none. The spec gives every row of the table an effect, and error answers of memory
have the effects of R96 to R98 and their like. -/
inductive Fault where
  deriving DecidableEq, Repr

/-- The reasons a step is refused. -/
inductive Refusal where
  /-- Raised by an arm of `exec` whose command has no meaning yet; safe. No arm raises it now. -/
  | notModelled (mnemonic : String)
  deriving DecidableEq, Repr

/-! ## Reset values -/

/-- A stream's entry at the release of a cold reset (R36, R53, R71, R20). -/
def Stream.reset : Stream where
  session := .off
  checkFails := 0
  idleTimer := none
  guardHits := 0
  watches := []
  batch := .idle
  captured := []
  written := Vector.replicate 64 false
  torn := Vector.replicate 64 false
  collectTimer := none
  closedCount := 0
  cancelAsked := false
  answer := .empty
  answersRaised := 0

/-- The path at the release of a cold reset (R17, R20). -/
def Path.reset : Path where
  upSlot := none
  ownSlot := none
  raised := []
  lastGranted := .own
  holdList := []
  holdFull := false
  aside := []
  upIssued := []
  ownIssued := []
  outstanding := []
  formatHeld := []
  returned := []

/-- The Settle Engine at the release of a cold reset (R82). -/
def Engine.reset : Engine where
  running := true
  batch := none
  unit := none
  inFlight := []
  lastTurn := .sweep

/-- The Day Sweep at the release of a cold reset (R159). -/
def Sweep.reset : Sweep where
  phase := .idle
  target := 0
  position := 0
  sweptThrough := 0
  skipped := 0
  offer := none
  stopped := false
  reading := none

/-- The Setup Loader at the release of a cold reset (R169). The result and the count are loaded by start-up; until then
DESIGN CHOICE "none yet" and 0 (log 17). -/
def Loader.reset : Loader where
  part := .starting
  inForce := none
  today := none
  result := ⟨.noneYet, 0⟩
  faults := 0
  requests := []
  job := .idle

/-- The machine right after reset: the reset pin asserted, every piece of on-chip state at the value the rules give for the release
of a cold reset, memory with nothing listed. DESIGN CHOICE (log 2): aperture base 0 until the first release samples the pins. -/
def State.reset : State where
  inReset := true
  base := 0
  mem := []
  path := Path.reset
  streams := Vector.replicate 32 Stream.reset
  queue := []
  engine := Engine.reset
  sweep := Sweep.reset
  loader := Loader.reset
  serial := 0
  pending := []

end Sys2Proof.Machine
end

