-- ==== Sys2Proof/Machine/Memory.lean ====
section
/-! DEFINITION. Memory as a sorted list of cells: one byte read, one byte written, runs and strobed lanes. -/

namespace Sys2Proof.Machine

/-- What a byte of memory that nothing has written reads as: DESIGN CHOICE 0, unsafe (log 1). -/
def Memory.unlisted : Byte := 0

/-- One byte of memory. -/
def Memory.read : Memory → Nat → Byte
  | [], _ => Memory.unlisted
  | (a, b) :: m, x => if a = x then b else Memory.read m x

/-- Writing one byte, keeping the canonical form: a byte equal to the unlisted value is not listed. -/
def Memory.write : Memory → Nat → Byte → Memory
  | [], x, v => if v = Memory.unlisted then [] else [(x, v)]
  | (a, b) :: m, x, v =>
    if x < a then (if v = Memory.unlisted then (a, b) :: m else (x, v) :: (a, b) :: m)
    else if x = a then (if v = Memory.unlisted then m else (x, v) :: m)
    else (a, b) :: Memory.write m x v

/-- The canonical form: addresses strictly rising, no listed byte equal to the unlisted value. -/
abbrev Memory.wf (m : Memory) : Prop :=
  m.Pairwise (fun c d => c.1 < d.1) ∧ ∀ c ∈ m, c.2 ≠ Memory.unlisted

/-- `n` bytes from address `a`. -/
def Memory.bytes (m : Memory) (a : Nat) : Nat → List Byte
  | 0 => []
  | n + 1 => m.read a :: Memory.bytes m (a + 1) n

/-- Writing lanes from address `a`: only bytes whose strobe is set change. -/
def Memory.writeLanes (m : Memory) (a : Nat) : List Lane → Memory
  | [] => m
  | l :: ls => Memory.writeLanes (if l.strobe then m.write a l.value else m) (a + 1) ls

/-- Lanes with every strobe set. -/
def lanesOf (bs : List Byte) : List Lane := bs.map (fun b => ⟨true, b⟩)

/-- A lane with its strobe clear. -/
def noLane : Lane := ⟨false, 0⟩

/-- The lanes of which only the first `k` strobed ones are kept: a write cut off partway (log 6, 7). -/
def cutLanes : Nat → List Lane → List Lane
  | _, [] => []
  | 0, _ :: ls => noLane :: cutLanes 0 ls
  | k + 1, l :: ls => if l.strobe then l :: cutLanes k ls else l :: cutLanes (k + 1) ls

/-- Whether an answer is done. -/
def answeredDone : Answer → Bool
  | .done => true
  | .doneAsIssued => true
  | .error _ => false

/-- Memory after an answered write of lanes at `a`: all of them when done, a first part when answered error (log 6). -/
def Memory.land (m : Memory) (a : Nat) (lanes : List Lane) : Answer → Memory
  | .done => m.writeLanes a lanes
  | .doneAsIssued => m.writeLanes a lanes
  | .error k => m.writeLanes a (cutLanes k lanes)

/-- Memory after an answered write that, answered error, leaves memory as it was (R39, R65, R158, R170). -/
def Memory.landWhole (m : Memory) (a : Nat) (lanes : List Lane) (ans : Answer) : Memory :=
  if answeredDone ans then m.writeLanes a lanes else m

end Sys2Proof.Machine
end

