-- ==== Sys2Proof/Machine/Operands.lean ====
section
/-! DEFINITION. Layouts and codes (chapter 12): how every field of a record, an entry, an outcome, a desk, the note and the setup
words is read from bytes and written as bytes. -/

namespace Sys2Proof.Machine

/-! ## Fields of two, four and eight bytes, least significant byte first -/

/-- The number a run of bytes holds. -/
def leNat : List Byte → Nat
  | [] => 0
  | b :: bs => b.toNat + 256 * leNat bs

/-- A number as `n` bytes. -/
def leBytes : Nat → Nat → List Byte
  | 0, _ => []
  | n + 1, v => BitVec.ofNat 8 v :: leBytes n (v / 256)

/-- The field of `n` bytes at offset `off`. -/
def fieldAt (bs : List Byte) (off n : Nat) : Nat := leNat ((bs.drop off).take n)

/-- An optional 4-byte field: absent is every bit one (R181). -/
def opt4 (v : Nat) : Option Nat := if v = Config.absent4 then none else some v

/-- An optional 1-byte field (R181). -/
def opt1 (v : Nat) : Option Nat := if v = Config.absent1 then none else some v

/-- An optional 4-byte field as bytes. -/
def put4 : Option Nat → List Byte
  | none => leBytes 4 Config.absent4
  | some v => leBytes 4 v

/-- An optional 1-byte field as bytes. -/
def put1 : Option Nat → List Byte
  | none => leBytes 1 Config.absent1
  | some v => leBytes 1 v

/-- A yes-or-no field of one byte (0 no, 1 yes). -/
def putBool (b : Bool) : List Byte := if b then [1] else [0]

/-- `n` 4-byte places from offset `off`. -/
def placesAt (bs : List Byte) (off : Nat) : Nat → List Nat
  | 0 => []
  | n + 1 => fieldAt bs off 4 :: placesAt bs (off + 4) n

/-- `n` 4-byte places holding a list, the places beyond it absent (R27). -/
def putPlaces : Nat → List Nat → List Byte
  | 0, _ => []
  | n + 1, [] => put4 none ++ putPlaces n []
  | n + 1, x :: xs => leBytes 4 x ++ putPlaces n xs

/-- `n` zero bytes. -/
def zeros (n : Nat) : List Byte := List.replicate n 0

/-! ## Regions (R3, R22, section 12.3) -/

/-- The record size of a region (R3). -/
def Region.size : Region → Nat
  | .patrons => 256
  | .cards => 16
  | .titles => 256
  | .items => 64
  | .holds => 64

/-- The largest record count of a region (R22). -/
def Region.maxCount : Region → Nat
  | .patrons => 524288
  | .cards => 1048576
  | .titles => 524288
  | .items => 1048576
  | .holds => 262144

/-- The region codes (section 12.3). -/
def Region.code : Region → Nat
  | .patrons => 1
  | .cards => 2
  | .titles => 3
  | .items => 4
  | .holds => 5

def Region.ofCode : Nat → Option Region
  | 1 => some .patrons
  | 2 => some .cards
  | 3 => some .titles
  | 4 => some .items
  | 5 => some .holds
  | _ => none

/-- The regions in their order: patrons first, holds last (R171). -/
def allRegions : List Region := [.patrons, .cards, .titles, .items, .holds]

/-- The entry of a region in a region table. -/
def RegionTable.entry (t : RegionTable) : Region → RegionEntry
  | .patrons => t.patrons
  | .cards => t.cards
  | .titles => t.titles
  | .items => t.items
  | .holds => t.holds

/-- Offset of the mark byte in a record (section 12.1). -/
def Region.markOff : Region → Nat
  | .patrons => 81
  | .cards => 5
  | .titles => 117
  | .items => 7
  | .holds => 2

/-- The three kinds of a record's bytes (section 2.2). -/
inductive FieldKind where
  | plain | guarded | mark
  deriving DecidableEq, Repr

/-- The field plan of a region (section 12.1). -/
def Region.fieldKind (r : Region) (o : Nat) : FieldKind :=
  if o = r.markOff then .mark
  else match r with
    | .patrons => if 84 ≤ o then .guarded else .plain
    | .cards => .plain
    | .titles => if 118 ≤ o ∧ o < 128 then .guarded else .plain
    | .items => if 8 ≤ o then .guarded else .plain
    | .holds => .guarded

/-- The code of a target in detail 2 of STORE_FAULT (section 12.3). -/
def Target.code : Target → Nat
  | .record r _ => r.code
  | .summary => 6
  | .desk _ => 7

/-- The index a target names (section 12.3). -/
def Target.index : Target → Nat
  | .record _ i => i
  | .summary => 0
  | .desk n => n.val

/-! ## Codes (sections 12.1 to 12.4) -/

def ItemState.code : ItemState → Nat
  | .available => 0
  | .onLoan => 1
  | .setAside => 2

/-- The state of an item byte. A byte no unit writes is read AVAILABLE (log 28). -/
def ItemState.ofCode : Nat → ItemState
  | 1 => .onLoan
  | 2 => .setAside
  | _ => .available

def HoldState.code : HoldState → Nat
  | .free => 0
  | .waiting => 1
  | .suspended => 2
  | .inTransit => 3
  | .onShelf => 4

/-- The state of a hold byte. A byte no unit writes is read FREE (log 28). -/
def HoldState.ofCode : Nat → HoldState
  | 1 => .waiting
  | 2 => .suspended
  | 3 => .inTransit
  | 4 => .onShelf
  | _ => .free

/-- R181: 0 is ACTIVE, 1 is LOST, any other value WITHDRAWN. -/
def CardState.ofCode : Nat → CardState
  | 0 => .active
  | 1 => .lost
  | _ => .withdrawn

def SweepPhase.code : SweepPhase → Nat
  | .idle => 0
  | .items => 1
  | .holds => 2

/-- The phase of a summary byte. A byte no unit writes is read IDLE (log 28). -/
def SweepPhase.ofCode : Nat → SweepPhase
  | 1 => .items
  | 2 => .holds
  | _ => .idle

def AnswerState.code : AnswerState → Nat
  | .empty => 0
  | .waiting => 1
  | .working => 2
  | .fresh => 3
  | .seen => 4

def AnswerState.ofCode : Nat → Option AnswerState
  | 0 => some .empty
  | 1 => some .waiting
  | 2 => some .working
  | 3 => some .fresh
  | 4 => some .seen
  | _ => none

def Session.code : Session → Nat
  | .off => 0
  | .vacant => 1
  | .claimed _ => 2
  | .barred => 3

def Grade.code : Grade → Nat
  | .kiosk => 1
  | .desk => 2
  | .supervisor => 3

def Grade.ofCode : Nat → Option Grade
  | 1 => some .kiosk
  | 2 => some .desk
  | 3 => some .supervisor
  | _ => none

def PartState.code : PartState → Nat
  | .starting => 0
  | .unset => 1
  | .unformatted => 2
  | .formatting => 3
  | .ready => 4

def ResultCode.code : ResultCode → Nat
  | .noneYet => 0
  | .accepted => 1
  | .outOfRange => 2
  | .misaligned => 3
  | .badCount => 4
  | .beyondAperture => 5
  | .overlap => 6
  | .regionsFixed => 7
  | .busy => 8
  | .calendarBackward => 9
  | .readFault => 10
  | .formatFault => 11

def BatchResult.code : BatchResult → Nat
  | .none => 0
  | .complete => 1
  | .notReady => 2
  | .barred => 3
  | .badClose => 4
  | .short => 5
  | .torn => 6
  | .check => 7
  | .cancelled => 8
  | .collectTimeout => 9
  | .claimTaken => 10
  | .idleRelease => 11
  | .cut => 12
  | .halted => 13

def OutcomeCode.code : OutcomeCode → Nat
  | .done => 1
  | .partially => 2
  | .skipped => 3
  | .cancelled => 4
  | .cut => 5
  | .halted => 7
  | .storeFault => 8
  | .badKind => 9
  | .grade => 10
  | .noPatron => 11
  | .outOfTurn => 12
  | .badTarget => 13
  | .cardUnknown => 14
  | .cardLost => 15
  | .inUse => 16
  | .patronExpired => 17
  | .patronBarred => 18
  | .fineBlock => 19
  | .notShown => 20
  | .changed => 21
  | .notCirculating => 22
  | .onLoan => 23
  | .alreadyYours => 25
  | .reserved => 26
  | .loanLimit => 27
  | .notOnLoan => 28
  | .notYours => 29
  | .renewLimit => 30
  | .holdsWaiting => 31
  | .holdExists => 32
  | .haveCopy => 33
  | .holdLimit => 34
  | .queueFull => 35
  | .poolFull => 37
  | .copyHere => 38
  | .holdBan => 39
  | .noHold => 40
  | .holdBusy => 41
  | .badDay => 42
  | .notInTransit => 43
  | .wrongBranch => 44
  | .badAmount => 45
  | .overBalance => 46
  | .overWaiveLimit => 47
  | .notBarred => 48
  | .badStream => 49

def EntryKind.code : EntryKind → Nat
  | .claim => 1
  | .release => 2
  | .lend => 3
  | .returnItem => 4
  | .renew => 5
  | .renewSet => 6
  | .holdPlace => 7
  | .holdCancel => 8
  | .holdPause => 9
  | .pay => 10
  | .waive => 11
  | .arrive => 12
  | .patronBar => 13
  | .streamReopen => 14

def EntryKind.ofCode : Nat → Option EntryKind
  | 1 => some .claim
  | 2 => some .release
  | 3 => some .lend
  | 4 => some .returnItem
  | 5 => some .renew
  | 6 => some .renewSet
  | 7 => some .holdPlace
  | 8 => some .holdCancel
  | 9 => some .holdPause
  | 10 => some .pay
  | 11 => some .waive
  | 12 => some .arrive
  | 13 => some .patronBar
  | 14 => some .streamReopen
  | _ => none

/-- The note's unit-kind codes that are not entry kinds (section 12.3). -/
def codeFreshenSub : Nat := 16
def codeRenewalSub : Nat := 17
def codeClosing : Nat := 18
def codeSkip : Nat := 19
def codeEnd : Nat := 20
def codeFault : Nat := 21
def codeSweepFreshen : Nat := 32
def codeSweepExpiry : Nat := 33
def codeSweepResume : Nat := 34
def codeSweepProgress : Nat := 35

/-! ## Records read from bytes (section 12.1) -/

/-- DESIGN CHOICE (log 28): a loan list longer than its 40 places is read as 40, and a staff-bar byte other than 0 and 1 as yes. -/
def parsePatron (bs : List Byte) : Patron where
  expiry := fieldAt bs 82 2
  balance := fieldAt bs 84 4
  loans := placesAt bs 96 (min (fieldAt bs 88 1) 40)
  activeHolds := fieldAt bs 89 1
  noShow := fieldAt bs 90 1
  bar := decide (fieldAt bs 91 1 ≠ 0)
  ban := opt4 (fieldAt bs 92 4)

def parseCard (bs : List Byte) : Card where
  patron := fieldAt bs 0 4
  state := CardState.ofCode (fieldAt bs 4 1)

/-- R25: a copy-list length above 32 is read as 32. -/
def parseTitle (bs : List Byte) : Title where
  copies := placesAt bs 128 (min (fieldAt bs 116 1) 32)
  queueLen := fieldAt bs 118 1
  first := opt4 (fieldAt bs 120 4)
  last := opt4 (fieldAt bs 124 4)

/-- R181: low three bits of the class, low six of the home branch, low bit of circulates. -/
def parseItem (bs : List Byte) : Item where
  title := fieldAt bs 0 4
  cls := fieldAt bs 4 1 % 8
  home := fieldAt bs 5 1 % 64
  circulates := decide (fieldAt bs 6 1 % 2 = 1)
  state := ItemState.ofCode (fieldAt bs 8 1)
  loc := opt1 (fieldAt bs 9 1)
  renewals := fieldAt bs 10 1
  borrower := opt4 (fieldAt bs 12 4)
  due := opt4 (fieldAt bs 16 4)
  accrued := fieldAt bs 20 4
  charged := opt4 (fieldAt bs 24 4)
  aside := opt4 (fieldAt bs 28 4)

def parseHold (bs : List Byte) : Hold where
  state := HoldState.ofCode (fieldAt bs 0 1)
  pickup := fieldAt bs 1 1
  patron := opt4 (fieldAt bs 4 4)
  title := opt4 (fieldAt bs 8 4)
  placed := fieldAt bs 12 2
  suspend := opt4 (fieldAt bs 16 4)
  copy := opt4 (fieldAt bs 20 4)
  deadline := opt4 (fieldAt bs 24 4)
  next := opt4 (fieldAt bs 28 4)

/-- The summary record (section 12.1). The upper two bytes of a money total are zero there; a store that holds others in them has the low six
read alone: DESIGN CHOICE (log 28). -/
def parseSummary (bs : List Byte) : Summary where
  stamp := bs.take 8
  freeHead := opt4 (fieldAt bs 8 4)
  freeCount := fieldAt bs 12 4
  charged := fieldAt bs 16 6
  paid := fieldAt bs 24 6
  waived := fieldAt bs 32 6
  placed := fieldAt bs 40 4
  collected := fieldAt bs 44 4
  expired := fieldAt bs 48 4
  cancelled := fieldAt bs 52 4
  lent := fieldAt bs 56 4
  returned := fieldAt bs 60 4
  renewed := fieldAt bs 64 4
  target := fieldAt bs 68 2
  phase := SweepPhase.ofCode (fieldAt bs 70 1)
  position := fieldAt bs 72 4
  sweptThrough := fieldAt bs 76 2
  skipped := fieldAt bs 78 2

/-! ## Records written as bytes: the record as gathered with its guarded part replaced, spare bytes zero (R181) -/

def encodePatron (raw : List Byte) (p : Patron) : List Byte :=
  raw.take 84 ++ leBytes 4 p.balance ++ leBytes 1 p.loans.length ++ leBytes 1 p.activeHolds ++
    leBytes 1 p.noShow ++ putBool p.bar ++ put4 p.ban ++ putPlaces 40 p.loans

def encodeTitle (raw : List Byte) (t : Title) : List Byte :=
  raw.take 118 ++ leBytes 1 t.queueLen ++ [0] ++ put4 t.first ++ put4 t.last ++ raw.drop 128

def encodeItem (raw : List Byte) (c : Item) : List Byte :=
  raw.take 8 ++ leBytes 1 c.state.code ++ put1 c.loc ++ leBytes 1 c.renewals ++ [0] ++
    put4 c.borrower ++ put4 c.due ++ leBytes 4 c.accrued ++ put4 c.charged ++ put4 c.aside ++ zeros 32

def encodeHold (h : Hold) : List Byte :=
  leBytes 1 h.state.code ++ leBytes 1 h.pickup ++ [0, 0] ++ put4 h.patron ++ put4 h.title ++
    leBytes 2 h.placed ++ [0, 0] ++ put4 h.suspend ++ put4 h.copy ++ put4 h.deadline ++
    put4 h.next ++ zeros 32

/-- The summary record (section 12.1), the upper two bytes of each money total zero; its spare byte 71 is written zero: DESIGN CHOICE (log 48). -/
def encodeSummary (x : Summary) : List Byte :=
  x.stamp ++ put4 x.freeHead ++ leBytes 4 x.freeCount ++ leBytes 6 x.charged ++ [0, 0] ++
    leBytes 6 x.paid ++ [0, 0] ++ leBytes 6 x.waived ++ [0, 0] ++ leBytes 4 x.placed ++
    leBytes 4 x.collected ++ leBytes 4 x.expired ++ leBytes 4 x.cancelled ++ leBytes 4 x.lent ++
    leBytes 4 x.returned ++ leBytes 4 x.renewed ++ leBytes 2 x.target ++
    leBytes 1 x.phase.code ++ [0] ++ leBytes 4 x.position ++ leBytes 2 x.sweptThrough ++
    leBytes 2 x.skipped

/-! ## Empty forms (R35) -/

/-- The FREE form of a hold record (R32), its next the free-list link. -/
def Hold.freeForm (next : Option Nat) : Hold where
  state := .free
  pickup := 0
  patron := none
  title := none
  placed := 0
  suspend := none
  copy := none
  deadline := none
  next := next

/-- The empty form of record `k` of a region of `count` records (R35). The places of an empty copy list are written absent (log 21),
and the spare bytes of a card zero: DESIGN CHOICE (log 48). -/
def emptyRecord (r : Region) (k count : Nat) : List Byte :=
  match r with
  | .patrons => encodePatron (zeros 84) ⟨0, 0, [], 0, 0, false, none⟩
  | .cards => put4 none ++ zeros 12
  | .titles => encodeTitle (zeros 128 ++ putPlaces 32 []) ⟨[], 0, none, none⟩
  | .items => encodeItem (zeros 8) ⟨0, 0, 0, false, .available, none, 0, none, none, 0, none, none⟩
  | .holds => encodeHold (Hold.freeForm (if k + 1 < count then some (k + 1) else none))

/-- The summary of an empty store (R35), its stamp in place. -/
def emptySummary (holdCount today : Nat) : Summary where
  stamp := Config.formatStamp
  freeHead := some 0
  freeCount := holdCount
  charged := 0
  paid := 0
  waived := 0
  placed := 0
  collected := 0
  expired := 0
  cancelled := 0
  lent := 0
  returned := 0
  renewed := 0
  target := today
  phase := .idle
  position := 0
  sweptThrough := today
  skipped := 0

/-! ## Entries (section 12.2, R62) -/

/-- An entry's fields as written. `kind` is the code, `day` the four bytes as written. -/
structure Entry where
  kind : Nat
  afterDone : Bool
  bar : Bool
  tag : Nat
  target : Nat
  amount : Nat
  day : Nat
  pickup : Nat
  reason : Nat
  first : Nat
  last : Nat
  excluded : List Nat
  deriving DecidableEq, Repr

/-- R181: bit 0 of the flags is after-done, bit 1 the bar; the low four bits of the reason are read. -/
def parseEntry (bs : List Byte) : Entry where
  kind := fieldAt bs 0 1
  afterDone := decide (fieldAt bs 1 1 % 2 = 1)
  bar := decide (fieldAt bs 1 1 / 2 % 2 = 1)
  tag := fieldAt bs 2 2
  target := fieldAt bs 4 4
  amount := fieldAt bs 8 4
  day := fieldAt bs 12 4
  pickup := fieldAt bs 16 1
  reason := fieldAt bs 17 1 % 16
  first := fieldAt bs 18 1
  last := fieldAt bs 19 1
  excluded := [fieldAt bs 20 1, fieldAt bs 21 1, fieldAt bs 22 1, fieldAt bs 23 1].filter
    (fun p => decide (p ≠ Config.absent1))

/-! ## Answer area and session word (section 12.2) -/

/-- An outcome record as 16 bytes; bytes 3, 6 and 7 are zero. -/
def encodeOutcome (o : OutcomeRec) : List Byte :=
  leBytes 1 o.entry ++ leBytes 1 o.kind ++ leBytes 1 o.code.code ++ [0] ++ leBytes 2 o.tag ++
    [0, 0] ++ leBytes 4 o.d1 ++ leBytes 4 o.d2

/-- The answer header as 16 bytes, its spare bytes zero: DESIGN CHOICE (log 48). -/
def encodeHeader (h : AnswerHeader) : List Byte :=
  leBytes 1 h.state.code ++ leBytes 1 h.result.code ++ leBytes 1 h.count ++ [0] ++
    leBytes 2 h.guardHits ++ zeros 10

/-- A desk image's run: where it starts, counted from desk offset 528, and its bytes (section 12.3). -/
def DeskImage.run (d : DeskImage) : Nat :=
  match d.header with
  | some _ => 0
  | none => 16 + 16 * d.first

def DeskImage.bytes (d : DeskImage) : List Byte :=
  (match d.header with
    | some h => encodeHeader h
    | none => []) ++ (d.records.map encodeOutcome).flatten

/-- The session word (section 12.2); its spare byte is written zero: DESIGN CHOICE (log 48). -/
def encodeSessionWord (session : Session) (grade branch : Nat) : List Byte :=
  leBytes 1 session.code ++ leBytes 1 grade ++ leBytes 1 branch ++ [0] ++
    (match session with
      | .claimed p => leBytes 4 p
      | _ => put4 none)

/-- The status word (section 12.3); its two spare bytes are written zero: DESIGN CHOICE (log 48). -/
def encodeStatus (part : PartState) (r : SetupResult) (faults : Nat) : List Byte :=
  leBytes 1 part.code ++ leBytes 1 r.code.code ++ leBytes 2 r.field ++ leBytes 2 faults ++ [0, 0]

/-- The calendar word: today in its first two bytes, the others zero (R158). -/
def encodeCalendar (today : Nat) : List Byte := leBytes 2 today ++ zeros 6

/-! ## Images (R91, section 12.3) -/

/-- The target an image names. -/
def Image.target : Image → Target
  | .patron i _ _ => .record .patrons i
  | .title i _ _ => .record .titles i
  | .item i _ _ => .record .items i
  | .hold i _ _ => .record .holds i
  | .summary _ => .summary
  | .desk d => .desk d.desk

/-- The new contents an image carries: the whole record, the 80-byte summary, or the run of the answer area. -/
def Image.contents : Image → List Byte
  | .patron _ raw p => encodePatron raw p
  | .title _ raw t => encodeTitle raw t
  | .item _ raw c => encodeItem raw c
  | .hold _ _ h => encodeHold h
  | .summary x => encodeSummary x
  | .desk d => d.bytes

/-- Where a desk image's run starts; 0 for the others (log 23). -/
def Image.run : Image → Nat
  | .desk d => d.run
  | _ => 0

/-- An image as the note area holds it: target type, run offset, index, run length, contents from byte 16. Bytes that carry no field
are zero, and a region or summary image gives run offset 0 and its length (log 23). -/
def Image.noteBytes (g : Image) : List Byte :=
  leBytes 1 g.target.code ++ [0] ++ leBytes 2 g.run ++ leBytes 4 g.target.index ++
    leBytes 2 g.contents.length ++ zeros 6 ++ g.contents

/-- Reading an image of the note area. -/
def parseImage (bs : List Byte) : RawImage where
  kind := fieldAt bs 0 1
  run := fieldAt bs 2 2
  index := fieldAt bs 4 4
  length := fieldAt bs 8 2
  bytes := bs.drop 16

/-- The lanes of a region record that write its guarded bytes alone (R93), from offset `o`. -/
def guardedLanes (r : Region) : Nat → List Byte → List Lane
  | _, [] => []
  | o, b :: bs => ⟨decide (r.fieldKind o = .guarded), b⟩ :: guardedLanes r (o + 1) bs

end Sys2Proof.Machine
end

