-- ==== Sys2Proof/Machine/Flags.lean ====
section
/-! DEFINITION. Pure computations on counts, days, capture flags and the check code (R11, R27, R34, R54, R55, R60, R115). -/

namespace Sys2Proof.Machine

/-- One more, saturating at 65,535 (R11, R166, R170). -/
def satSucc (n : Nat) : Nat := min (n + 1) Config.countTop

/-- A day sum, held at 65,535 (R115, R124, R128, R130). -/
def daySum (a b : Nat) : Nat := min (a + b) Config.lastDay

/-- A money total raised, wrapping past 2^48 − 1 (R34, R147). -/
def moneyAdd (a b : Nat) : Nat := (a + b) % 281474976710656

/-- A count raised by one, wrapping past 2^32 − 1 (R34). -/
def countSucc (n : Nat) : Nat := (n + 1) % 4294967296

/-! ## Capture flags (R54, R55) -/

/-- Whether flag `w` is set. -/
def flagAt (v : Vector Bool 64) (w : Nat) : Bool := v.toList.getD w false

/-- Slot `i` is complete: all four of its word-written flags are set (R55). -/
def slotComplete (written : Vector Bool 64) (i : Nat) : Bool :=
  flagAt written (4 * i) && flagAt written (4 * i + 1) && flagAt written (4 * i + 2) &&
    flagAt written (4 * i + 3)

/-- Slot `i` is torn: any of its four torn flags is set (R55). -/
def slotTorn (torn : Vector Bool 64) (i : Nat) : Bool :=
  flagAt torn (4 * i) || flagAt torn (4 * i + 1) || flagAt torn (4 * i + 2) || flagAt torn (4 * i + 3)

/-- The bytes of captured slot `i`. -/
def slotBytes (captured : Memory) (i : Nat) : List Byte := captured.bytes (32 * i) 32

/-! ## The check code (R60) -/

/-- One bit: combined with the register's top bit; the register shifts towards its top with a zero entering; when the combined bit was
one, the register is combined with 3D65. -/
def crcBit (r : BitVec 16) (b : Bool) : BitVec 16 :=
  if b != r.msb then (r <<< 1) ^^^ 0x3D65#16 else r <<< 1

/-- One byte, most significant bit first. -/
def crcByte (r : BitVec 16) (b : Byte) : BitVec 16 :=
  [7, 6, 5, 4, 3, 2, 1, 0].foldl (fun r i => crcBit r (b.getLsbD i)) r

/-- The code over bytes in ascending address order, from a register of all ones. -/
def checkCode (bs : List Byte) : BitVec 16 := bs.foldl crcByte 0xFFFF#16

/-- The check code of a slot's 32 bytes is correct: bytes 30 and 31, high byte first, equal the code over bytes 0 to 29. -/
def checkCorrect (bs : List Byte) : Bool :=
  decide (256 * fieldAt bs 30 1 + fieldAt bs 31 1 = (checkCode (bs.take 30)).toNat)

end Sys2Proof.Machine
end

