-- ==== Sys2Proof/Machine/Ops.lean ====
section
/-! DEFINITION. The named operations over the state: streams, own requests, answers, the session word, the status word, counts. -/

namespace Sys2Proof.Machine

/-! ## Streams and setup -/

/-- The 32 streams, stream 0 first. -/
def allStreams : List StreamId := List.finRange 32

/-- What the part holds for stream `n`. -/
def State.stream (s : State) (n : StreamId) : Stream := s.streams[n.val]

/-- The setup fields of stream `n`: those of the setup in force (R36). -/
def State.cfg (s : State) (n : StreamId) : Option StreamCfg :=
  s.loader.inForce.map (fun u => u.streams[n.val])

def State.enabled (s : State) (n : StreamId) : Bool := (s.cfg n).any (·.enable)

/-- The stream's branch (R37). -/
def State.branch (s : State) (n : StreamId) : Nat := ((s.cfg n).map (·.branch)).getD 0

/-- The region table in force (R3): empty until a setup block is accepted. -/
def State.regions (s : State) : Option RegionTable := s.loader.inForce.map (·.regions)

/-- The record count in force of a region; 0 while the table is empty. -/
def State.regionCount (s : State) (r : Region) : Nat := ((s.regions).map (fun t => (t.entry r).count)).getD 0

def Session.isClaimed : Session → Bool
  | .claimed _ => true
  | _ => false

def Session.patron : Session → Option Nat
  | .claimed p => some p
  | _ => none

/-- A stream's grade: none while its session is OFF (R37). -/
def State.grade (s : State) (n : StreamId) : Option Grade :=
  if (s.stream n).session = .off then none else (s.cfg n).map (·.grade)

/-- What holds of a stream at every moment: the watch list is empty unless CLAIMED (R80); the idle timer runs exactly while CLAIMED with an IDLE batch,
starting from zero (R46); the check-failure count of an OFF stream is 0 (R48). -/
def Stream.settled (t : Stream) : Stream :=
  { t with
    watches := if t.session.isClaimed then t.watches else []
    idleTimer := if t.session.isClaimed && decide (t.batch = .idle) then some (t.idleTimer.getD 0) else none
    checkFails := if t.session = .off then 0 else t.checkFails }

/-- The one way a stream's entry changes. -/
def State.updStream (s : State) (n : StreamId) (f : Stream → Stream) : State :=
  { s with streams := s.streams.set n.val ((f (s.stream n)).settled) n.isLt }

/-- The patron `p` is claimed by a stream other than `n` (R14, R38). -/
def State.claimant (s : State) (p : Nat) : Option StreamId :=
  allStreams.find? (fun m => decide ((s.stream m).session = .claimed p))

/-- A stream's accepted request restarts a running idle timer (R46). -/
def State.activity (s : State) (n : StreamId) : State :=
  s.updStream n (fun t => { t with idleTimer := t.idleTimer.map (fun _ => 0) })

/-- One more guard hit (R11). -/
def State.guardHit (s : State) (n : StreamId) : State :=
  s.updStream n (fun t => { t with guardHits := satSucc t.guardHits })

/-! ## Own requests (R17, R18) -/

/-- The stream whose answer area a write of this kind changes (R67, R93). -/
def OwnTag.answerOf : OwnTag → Option StreamId
  | .working n => some n
  | .haltAnswer n => some n
  | .answer n => some n
  | .seen n => some n
  | .image d => d
  | .startupWrite d => d
  | _ => none

/-- The model's count of answer writes raised (R67, log 39). -/
def State.countAnswer (s : State) (tag : OwnTag) : State :=
  match tag.answerOf with
  | some n => s.updStream n (fun t => { t with answersRaised := t.answersRaised + 1 })
  | none => s

/-- An empty own slot takes the earliest-raised own request still held (R18). -/
def State.refillOwn (s : State) : State :=
  match s.path.ownSlot, s.path.raised with
  | none, q :: qs => { s with path := { s.path with ownSlot := some q, raised := qs } }
  | _, _ => s

/-- A new own request, carrying the next serial number; its offset counts from the aperture base. -/
def State.newOwn (s : State) (tag : OwnTag) (off : Nat) (body : OwnBody) (holds : Option Nat) : OwnReq :=
  { serial := s.serial, tag := tag, addr := s.base + off, body := body, holds := holds }

/-- Raising an own request (R18). `holds` names the upstream request whose response waits for it. -/
def State.raise (s : State) (tag : OwnTag) (off : Nat) (body : OwnBody) (holds : Option Nat := none) : State :=
  State.refillOwn
    (({ s with
        serial := s.serial + 1
        path := { s.path with raised := s.path.raised ++ [s.newOwn tag off body holds] } }).countAnswer tag)

/-- Raising a write of whole bytes. -/
def State.raiseWrite (s : State) (tag : OwnTag) (off : Nat) (bs : List Byte) (holds : Option Nat := none) : State :=
  s.raise tag off (.write (lanesOf bs)) holds

/-- Every own request not yet answered. -/
def State.ownWaiting (s : State) : List OwnReq :=
  s.path.ownIssued.map (·.req) ++ s.path.ownSlot.toList ++ s.path.raised ++ s.path.formatHeld

/-! ## Status word and store-fault count (R170) -/

/-- The own write of the whole status word, carrying the values as they stand. -/
def State.raiseStatus (s : State) (tag : OwnTag := .status) : State :=
  s.raiseWrite tag Config.statusOff (encodeStatus s.loader.part s.loader.result s.loader.faults)

/-- One more store fault, saturating; a status write when the count changes. -/
def State.storeFault (s : State) : State :=
  if s.loader.faults < Config.countTop then
    ({ s with loader := { s.loader with faults := s.loader.faults + 1 } }).raiseStatus
  else s

/-- The last setup result; a status write when it changes. -/
def State.setResult (s : State) (r : SetupResult) : State :=
  if s.loader.result = r then s
  else ({ s with loader := { s.loader with result := r } }).raiseStatus

/-! ## Desks: answers and session words (R39, R65) -/

/-- The aperture offset of a byte of desk `n`. -/
def deskAddr (n : StreamId) (off : Nat) : Nat := Config.deskBase + n.val * Config.deskSize + off

/-- Format's write of desk `n` is still to come (R175). -/
def FormatStep.deskToCome (n : StreamId) : FormatStep → Bool
  | .stampZero => true
  | .note => true
  | .desk m => decide (m.val ≤ n.val)
  | _ => false

/-- An answer write of stream `n` is to be held for format (R175). -/
def State.holdsAnswer (s : State) (n : StreamId) : Bool :=
  match s.loader.job with
  | .formatting f => f.step.deskToCome n
  | _ => false

/-- Raising an answer write of Desk Capture; while format has not written the desk, it is held (R175). -/
def State.raiseAnswer (s : State) (n : StreamId) (tag : OwnTag) (lanes : List Lane) (holds : Option Nat) : State :=
  if s.holdsAnswer n then
    ({ s with
        serial := s.serial + 1
        path := { s.path with
          formatHeld := s.path.formatHeld ++
            [s.newOwn tag (deskAddr n Config.answerOff) (.write lanes) holds] } }).countAnswer tag
  else s.raise tag (deskAddr n Config.answerOff) (.write lanes) holds

/-- The lanes of a FRESH answer: state, result, entry count and guard-hit count. The header's spare bytes are left as they are: DESIGN CHOICE
(log 48). -/
def freshLanes (r : BatchResult) (count hits : Nat) : List Lane :=
  lanesOf (leBytes 1 AnswerState.fresh.code ++ leBytes 1 r.code ++ leBytes 1 count) ++ [noLane] ++
    lanesOf (leBytes 2 hits)

/-- The lanes of a WAITING answer: the batch result is left as it was (R59). -/
def waitingLanes (count hits : Nat) : List Lane :=
  lanesOf (leBytes 1 AnswerState.waiting.code) ++ [noLane] ++ lanesOf (leBytes 1 count) ++ [noLane] ++
    lanesOf (leBytes 2 hits)

/-- The lanes of the answer-state field alone (R67, R85). -/
def stateLanes (a : AnswerState) : List Lane := lanesOf (leBytes 1 a.code)

/-- Desk Capture writes a FRESH answer: on chip and by an own write (R58, R65, R66). -/
def State.answerFresh (s : State) (n : StreamId) (r : BatchResult) (count : Nat) (holds : Option Nat := none) : State :=
  (s.updStream n (fun t => { t with answer := .fresh })).raiseAnswer n (.answer n)
    (freshLanes r count (s.stream n).guardHits) holds

/-- Desk Capture writes a WAITING answer (R59). -/
def State.answerWaiting (s : State) (n : StreamId) (count : Nat) (holds : Option Nat := none) : State :=
  (s.updStream n (fun t => { t with answer := .waiting })).raiseAnswer n (.answer n)
    (waitingLanes count (s.stream n).guardHits) holds

/-- The session word as the stream's entry stands: the grade field of an OFF stream reads OFF (R39). -/
def State.sessionWord (s : State) (n : StreamId) : List Byte :=
  encodeSessionWord (s.stream n).session (((s.grade n).map Grade.code).getD 0) (s.branch n)

/-- Raising the session-word write (R39). -/
def State.raiseSession (s : State) (n : StreamId) (holds : Option Nat := none) : State :=
  s.raiseWrite (.sessionWord n) (deskAddr n Config.sessionOff) (s.sessionWord n) holds

/-- A change to a stream's entry; when it alters what the session word shows, the word is written (R39). -/
def State.changeSession (s : State) (n : StreamId) (f : Stream → Stream) (holds : Option Nat := none) : State :=
  if (s.updStream n f).sessionWord n = s.sessionWord n then s.updStream n f
  else (s.updStream n f).raiseSession n holds

/-- A batch becomes IDLE: captured slots zero, flags clear, timer stopped, closed count 0, cancel asked no (R53, R58). The idle timer is
stopped; `settled` starts it from zero when the stream is CLAIMED (R46, R56, R58). -/
def Stream.batchIdle (t : Stream) : Stream :=
  { t with
    batch := .idle
    idleTimer := none
    captured := []
    written := Vector.replicate 64 false
    torn := Vector.replicate 64 false
    collectTimer := none
    closedCount := 0
    cancelAsked := false }

def State.endBatch (s : State) (n : StreamId) : State := s.updStream n Stream.batchIdle

/-- A batch leaves the Commit Queue from any place; those behind it keep their order (R83). -/
def State.leaveQueue (s : State) (n : StreamId) : State :=
  { s with queue := s.queue.filter (fun m => decide (m ≠ n)) }

/-! ## The attention line (R68) -/

/-- High while the part is READY or FORMATTING and an enabled stream with attention enable yes has on-chip answer FRESH. -/
def State.attentionLine (s : State) : Bool :=
  decide (s.loader.part = .ready ∨ s.loader.part = .formatting) &&
    allStreams.any (fun n => (s.cfg n).any (fun c => c.enable && c.attention) &&
      decide ((s.stream n).answer = .fresh))

end Sys2Proof.Machine
end

