-- ==== Sys2Proof/Machine/Decoder.lean ====
section
/-! DEFINITION. The Aperture Decoder and the Guard: what an address falls on (R2, R3, R4) and which bytes of an aperture write pass
(R7 to R11). -/

namespace Sys2Proof.Machine

/-! ## The Aperture Decoder -/

/-- The parts of a desk (R2). -/
inductive DeskPart where
  | slot (i : Nat) | closeWord | cancelWord | answer | session | spare
  deriving DecidableEq, Repr

/-- The words of the setup block the Decoder names (R2). -/
inductive SetupWord where
  | status | calendar | apply | format | warmReset | other
  deriving DecidableEq, Repr

/-- The class of an aperture byte (R2): for a desk its part, for a record its region, index and place within the record. -/
inductive AreaClass where
  | setup (w : SetupWord)
  | note
  | summary
  | desk (n : StreamId) (p : DeskPart)
  | record (r : Region) (k : Nat) (o : Nat)
  | spare
  deriving DecidableEq, Repr

/-- The part of a desk an offset within it falls on (section 12.2). -/
def deskPart (d : Nat) : DeskPart :=
  if d < Config.closeOff then .slot (d / 32)
  else if d < Config.cancelOff then .closeWord
  else if d < Config.answerOff then .cancelWord
  else if d < Config.answerEnd then .answer
  else if d < Config.sessionEnd then .session
  else .spare

/-- The word of the setup block an offset falls on (section 12.3). -/
def setupWord (a : Nat) : SetupWord :=
  if a < Config.calendarOff then .other
  else if a < Config.applyOff then .calendar
  else if a < Config.formatOff then .apply
  else if a < Config.warmOff then .format
  else if a < Config.statusOff then .warmReset
  else if a < Config.statusOff + 8 then .status
  else .other

/-- Whether offset `a` lies in the region `r` of a table, and where (R3). -/
def inRegion (t : RegionTable) (a : Nat) (r : Region) : Option (Nat × Nat) :=
  if (t.entry r).offset ≤ a ∧ a < (t.entry r).offset + (t.entry r).count * r.size then
    some ((a - (t.entry r).offset) / r.size, (a - (t.entry r).offset) % r.size)
  else none

/-- The region record an offset falls on. -/
def findRecord (t : RegionTable) (a : Nat) : List Region → AreaClass
  | [] => .spare
  | r :: rs =>
    match inRegion t a r with
    | some (k, o) => .record r k o
    | none => findRecord t a rs

/-- The class of an aperture offset, under the region table in force (R2, R3). -/
def classify (t : Option RegionTable) (a : Nat) : AreaClass :=
  if a < Config.noteBase then .setup (setupWord a)
  else if a < Config.summaryBase then .note
  else if a < Config.deskBase then .summary
  else if a < Config.deskBase + 32 * Config.deskSize then
    .desk ⟨(a - Config.deskBase) / Config.deskSize % 32, Nat.mod_lt _ (by decide)⟩
      (deskPart ((a - Config.deskBase) % Config.deskSize))
  else
    match t with
    | none => .spare
    | some u => findRecord u a allRegions

/-- The aperture offset at which a target starts, and its length (R2, R22, R34). -/
def State.targetOff (s : State) : Target → Nat
  | .record r i => ((s.regions).map (fun t => (t.entry r).offset)).getD 0 + i * r.size
  | .summary => Config.summaryBase
  | .desk n => deskAddr n 0

def Target.len : Target → Nat
  | .record r _ => r.size
  | .summary => Config.summarySize
  | .desk _ => Config.deskSize

/-! ## Requests: the bytes of a burst (R4). The burst starts at the 8-byte word that holds its address (log 12). -/

end Sys2Proof.Machine

namespace Sys2Proof

/-- The first byte address of the burst. -/
def Request.start (r : Request) : Nat := r.addr / 8 * 8

/-- The address after the last byte of the burst. -/
def Request.stop (r : Request) : Nat := r.start + 8 * r.words

/-- The burst would cross a 4 KiB boundary (R4). -/
def Request.crosses (r : Request) : Bool :=
  decide (r.start / Config.pageSize ≠ (r.stop - 1) / Config.pageSize)

end Sys2Proof

namespace Sys2Proof.Machine

/-- The request falls inside the aperture (R1, R4). -/
def State.inAperture (s : State) (r : Request) : Bool :=
  decide (s.base ≤ r.start) && decide (r.start < s.base + Config.apertureSize)

/-- The strobed bytes of lanes from offset `a`. -/
def strobedCells (a : Nat) : List Lane → List (Nat × Byte)
  | [] => []
  | l :: ls => if l.strobe then (a, l.value) :: strobedCells (a + 1) ls else strobedCells (a + 1) ls

/-- The strobed bytes of a request, by aperture offset. -/
def State.cells (s : State) (r : Request) : List (Nat × Byte) := strobedCells (r.start - s.base) r.lanes

/-- The strobed bytes that fall on the desk of stream `n`, by offset within the desk. -/
def State.deskCells (s : State) (n : StreamId) (r : Request) : List (Nat × Byte) :=
  ((s.cells r).filter (fun c => decide (deskAddr n 0 ≤ c.1) && decide (c.1 < deskAddr n Config.deskSize))).map
    (fun c => (c.1 - deskAddr n 0, c.2))

/-- The write covers bytes of its own stream's entry slots (R12). -/
def State.coversSlots (s : State) (r : Request) : Bool :=
  r.write && (s.deskCells r.stream r).any (fun c => decide (c.1 < Config.closeOff))

/-- The write covers the count byte of its own stream's close word (R57). -/
def State.coversClose (s : State) (r : Request) : Bool :=
  r.write && (s.deskCells r.stream r).any (fun c => decide (c.1 = Config.closeOff))

/-- The write covers any byte of its own stream's cancel word (R61). -/
def State.coversCancel (s : State) (r : Request) : Bool :=
  r.write && (s.deskCells r.stream r).any
    (fun c => decide (Config.cancelOff ≤ c.1) && decide (c.1 < Config.answerOff))

/-- The write covers any byte of an observed setup word that starts at `w` (R12). -/
def State.coversWord (s : State) (w : Nat) (r : Request) : Bool :=
  r.write && (s.cells r).any (fun c => decide (w ≤ c.1) && decide (c.1 < w + 8))

/-- The read covers the answer-state word of its own stream's desk (R12, R67). -/
def State.coversAnswerState (s : State) (r : Request) : Bool :=
  !r.write && s.inAperture r && decide (r.start - s.base ≤ deskAddr r.stream Config.answerOff) &&
    decide (deskAddr r.stream Config.answerOff < r.stop - s.base)

/-! ## The Guard -/

/-- What the Guard finds of a byte: it passes (as a byte of a record, or not), it is lost, or it is a mark byte. -/
inductive Verdict where
  | pass (of : Option (Region × Nat))
  | lost
  | mark (r : Region) (k : Nat)
  deriving DecidableEq, Repr

/-- A stream's standing for the Guard: its grade, or none when OFF or BARRED (section 1.3). -/
def State.guardGrade (s : State) (n : StreamId) : Option Grade :=
  match (s.stream n).session with
  | .off => none
  | .barred => none
  | _ => (s.cfg n).map (·.grade)

/-- The Guard's decision on a byte of its own desk: slots, close word and cancel word pass (R8). -/
def deskVerdict : DeskPart → Verdict
  | .slot _ => .pass none
  | .closeWord => .pass none
  | .cancelWord => .pass none
  | .answer => .lost
  | .session => .lost
  | .spare => .lost

/-- The Guard's decision on one strobed byte at aperture offset `a`, by part state, standing and class (R7, R8, R9). In UNSET and FORMATTING a
record's mark byte is lost like the rest of the record: DESIGN CHOICE, R7 read before R9 (log 52). -/
def State.verdict (s : State) (n : StreamId) (a : Nat) : Verdict :=
  match classify s.regions a with
  | .setup .status => .lost
  | .setup _ =>
    if s.loader.part = .unset ∨ s.guardGrade n = some .supervisor then .pass none else .lost
  | .note => .lost
  | .summary => .lost
  | .spare => .lost
  | .desk m p => if s.loader.part = .unset ∨ m ≠ n then .lost else deskVerdict p
  | .record r k o =>
    if s.loader.part = .unset ∨ s.loader.part = .formatting then .lost
    else match r.fieldKind o with
      | .mark => .mark r k
      | .guarded => .lost
      | .plain =>
        if s.guardGrade n = some .desk ∨ s.guardGrade n = some .supervisor then .pass (some (r, k)) else .lost

/-- Each lane with its verdict, from aperture offset `a`. -/
def State.judged (s : State) (n : StreamId) : Nat → List Lane → List (Lane × Verdict)
  | _, [] => []
  | a, l :: ls => (l, s.verdict n a) :: s.judged n (a + 1) ls

/-- The lane as it goes downstream: lost bytes lose their strobe; a mark byte is forced to zero when another byte of its record
passes, and loses its strobe otherwise (R9). -/
def guardedLane (passed : List (Region × Nat)) : Lane × Verdict → Lane
  | (l, .pass _) => l
  | (l, .lost) => { l with strobe := false }
  | (l, .mark r k) =>
    if (r, k) ∈ passed then { strobe := l.strobe, value := 0 } else { l with strobe := false }

/-- The records of which at least one strobed byte passes. -/
def passedRecords : List (Lane × Verdict) → List (Region × Nat)
  | [] => []
  | (l, .pass (some x)) :: js => if l.strobe then x :: passedRecords js else passedRecords js
  | _ :: js => passedRecords js

/-- The lanes the Guard leaves of an aperture write. -/
def State.guardLanes (s : State) (r : Request) : List Lane :=
  let js := s.judged r.stream (r.start - s.base) r.lanes
  js.map (guardedLane (passedRecords js))

/-- The write lost at least one strobed byte: a guard hit (R11). Mark bytes do not count (R9). -/
def State.losesByte (s : State) (r : Request) : Bool :=
  (s.judged r.stream (r.start - s.base) r.lanes).any (fun j => j.1.strobe && decide (j.2 = .lost))

end Sys2Proof.Machine
end

