-- ==== Sys2Proof/Machine/Arbiter.lean ====
section
/-! DEFINITION. The upstream port and the Downstream Arbiter (R4, R6, R10, R17 to R20): acceptance, the start-up hold list, requests
held aside, the two slots, issue, and the return of responses. -/

namespace Sys2Proof.Machine

/-! ## Responses, in order of acceptance for each stream (R17) -/

/-- Splitting the outstanding requests into those whose response can be returned and the rest: a response is held while an
earlier request of the same stream is not yet returned. -/
def splitReady : List Outstanding → List StreamId → List Returned × List Outstanding
  | [], _ => ([], [])
  | o :: os, blocked =>
    match o.answer with
    | some a =>
      if o.stream ∈ blocked then
        ((splitReady os blocked).1, o :: (splitReady os blocked).2)
      else (⟨o.tag, o.stream, a⟩ :: (splitReady os blocked).1, (splitReady os blocked).2)
    | none =>
      ((splitReady os (o.stream :: blocked)).1, o :: (splitReady os (o.stream :: blocked)).2)

/-- Returning every response that may be returned. -/
def State.flush (s : State) : State :=
  { s with path := { s.path with
      outstanding := (splitReady s.path.outstanding []).2
      returned := s.path.returned ++ (splitReady s.path.outstanding []).1 } }

/-- Changing the entry of one outstanding request. -/
def State.updOutstanding (s : State) (tag : Nat) (f : Outstanding → Outstanding) : State :=
  { s with path := { s.path with
      outstanding := s.path.outstanding.map (fun o => if o.tag = tag then f o else o) } }

/-- A request has its response. -/
def State.complete (s : State) (tag : Nat) (a : UpAnswer) : State :=
  (s.updOutstanding tag (fun o => { o with answer := some a })).flush

/-! ## Acceptance -/

/-- An earlier close or cancel write of the same stream has not had its response returned (R19). -/
def State.closePending (s : State) (u : UpReq) : Bool :=
  s.path.outstanding.any (fun o => decide (o.stream = u.req.stream) && o.closes && decide (o.tag < u.tag))

/-- A request goes to the upstream slot, or is held aside behind a close or cancel of its stream (R19). -/
def State.place (s : State) (u : UpReq) : State :=
  if s.closePending u then { s with path := { s.path with aside := s.path.aside ++ [u] } }
  else { s with path := { s.path with upSlot := some u } }

/-- An accepted request goes on: an aperture write through the Guard (R8 to R11), and then to the slot. A write with no strobe left
is answered done at once (R10), also behind an unanswered close or cancel of its stream: DESIGN CHOICE (log 53). A close or cancel write holds its
stream's further requests aside from here on, so one in the start-up hold list does not yet: DESIGN CHOICE (log 45). -/
def State.admitReq (s : State) (u : UpReq) : State :=
  if u.req.write && s.inAperture u.req then
    let s1 := if s.losesByte u.req then s.guardHit u.req.stream else s
    let r1 : Request := { u.req with lanes := s.guardLanes u.req }
    if r1.lanes.any (·.strobe) then
      (s1.updOutstanding u.tag (fun o => { o with closes := s.coversClose r1 || s.coversCancel r1 })).place
        { u with req := r1 }
    else s1.complete u.tag ⟨true, []⟩
  else s.place u

/-- The requests of the start-up hold list go on in arrival order while the upstream slot is empty (R6, log 11). -/
def drainHold : List UpReq → State → State × List UpReq
  | [], s => (s, [])
  | u :: us, s =>
    if s.path.upSlot.isSome || s.path.aside.any (fun v => decide (v.req.stream = u.req.stream)) then (s, u :: us)
    else drainHold us (s.admitReq u)

/-- The first request held aside whose stream's close or cancel has been answered takes an empty upstream slot (R19). -/
def State.releaseAside (s : State) : State :=
  match s.path.upSlot, s.path.aside.find? (fun u => !s.closePending u) with
  | none, some u =>
    { s with path := { s.path with
        upSlot := some u
        aside := s.path.aside.filter (fun v => decide (v.tag ≠ u.tag)) } }
  | _, _ => s

/-- Whatever waits for the upstream slot goes on: a request held aside (R19) before those of the start-up hold list (R6), for which is first
the spec leaves open (DESIGN CHOICE, log 46). -/
def State.drain (s : State) : State :=
  let s1 := s.releaseAside
  if s1.loader.part = .starting then s1
  else
    let d := drainHold s1.path.holdList s1
    { d.1 with path := { d.1.path with
        holdList := d.2
        holdFull := d.1.path.holdFull && !d.2.isEmpty } }

/-- The upstream port accepts this request now (R6, R17, R19; log 11). A pass-through request waits for nothing else (R5); that an aperture request
also waits, after STARTING, for the hold list to be empty is a DESIGN CHOICE (log 63). -/
def State.accepts (s : State) (r : Request) : Bool :=
  !s.inReset && r.wf && s.path.upSlot.isNone && !s.path.holdFull &&
    !s.path.aside.any (fun v => decide (v.req.stream = r.stream)) &&
    (decide (s.loader.part = .starting) || s.path.holdList.isEmpty || !s.inAperture r)

/-- The data of a read answered error at the port or outside the aperture: free (log 33). -/
def errorData (tag : Nat) (r : Request) : List Byte :=
  if r.write then [] else (List.range (8 * r.words)).map (Config.errorReadByte tag)

/-- The acceptance of a request (R4): reported as activity of its stream and entered among the outstanding ones. -/
def State.enter (s : State) (r : Request) : State :=
  let s1 := s.activity r.stream
  { s1 with
    serial := s1.serial + 1
    path := { s1.path with
      outstanding := s1.path.outstanding ++ [⟨s1.serial, r.stream, false, false, none⟩] } }

/-- The tail of the start-up hold list (R6). -/
def State.holdStartup (s : State) (u : UpReq) : State :=
  { s with path := { s.path with
      holdList := s.path.holdList ++ [u]
      holdFull := s.path.holdFull || decide (32 ≤ s.path.holdList.length + 1) } }

/-! ## Issue (R17) -/

/-- The upstream request of the slot is issued. -/
def State.issueUp (s : State) (u : UpReq) : State :=
  { s with path := { s.path with
      upSlot := none
      lastGranted := .upstream
      upIssued := s.path.upIssued ++
        [{ up := u
           snapshot := if u.req.write then [] else s.mem.bytes u.req.start (8 * u.req.words)
           touched := s.engine.inFlight
           answersAtIssue := (s.stream u.req.stream).answersRaised
           answerPending := s.ownWaiting.any (fun q => decide (q.tag.answerOf = some u.req.stream)) }] } }

/-- The own request of the slot is issued. -/
def State.issueOwn (s : State) (q : OwnReq) : State :=
  { s with path := { s.path with
      ownSlot := none
      lastGranted := .own
      ownIssued := s.path.ownIssued ++
        [{ req := q
           snapshot := match q.body with
             | .read len => s.mem.bytes q.addr len
             | .write _ => []
           touched := s.engine.inFlight }] } }

/-! ## Answers of issued requests -/

/-- The issued upstream request with a serial number. -/
def State.findUp (s : State) (tag : Nat) : Option IssuedUp :=
  s.path.upIssued.find? (fun i => decide (i.up.tag = tag))

/-- An issued upstream request is answered and leaves the list. -/
def State.dropUp (s : State) (tag : Nat) : State :=
  { s with path := { s.path with upIssued := s.path.upIssued.filter (fun i => decide (i.up.tag ≠ tag)) } }

/-- The data of an answered read: what memory holds now, or held at the issue (log 5). -/
def readData (m : Memory) (addr len : Nat) (snapshot : List Byte) : Answer → Option (List Byte)
  | .done => some (m.bytes addr len)
  | .doneAsIssued => some snapshot
  | .error _ => none

/-- The length of an own request's span. -/
def OwnReq.len (q : OwnReq) : Nat :=
  match q.body with
  | .read n => n
  | .write ls => ls.length

def OwnReq.isWrite (q : OwnReq) : Bool :=
  match q.body with
  | .read _ => false
  | .write _ => true

/-- Two own writes overlap, or both change the answer area of one stream: the later one may not be answered before the earlier, so that
memory ends with the later and shows WORKING before any outcome of its batch (R18, R65, R85; log 9). -/
def keepsOrder (p q : OwnReq) : Bool :=
  p.isWrite && q.isWrite &&
    ((decide (p.addr < q.addr + q.len) && decide (q.addr < p.addr + p.len)) ||
      (p.tag.answerOf.isSome && decide (p.tag.answerOf = q.tag.answerOf)))

/-- The first issued own request a command answers, if no earlier issued own write must be answered before it. -/
def pullOwn (want : OwnReq → Bool) : List IssuedOwn → List IssuedOwn → Option IssuedOwn
  | _, [] => none
  | earlier, i :: is =>
    if want i.req then (if earlier.any (fun e => keepsOrder e.req i.req) then none else some i)
    else pullOwn want (earlier ++ [i]) is

def State.pullOwn (s : State) (want : OwnReq → Bool) : Option IssuedOwn :=
  Sys2Proof.Machine.pullOwn want [] s.path.ownIssued

/-- An issued own request leaves the list. -/
def State.dropOwn (s : State) (serial : Nat) : State :=
  { s with path := { s.path with
      ownIssued := s.path.ownIssued.filter (fun i => decide (i.req.serial ≠ serial)) } }

/-- An answered own write reaches memory, all of it or a first part (log 6). -/
def State.landOwn (s : State) (q : OwnReq) (a : Answer) : State :=
  match q.body with
  | .read _ => s
  | .write ls => { s with mem := s.mem.land q.addr ls a }

/-- An answered own write that leaves memory as it was when answered error (R39, R65, R158, R170). -/
def State.landOwnWhole (s : State) (q : OwnReq) (a : Answer) : State :=
  match q.body with
  | .read _ => s
  | .write ls => { s with mem := s.mem.landWhole q.addr ls a }

/-- The data of an answered own read. -/
def State.ownData (s : State) (i : IssuedOwn) (a : Answer) : Option (List Byte) :=
  readData s.mem i.req.addr i.req.len i.snapshot a

/-- The upstream response that waited for own writes is given when the last of them is answered; it is error when an answer write
was answered error (R19, R49). -/
def State.releaseHeld (s : State) (holds : Option Nat) (failed : Bool) : State :=
  match holds with
  | none => s
  | some tag =>
    let s1 := if failed then s.updOutstanding tag (fun o => { o with failed := true }) else s
    if s1.ownWaiting.any (fun q => decide (q.holds = some tag)) then s1
    else ((s1.updOutstanding tag (fun o => { o with answer := some ⟨!o.failed, []⟩ })).flush).drain

end Sys2Proof.Machine
end

