-- ==== Sys2Proof/Machine/Watches.lean ====
section
/-! DEFINITION. The Watch Table: opening, refreshing, spoiling and consulting watches (R71 to R77). -/

namespace Sys2Proof.Machine

/-- A hand-off of record `k` of region `r` opens or refreshes a watch of stream `n` (R72). -/
def State.watchable (s : State) (n : StreamId) (r : Region) (k : Nat) : Bool :=
  match (s.stream n).session with
  | .claimed p =>
    match r with
    | .items => true
    | .titles => true
    | .patrons => decide (k = p)
    | .cards => false
    | .holds => false
  | _ => false

/-- The watch on a record, if the list holds one. -/
def findWatch (ws : List Watch) (r : Region) (k : Nat) : Option Watch :=
  ws.find? (fun w => decide (w.region = r) && decide (w.index = k))

/-- Opening a watch at the newest end, the oldest removed first from a full list (R73); or moving the one held there (R72). -/
def placeWatch (ws : List Watch) (w : Watch) : List Watch :=
  match findWatch ws w.region w.index with
  | some _ => ws.filter (fun v => !(decide (v.region = w.region) && decide (v.index = w.index))) ++ [w]
  | none => ws.drop (ws.length - 7) ++ [w]

/-- One hand-off of the Mark Unit (R72). -/
def State.handOffRecord (s : State) (n : StreamId) (stale : Bool) (x : Region × Nat) : State :=
  if s.watchable n x.1 x.2 then
    s.updStream n (fun t =>
      { t with watches := placeWatch t.watches ⟨x.1, x.2, if stale then .spoiled else .unspoiled⟩ })
  else s

/-- Setting SPOILED every watch on the records of a list (R75). -/
def spoilWatches (ts : List Target) (ws : List Watch) : List Watch :=
  ws.map (fun w => if Target.record w.region w.index ∈ ts then { w with condition := .spoiled } else w)

/-- The Settle Engine hands over the records a unit marked spoiling: the watches of every stream but the unit's own (R75). -/
def State.spoil (s : State) (owner : Option StreamId) (ts : List Target) : State :=
  allStreams.foldl
    (fun s n => if owner = some n then s
      else s.updStream n (fun t => { t with watches := spoilWatches ts t.watches })) s

end Sys2Proof.Machine
end

