-- ==== Sys2Proof/Machine/MarkUnit.lean ====
section
/-! DEFINITION. The Mark Unit: masking and marks on aperture reads, and what it hands to the Watch Table (R13 to R16). -/

namespace Sys2Proof.Machine

inductive Mark where
  | clear | stale | elsewhere | masked
  deriving DecidableEq, Repr

/-- R181: 1 CLEAR, 2 STALE, 3 ELSEWHERE, 4 MASKED. -/
def Mark.code : Mark → Nat
  | .clear => 1
  | .stale => 2
  | .elsewhere => 3
  | .masked => 4

/-- A masked reader: session OFF, or grade KIOSK (R15). -/
def State.maskedReader (s : State) (n : StreamId) : Bool :=
  decide ((s.stream n).session = .off) || decide ((s.cfg n).map (·.grade) = some .kiosk)

/-- A byte of memory as a read returned it: from its data where the burst covers it, from memory otherwise (log 15). -/
def State.seenByte (s : State) (start : Nat) (data : List Byte) (a : Nat) : Byte :=
  if start ≤ a ∧ a < start + data.length then data.getD (a - start) 0 else s.mem.read a

/-- An optional 4-byte field at address `a`, as the read returned it. -/
def State.seenOpt (s : State) (start : Nat) (data : List Byte) (a : Nat) : Option Nat :=
  opt4 (leNat [s.seenByte start data a, s.seenByte start data (a + 1), s.seenByte start data (a + 2),
    s.seenByte start data (a + 3)])

/-- R15 replaces at least one field of the record for this reader. -/
def State.replaces (s : State) (n : StreamId) (start : Nat) (data : List Byte) (r : Region) (k : Nat) : Bool :=
  s.maskedReader n &&
    (let claimed := (s.stream n).session.patron
     let off := s.base + s.targetOff (.record r k)
     match r with
     | .patrons => decide (claimed ≠ some k)
     | .cards => true
     | .titles => false
     | .items =>
       match s.seenOpt start data (off + 12) with
       | none => false
       | some b => decide (claimed ≠ some b)
     | .holds =>
       match s.seenOpt start data (off + 4) with
       | none => false
       | some b => decide (claimed ≠ some b))

/-- What a byte of a replaced field is replaced by: a patron's personal block and a card by zero, an item's borrower and a hold's patron by
absent (R15). -/
def maskByte (r : Region) (o : Nat) (b : Byte) : Byte :=
  match r with
  | .patrons => if o < 80 then 0 else b
  | .cards => 0
  | .titles => b
  | .items => if 12 ≤ o ∧ o < 16 then 0xFF else b
  | .holds => if 4 ≤ o ∧ o < 8 then 0xFF else b

/-- The record is STALE for a read: the part is FORMATTING, or the record was in the in-flight set since the issue (R14). -/
def State.isStale (s : State) (touched : List Target) (r : Region) (k : Nat) : Bool :=
  decide (s.loader.part = .formatting) || decide (Target.record r k ∈ touched)

/-- The patron record is claimed by a stream other than the reader (R14). -/
def State.isElsewhere (s : State) (n : StreamId) (r : Region) (k : Nat) : Bool :=
  decide (r = .patrons) &&
    allStreams.any (fun m => decide (m ≠ n) && decide ((s.stream m).session = .claimed k))

/-- The mark substituted for a record: the first that holds (R14). -/
def State.markOf (s : State) (n : StreamId) (start : Nat) (data : List Byte) (touched : List Target)
    (r : Region) (k : Nat) : Mark :=
  if s.isStale touched r k then .stale
  else if s.isElsewhere n r k then .elsewhere
  else if s.replaces n start data r k then .masked
  else .clear

/-- The byte returned upstream for a byte of memory at aperture offset `a` (R13, R14, R15). The region table is the one in force at the arrival,
also when an apply or a format accepted while the read was downstream has changed it: DESIGN CHOICE (log 57). -/
def State.returnedByte (s : State) (n : StreamId) (start : Nat) (data : List Byte) (touched : List Target)
    (a : Nat) (b : Byte) : Byte :=
  match classify s.regions a with
  | .record r k o =>
    if o = r.markOff then BitVec.ofNat 8 (s.markOf n start data touched r k).code
    else if s.replaces n start data r k then maskByte r o b
    else b
  | _ => b

/-- The data returned upstream for the data that arrived, from aperture offset `a`. -/
def State.returnedFrom (s : State) (n : StreamId) (start : Nat) (data : List Byte) (touched : List Target) :
    Nat → List Byte → List Byte
  | _, [] => []
  | a, b :: bs => s.returnedByte n start data touched a b :: s.returnedFrom n start data touched (a + 1) bs

/-- The records whose mark byte the read covers, in ascending address order (R16), by the region table in force at the arrival: DESIGN CHOICE
(log 57). -/
def State.markedRecords (s : State) : Nat → List Byte → List (Region × Nat)
  | _, [] => []
  | a, _ :: bs =>
    match classify s.regions a with
    | .record r k o =>
      if o = r.markOff then (r, k) :: s.markedRecords (a + 1) bs else s.markedRecords (a + 1) bs
    | _ => s.markedRecords (a + 1) bs

/-- Data of an aperture read arrived: hand-offs to the Watch Table (R16), then the response, marked and masked (R13). A read answered
error returns error with every data byte zero. -/
def State.readArrives (s : State) (i : IssuedUp) (a : Answer) : State :=
  let r := i.up.req
  match readData s.mem r.start (8 * r.words) i.snapshot a with
  | none => (s.complete i.up.tag ⟨false, zeros (8 * r.words)⟩).drain
  | some data =>
    let out := s.returnedFrom r.stream r.start data i.touched (r.start - s.base) data
    let s1 := (s.markedRecords (r.start - s.base) data).foldl
      (fun u x => u.handOffRecord r.stream (u.isStale i.touched x.1 x.2) x) s
    (s1.complete i.up.tag ⟨true, out⟩).drain

end Sys2Proof.Machine
end

