-- ==== Sys2Proof/Machine/Sessions.lean ====
section
/-! DEFINITION. Events of the Session Table: claim, release and reopen requests, takeover, the two timers, barring (R40 to R50, R56). -/

namespace Sys2Proof.Machine

/-! ## Requests of a unit (R40) -/

/-- Desk Capture ends a takeover victim's batch and writes its answer (R44). -/
def State.endVictim (s : State) (v : StreamId) : State :=
  (match (s.stream v).batch with
    | .collecting => s.endBatch v
    | .queued => (s.leaveQueue v).endBatch v
    | .idle => s
    | .settling => s).answerFresh v .claimTaken 0

/-- The session of a stream becomes VACANT; the session word follows (R39). -/
def State.makeVacant (s : State) (n : StreamId) : State :=
  s.changeSession n (fun t => { t with session := .vacant })

/-- The session of a stream becomes CLAIMED for a patron (R42). -/
def State.makeClaimed (s : State) (n : StreamId) (p : Nat) : State :=
  s.changeSession n (fun t => { t with session := .claimed p })

/-- The grade of a claimant that may take over a kiosk's patron (R41). -/
def mayTakeOver (claimant holder : Option Grade) : Bool :=
  decide (claimant = some .desk ∨ claimant = some .supervisor) && decide (holder = some .kiosk)

/-- The claim request, decided as one event (R41 step 6, R43): the new state and whether the claim is granted. -/
def State.claimRequest (s : State) (n : StreamId) (p : Nat) : State × Bool :=
  match s.claimant p with
  | none => (s.makeClaimed n p, true)
  | some v =>
    if mayTakeOver (s.grade n) (s.grade v) then (((s.makeVacant v).makeClaimed n p).endVictim v, true)
    else (s, false)

/-- The reopen request (R50): the stream becomes VACANT with check-failure count 0. -/
def State.reopen (s : State) (m : StreamId) : State :=
  s.changeSession m (fun t => { t with session := .vacant, checkFails := 0 })

/-! ## Timers -/

/-- A stream's running idle timer has reached the idle limit in force (R47). -/
def State.idleDue (s : State) (n : StreamId) : Bool :=
  match (s.stream n).idleTimer, s.loader.inForce with
  | some t, some u => decide (u.limits.idleLimit ≤ t)
  | _, _ => false

/-- A stream's running collect timer has reached the collect limit in force (R56). -/
def State.collectDue (s : State) (n : StreamId) : Bool :=
  match (s.stream n).collectTimer, s.loader.inForce with
  | some t, some u => decide (u.limits.collectLimit ≤ t)
  | _, _ => false

/-- Idle expiry (R47). -/
def State.idleExpire (s : State) (n : StreamId) : State := (s.makeVacant n).answerFresh n .idleRelease 0

/-- Collect expiry (R56). -/
def State.collectExpire (s : State) (n : StreamId) : State := (s.endBatch n).answerFresh n .collectTimeout 0

/-- After a change of the limits, every timer that has already reached its new limit expires at once (R46, R56). -/
def State.expireDue (s : State) : State :=
  allStreams.foldl (fun u n =>
    let u1 := if u.idleDue n then u.idleExpire n else u
    if u1.collectDue n then u1.collectExpire n else u1) s

/-! ## Check failures and barring (R48, R49) -/

/-- The check-failure limit in force. -/
def State.checkLimit (s : State) : Nat := ((s.loader.inForce).map (·.limits.checkLimit)).getD 15

/-- A CHECK refusal of a close: the count rises, and at the limit the stream is BARRED in the same event (R48, R49). -/
def State.checkRefusal (s : State) (n : StreamId) (holds : Option Nat) : State :=
  let c := min ((s.stream n).checkFails + 1) 15
  if (s.stream n).session = .off then s
  else if s.checkLimit ≤ c then
    s.changeSession n (fun t => { t with session := .barred, checkFails := c }) holds
  else s.updStream n (fun t => { t with checkFails := c })

end Sys2Proof.Machine
end

