-- ==== Sys2Proof/Machine/DeskCapture.lean ====
section
/-! DEFINITION. Desk Capture: slot writes, the close checks, cancels, and the owner's read of its answer (R54 to R61, R67). -/

namespace Sys2Proof.Machine

/-! ## Slot writes (R54) -/

/-- How many covered bytes fall on slot word `w`. -/
def coveredIn (cells : List (Nat × Byte)) (w : Nat) : Nat :=
  (cells.filter (fun c => decide (c.1 / 8 = w))).length

/-- The flags of a slot word after a write of it: covered whole, word-written set and torn clear; covered in part, torn set. -/
def markWord (cells : List (Nat × Byte)) (t : Stream) (w : Nat) : Stream :=
  if coveredIn cells w = 8 then
    { t with written := t.written.setIfInBounds w true, torn := t.torn.setIfInBounds w false }
  else { t with torn := t.torn.setIfInBounds w true }

/-- Taking the slot words a write covers: the bytes into the captured slots, then the flags. -/
def takeWords (cells : List (Nat × Byte)) (t : Stream) : Stream :=
  cells.foldl (fun u c => markWord cells u (c.1 / 8))
    { t with captured := cells.foldl (fun m c => Memory.write m c.1 c.2) t.captured }

/-- An owner write of entry slots, by batch state: opens a batch, extends it, or is not taken. -/
def State.slotWrite (s : State) (n : StreamId) (cells : List (Nat × Byte)) : State :=
  match (s.stream n).batch with
  | .idle =>
    s.updStream n (fun t => takeWords cells { t.batchIdle with batch := .collecting, collectTimer := some 0 })
  | .collecting => s.updStream n (fun t => takeWords cells { t with collectTimer := some 0 })
  | .queued => s
  | .settling => s

/-! ## Closing (R57 to R59) -/

inductive CloseVerdict where
  | refused (r : BatchResult)
  | ignored
  | taken
  deriving DecidableEq, Repr

/-- The close checks, in order; the first that holds decides (R57). -/
def State.closeVerdict (s : State) (n : StreamId) (count : Nat) : CloseVerdict :=
  let t := s.stream n
  let slots := List.range count
  if s.loader.part ≠ .ready then .refused .notReady
  else if t.session = .barred then .refused .barred
  else if (count = 0 ∨ 16 < count) ∧ (t.batch = .idle ∨ t.batch = .collecting) then .refused .badClose
  else if t.batch = .queued ∨ t.batch = .settling then .ignored
  else if !slots.all (slotComplete t.written) then .refused .short
  else if slots.any (slotTorn t.torn) then .refused .torn
  else if slots.any (fun i => !checkCorrect (slotBytes t.captured i)) then .refused .check
  else if !s.engine.running then .refused .halted
  else .taken

/-- A close refused whole (R58); a CHECK refusal moves the check-failure count first (R49). -/
def State.closeRefused (s : State) (n : StreamId) (r : BatchResult) (tag : Nat) : State :=
  let s1 := if r = .check then s.checkRefusal n (some tag) else s
  (s1.endBatch n).answerFresh n r 0 (some tag)

/-- A close taken on to the Commit Queue (R59). -/
def State.closeTaken (s : State) (n : StreamId) (count : Nat) (tag : Nat) : State :=
  let s1 := s.updStream n (fun t =>
    { t with checkFails := 0, collectTimer := none, closedCount := count, cancelAsked := false, batch := .queued })
  ({ s1 with queue := s1.queue ++ [n] }).answerWaiting n count (some tag)

/-- A close of stream `n` with the count byte's value. -/
def State.closeBatch (s : State) (n : StreamId) (count : Nat) (tag : Nat) : State :=
  match s.closeVerdict n count with
  | .refused r => s.closeRefused n r tag
  | .ignored => s.guardHit n
  | .taken => s.closeTaken n count tag

/-! ## Cancelling (R61) -/

def State.cancelBatch (s : State) (n : StreamId) (tag : Nat) : State :=
  match (s.stream n).batch with
  | .idle => s
  | .collecting => (s.endBatch n).answerFresh n .cancelled 0 (some tag)
  | .queued => ((s.leaveQueue n).endBatch n).answerFresh n .cancelled 0 (some tag)
  | .settling => s.updStream n (fun t => { t with cancelAsked := true })

/-! ## The hand-off of a desk write: slot words, then the close word, then the cancel word (R12, R54) -/

/-- The value of the count byte a write carries. -/
def countByte (cells : List (Nat × Byte)) : Option Nat :=
  (cells.find? (fun c => decide (c.1 = Config.closeOff))).map (fun c => c.2.toNat)

/-- Desk Capture acts on owner writes and reads: in READY, UNFORMATTED and FORMATTING (R53). -/
def State.deskActs (s : State) : Bool :=
  decide (s.loader.part = .ready ∨ s.loader.part = .unformatted ∨ s.loader.part = .formatting)

/-- Desk Capture takes a handed-on write of its stream's own desk (R53). -/
def State.deskHandOn (s : State) (u : UpReq) : State :=
  if !s.deskActs then s
  else
    let n := u.req.stream
    let cells := s.deskCells n u.req
    let slots := cells.filter (fun c => decide (c.1 < Config.closeOff))
    let s1 := if slots.isEmpty then s else s.slotWrite n slots
    let s2 := match countByte cells with
      | some c => s1.closeBatch n c u.tag
      | none => s1
    if s.coversCancel u.req then s2.cancelBatch n u.tag else s2

/-! ## The owner's read of its answer (R67) -/

/-- The data of an issued read show FRESH in the answer-state word of desk `n`. -/
def State.showsFresh (s : State) (i : IssuedUp) (data : List Byte) : Bool :=
  decide (data.getD (s.base + deskAddr i.up.req.stream Config.answerOff - i.up.req.start) 0 =
    BitVec.ofNat 8 AnswerState.fresh.code)

/-- The read returned the answer now standing, and it is FRESH. -/
def State.readsFresh (s : State) (i : IssuedUp) (data : List Byte) : Bool :=
  let t := s.stream i.up.req.stream
  s.showsFresh i data && decide (t.answer = .fresh) && !i.answerPending &&
    decide (t.answersRaised = i.answersAtIssue) && s.deskActs

/-- The answer becomes SEEN, on chip and by an own write of the answer-state field alone. -/
def State.markSeen (s : State) (n : StreamId) : State :=
  (s.updStream n (fun t => { t with answer := .seen })).raiseAnswer n (.seen n) (stateLanes .seen) none

/-- Desk Capture takes an owner's read of the answer-state word. -/
def State.answerRead (s : State) (i : IssuedUp) (a : Answer) : State :=
  let r := i.up.req
  match readData s.mem r.start (8 * r.words) i.snapshot a with
  | some data => if s.readsFresh i data then s.markSeen r.stream else s
  | none => s

end Sys2Proof.Machine
end

