-- ==== Sys2Proof/Machine/Sweep.lean ====
section
/-! DEFINITION. The Day Sweep: passes, examination reads, offers, and what it does when a unit ends or is handed back (R159 to R168). -/

namespace Sys2Proof.Machine

/-- The region the phase walks (R161, R162). -/
def SweepPhase.region : SweepPhase → Region
  | .holds => .holds
  | _ => .items

/-- The record an examination reads. -/
def Examined.target : Examined → Target
  | .item k => .record .items k
  | .asideHold _ h => .record .holds h
  | .hold k => .record .holds k

/-- An examination read has been raised and not answered (R161: one at a time). -/
def State.sweepReading (s : State) : Bool := s.ownWaiting.any (fun q => decide (q.tag = .sweepRead))

/-- The sweep reads and offers only in READY, with the engine RUNNING and stopped no (R159), while a pass is under way, no offer
stands and no read is under way (R161, R164). -/
def State.sweepMayRead (s : State) : Bool :=
  decide (s.loader.part = .ready) && s.engine.running && !s.sweep.stopped &&
    decide (s.sweep.phase ≠ .idle) && s.sweep.offer.isNone && s.sweep.reading.isNone && !s.sweepReading

/-- Raising an examination read (R161). -/
def State.sweepRaise (s : State) (e : Examined) : State :=
  ({ s with sweep := { s.sweep with reading := some (s.serial, e) } }).raise .sweepRead (s.targetOff e.target)
    (.read e.target.len)

/-- The step of a pass at its position: the read of the next record, or at the end of a phase the offer of a progress unit (R161 to
R163). At the end of ITEMS the state becomes HOLDS and the position 0 as the offer is made. -/
def State.sweepExamine (s : State) : State :=
  if s.sweepMayRead then
    if s.sweep.position < s.regionCount s.sweep.phase.region then
      s.sweepRaise (if s.sweep.phase = .holds then .hold s.sweep.position else .item s.sweep.position)
    else if s.sweep.phase = .holds then { s with sweep := { s.sweep with offer := some (.progress true) } }
    else { s with sweep := { s.sweep with phase := .holds, position := 0, offer := some (.progress false) } }
  else s

/-- Past the record at the position, and on. -/
def State.sweepAdvance (s : State) : State :=
  ({ s with sweep := { s.sweep with position := s.sweep.position + 1, offer := none, reading := none } }).sweepExamine

/-- One more record skipped (R166). -/
def State.countSkip (s : State) : State := { s with sweep := { s.sweep with skipped := satSucc s.sweep.skipped } }

/-- Past a record that could not be read (R166). -/
def State.sweepSkip (s : State) : State := s.countSkip.sweepAdvance

/-- A sweep unit already begun is no longer listened for: its end is ignored (R167). -/
def WorkUnit.unreported (u : WorkUnit) : WorkUnit := { u with reported := false }

/-- The engine has begun the unit the sweep offered. -/
def State.sweepUnitBegun (s : State) : Bool :=
  s.engine.unit.any (fun u =>
    match u.kind with
    | .sweep _ => true
    | _ => false)

/-- The offer that stands after a new pass began: none when the engine has not begun it; the offer of a unit already begun stands till the unit's
end, so that nothing is read before (R164, R167). -/
def State.offerKept (s : State) : Option Offer := if s.sweepUnitBegun then s.sweep.offer else none

/-- A pass begins: ITEMS, position 0, target `g`; the pass under way is dropped with its read and its offer, but for that of a unit already begun
(R160, R164, R167). A read raised and not yet issued is not taken back: DESIGN CHOICE (log 59). -/
def State.beginPass (s : State) (g : Nat) : State :=
  ({ s with
      engine := { s.engine with unit := s.engine.unit.map WorkUnit.unreported }
      sweep :=
        { s.sweep with phase := .items, target := g, position := 0, offer := s.offerKept, reading := none } }).sweepExamine

/-- What the clear of a progress unit brings (R163): at the end of HOLDS the swept-through day is the target and the sweep IDLE. -/
def State.sweepPhaseEnd (s : State) (endOfHolds : Bool) : State :=
  if endOfHolds then
    { s with sweep := { s.sweep with
        sweptThrough := s.sweep.target, phase := .idle, position := 0, offer := none } }
  else ({ s with sweep := { s.sweep with offer := none } }).sweepExamine

/-- The unit of a dropped pass has ended: its offer is cleared and the new pass goes on reading (R164, R167). -/
def State.sweepRelease (s : State) : State := ({ s with sweep := { s.sweep with offer := none } }).sweepExamine

/-- The engine reports a sweep unit ended (R164). The end of a unit whose pass was dropped moves nothing, and the new pass reads from item 0 (R167). -/
def State.sweepEnded (s : State) (o : Offer) (reported : Bool) : State :=
  if reported then
    match o with
    | .item _ => s.sweepAdvance
    | .resume _ => s.sweepAdvance
    | .progress e => s.sweepPhaseEnd e
  else s.sweepRelease

/-- The engine hands an abandoned sweep unit back (R166). Of a unit whose pass was dropped the skip is counted, for the count carries over, and the
rest is as at its end (R167, log 42). -/
def State.sweepHandBack (s : State) (o : Offer) (reported : Bool) : State :=
  if reported then
    match o with
    | .item _ => s.sweepSkip
    | .resume _ => s.sweepSkip
    | .progress e => s.sweepPhaseEnd e
  else
    match o with
    | .item _ => s.countSkip.sweepRelease
    | .resume _ => s.countSkip.sweepRelease
    | .progress _ => s.sweepRelease

/-- The halting engine stops the sweep (R168). A read raised and not yet issued is not taken back: DESIGN CHOICE (log 59). -/
def State.sweepStop (s : State) : State :=
  { s with sweep := { s.sweep with stopped := true, offer := none, reading := none } }

/-! ## Judging a record against the pass target (R161, R162) -/

/-- A day present and before `g`. -/
def dayBefore (d : Option Nat) (g : Nat) : Bool := d.any (fun x => decide (x < g))

/-- What an examined item calls for: an item unit, the read of its set-aside hold, or nothing. -/
inductive ItemWork where
  | unit | readHold (h : Nat) | nothing
  deriving DecidableEq, Repr

def judgeItem (holds g : Nat) (c : Item) : ItemWork :=
  match c.state with
  | .onLoan => if dayBefore c.charged g then .unit else .nothing
  | .setAside =>
    match c.aside with
    | some h => if h < holds then .readHold h else .nothing
    | none => .nothing
  | .available => .nothing

/-- A set-aside hold lapsed against the target: ON_SHELF with deadline before it. -/
def lapsed (h : Hold) (g : Nat) : Bool := decide (h.state = .onShelf) && dayBefore h.deadline g

/-- A hold that calls for a resume unit: SUSPENDED with suspend-until at or before the target. -/
def resumable (h : Hold) (g : Nat) : Bool :=
  decide (h.state = .suspended) && h.suspend.any (fun x => decide (x ≤ g))

def State.sweepOffer (s : State) (o : Offer) : State :=
  { s with sweep := { s.sweep with offer := some o, reading := none } }

/-- The contents of the examined record are judged. -/
def State.sweepJudge (s : State) (e : Examined) (data : List Byte) : State :=
  match e with
  | .item k =>
    match judgeItem (s.regionCount .holds) s.sweep.target (parseItem data) with
    | .unit => s.sweepOffer (.item k)
    | .readHold h => s.sweepRaise (.asideHold k h)
    | .nothing => s.sweepAdvance
  | .asideHold k _ =>
    if lapsed (parseHold data) s.sweep.target then s.sweepOffer (.item k) else s.sweepAdvance
  | .hold k =>
    if resumable (parseHold data) s.sweep.target then s.sweepOffer (.resume k) else s.sweepAdvance

/-- The record of the examination read that is `serial`, unless its pass was dropped or the sweep stopped since (R167, R168). -/
def Sweep.examining (x : Sweep) (serial : Nat) : Option Examined :=
  (x.reading.filter (fun r => decide (r.1 = serial))).map Prod.snd

/-- An examination read is answered (R161, R166 to R168): an error is counted, whichever pass raised the read. Otherwise a read of a dropped
pass, or of a stopped sweep, is discarded; its error skips no record (log 42). -/
def State.sweepReadAnswered (s : State) (i : IssuedOwn) (a : Answer) : State :=
  match s.ownData i a, s.sweep.examining i.req.serial with
  | none, some _ => s.storeFault.sweepSkip
  | none, none => s.storeFault.sweepExamine
  | some data, some e => if e.target ∈ i.touched then s.sweepRaise e else s.sweepJudge e data
  | some _, none => s.sweepExamine

end Sys2Proof.Machine
end

