-- ==== Sys2Proof/Machine/Settle.lean ====
section
/-! DEFINITION. What a unit works with between its gather and its note: the records gathered, the changes made on chip, and the steps
units share: freshen, queue walks, unlink, free, expiry, offer, trap, seek (chapters 7 to 10). -/

namespace Sys2Proof.Machine

/-- The day, the setup and the stream's standing a unit takes at its gather (R88, R102), with the captured entry (R62). -/
structure Ctx where
  day : Nat
  setup : Setup
  grade : Option Grade
  branch : Nat
  patron : Nat
  entry : Entry
  watches : List Watch

/-- The records a unit has gathered, the images of those it has changed in the order first changed (R90), the summary, and the items
and patrons as freshen alone left them (R74). -/
structure Work where
  setup : Setup
  gathered : List (Target × List Byte)
  images : List Image
  sum : Summary
  fresh : List Image

/-! ## Reading records: a guarded field is taken as the store holds it (R24); one that names a record out of range names no record to
read or to change (log 28) -/

def Work.count (w : Work) (r : Region) : Nat := (w.setup.regions.entry r).count

/-- The record a field names, if it is in range: the record to read, to change or to follow. -/
def Work.ref (w : Work) (r : Region) (i : Option Nat) : Option Nat := i.filter (fun k => decide (k < w.count r))

/-- The record is gathered. -/
def Work.has (w : Work) (t : Target) : Bool := w.gathered.any (fun g => decide (g.1 = t))

/-- The bytes of a gathered record. -/
def Work.raw (w : Work) (t : Target) : List Byte :=
  ((w.gathered.find? (fun g => decide (g.1 = t))).map Prod.snd).getD []

/-- The image a list holds for a target. -/
def imageOf (gs : List Image) (t : Target) : Option Image := gs.find? (fun g => decide (g.target = t))

/-- A patron record as gathered. -/
def Work.gatheredPatron (w : Work) (i : Nat) : Patron := parsePatron (w.raw (.record .patrons i))
def Work.gatheredTitle (w : Work) (i : Nat) : Title := parseTitle (w.raw (.record .titles i))
def Work.gatheredItem (w : Work) (i : Nat) : Item := parseItem (w.raw (.record .items i))
def Work.gatheredHold (w : Work) (i : Nat) : Hold := parseHold (w.raw (.record .holds i))

/-- A patron record as the unit has left it so far. -/
def Work.patron (w : Work) (i : Nat) : Patron :=
  match imageOf w.images (.record .patrons i) with
  | some (.patron _ _ p) => p
  | _ => w.gatheredPatron i

def Work.title (w : Work) (i : Nat) : Title :=
  match imageOf w.images (.record .titles i) with
  | some (.title _ _ t) => t
  | _ => w.gatheredTitle i

def Work.item (w : Work) (i : Nat) : Item :=
  match imageOf w.images (.record .items i) with
  | some (.item _ _ c) => c
  | _ => w.gatheredItem i

def Work.hold (w : Work) (i : Nat) : Hold :=
  match imageOf w.images (.record .holds i) with
  | some (.hold _ _ h) => h
  | _ => w.gatheredHold i

/-! ## Changing records: several changes of one record are merged into its one image (R90), which holds absent in every optional field the
record's state leaves without a value (R24) -/

/-- An item as a unit writes it: absent where the column of its state says absent (R24, R31). -/
def Item.written (c : Item) : Item :=
  match c.state with
  | .available => { c with borrower := none, due := none, charged := none, aside := none }
  | .onLoan => { c with aside := none }
  | .setAside => { c with borrower := none, due := none, charged := none }

/-- A hold as a unit writes it: absent where the column of its state says absent (R24, R32). -/
def Hold.written (h : Hold) : Hold :=
  match h.state with
  | .free => { h with patron := none, title := none, suspend := none, copy := none, deadline := none }
  | .waiting => { h with suspend := none, copy := none, deadline := none }
  | .suspended => { h with copy := none, deadline := none }
  | .inTransit => { h with suspend := none, deadline := none }
  | .onShelf => { h with suspend := none }

/-- The image of a record put in its place in the list, or at the end when it is the first change of that record. -/
def putImage (gs : List Image) (g : Image) : List Image :=
  if gs.any (fun x => decide (x.target = g.target)) then gs.map (fun x => if x.target = g.target then g else x)
  else gs ++ [g]

def Work.setPatron (w : Work) (i : Nat) (p : Patron) : Work :=
  if p = w.patron i then w
  else { w with images := putImage w.images (.patron i (w.raw (.record .patrons i)) p) }

def Work.setTitle (w : Work) (i : Nat) (t : Title) : Work :=
  if t = w.title i then w
  else { w with images := putImage w.images (.title i (w.raw (.record .titles i)) t) }

def Work.setItem (w : Work) (i : Nat) (c : Item) : Work :=
  if c.written = w.item i then w
  else { w with images := putImage w.images (.item i (w.raw (.record .items i)) c.written) }

def Work.setHold (w : Work) (i : Nat) (h : Hold) : Work :=
  if h.written = w.hold i then w
  else { w with images := putImage w.images (.hold i (w.raw (.record .holds i)) h.written) }

def Work.setSum (w : Work) (f : Summary → Summary) : Work := { w with sum := f w.sum }

/-- What a unit starts its decide from. -/
def Work.start (setup : Setup) (gathered : List (Target × List Byte)) : Work where
  setup := setup
  gathered := gathered
  images := []
  sum := parseSummary (((gathered.find? (fun g => decide (g.1 = .summary))).map Prod.snd).getD [])
  fresh := []

/-- A changed record that spoils watches: an item, title or patron whose contents differ from what freshen alone leaves (R74). -/
def Work.spoils (w : Work) (g : Image) : Bool :=
  match g with
  | .patron i _ p =>
    (match imageOf w.fresh (.record .patrons i) with
      | some (.patron _ _ q) => decide (p ≠ q)
      | _ => decide (p ≠ w.gatheredPatron i))
  | .item i _ c =>
    (match imageOf w.fresh (.record .items i) with
      | some (.item _ _ d) => decide (c ≠ d)
      | _ => decide (c ≠ w.gatheredItem i))
  | .title i _ t => decide (t ≠ w.gatheredTitle i)
  | .hold _ _ _ => false
  | .summary _ => false
  | .desk _ => false

/-- The records marked spoiling (R74). -/
def Work.spoilList (w : Work) : List Target := (w.images.filter w.spoils).map Image.target

/-! ## Freshen (R144, R145) -/

/-- The class-table entry of a class (R143). -/
def Setup.classOf (u : Setup) (c : Nat) : ClassEntry := u.classes[c % 8]'(Nat.mod_lt _ (by decide))

/-- The days to charge, from charged-through day `s`, due day and grace, up to day `T`. -/
def freshenDays (T s due grace : Nat) : Nat := T - max s (due + grace)

/-- The charge, held at the room under the cap. -/
def freshenCharge (days rate cap accrued : Nat) : Nat := min (days * rate) (cap - accrued)

/-- The amount applied, held at the room under the balance ceiling. -/
def freshenApplied (charge balance : Nat) : Nat := min charge (Config.balanceCeiling - balance)

/-- Freshen of item `i` on day `T`. An ON_LOAN item with no due day, no charged-through day or no borrower to charge is left as it is, and a
balance above the ceiling takes nothing: DESIGN CHOICE (log 47), for no unit writes such a record. -/
def Work.freshen (w : Work) (T i : Nat) : Work :=
  match (w.item i).state, (w.item i).charged, (w.item i).due, w.ref .patrons (w.item i).borrower with
  | .onLoan, some s, some due, some b =>
    if s < T then
      let c := w.item i
      let p := w.patron b
      let e := w.setup.classOf c.cls
      let x := freshenApplied (freshenCharge (freshenDays T s due e.grace) e.rate e.cap c.accrued) p.balance
      let c1 := { c with accrued := c.accrued + x, charged := some T }
      let p1 := { p with balance := p.balance + x }
      { ((w.setItem i c1).setPatron b p1).setSum (fun m => { m with charged := moneyAdd m.charged x }) with
        fresh := [.item i [] c1.written, .patron b [] p1] }
    else w
  | _, _, _, _ => w

/-! ## Queues (R30, R121) -/

/-- A hold is ready on day `T`. -/
def readyHold (T : Nat) (h : Hold) : Bool :=
  match h.state with
  | .waiting => true
  | .suspended => h.suspend.any (fun d => decide (d ≤ T))
  | _ => false

/-- The walk along the next fields, at most `n` holds; a link out of range ends it (log 28). -/
def Work.walk (w : Work) : Nat → Option Nat → List (Nat × Hold)
  | 0, _ => []
  | _ + 1, none => []
  | n + 1, some h => if h < w.count .holds then (h, w.hold h) :: w.walk n (w.hold h).next else []

/-- A title's queue, oldest first. -/
def Work.queue (w : Work) (t : Nat) : List (Nat × Hold) := w.walk (w.title t).queueLen (w.title t).first

/-- A walk up to and including the first hold that `stop` names, or to its end. -/
def upTo (stop : Nat × Hold → Bool) : List (Nat × Hold) → List (Nat × Hold)
  | [] => []
  | x :: xs => if stop x then [x] else x :: upTo stop xs

/-- The position, counted from 1, of the first hold that `p` names, with that hold. -/
def firstAt (p : Nat × Hold → Bool) : Nat → List (Nat × Hold) → Option (Nat × Nat × Hold)
  | _, [] => none
  | k, x :: xs => if p x then some (k, x.1, x.2) else firstAt p (k + 1) xs

/-- The hold in front of hold `h` on a walk. -/
def predecessor (h : Nat) : List (Nat × Hold) → Option Nat
  | [] => none
  | [_] => none
  | x :: y :: xs => if y.1 = h then some x.1 else predecessor h (y :: xs)

/-- Unlinking hold `h` from the queue of title `t` (R30). A length the store holds as 0 stays 0: DESIGN CHOICE
(log 47); so is what becomes of the title when its queue does not reach the hold (log 61). -/
def Work.unlink (w : Work) (t h : Nat) : Work :=
  let tt := w.title t
  let pred := if tt.first = some h then none else predecessor h (w.queue t)
  let next := (w.hold h).next
  let w1 := match pred with
    | some p => w.setHold p { w.hold p with next := next }
    | none => w
  w1.setTitle t { tt with
    first := if tt.first = some h then next else tt.first
    last := if tt.last = some h then pred else tt.last
    queueLen := tt.queueLen - 1 }

/-- Freeing hold `h` to the head of the free list (R33). -/
def Work.free (w : Work) (h : Nat) : Work :=
  (w.setHold h (Hold.freeForm w.sum.freeHead)).setSum
    (fun m => { m with freeHead := some h, freeCount := m.freeCount + 1 })

/-- A patron's active-hold count falls by 1; one the store holds as 0 stays 0: DESIGN CHOICE (log 47). -/
def Patron.dropHold (p : Patron) : Patron := { p with activeHolds := p.activeHolds - 1 }

/-! ## Offer and trap (R123, R124) -/

/-- The branch a copy stands at (R101). -/
def Item.place (c : Item) : Nat := c.loc.getD c.home

/-- An item AVAILABLE with its loan fields empty (R100, R123). -/
def Item.leftAvailable (c : Item) : Item :=
  { c with
    state := .available, borrower := none, due := none, renewals := 0, accrued := 0, charged := none
    aside := none }

/-- An item SET_ASIDE for hold `h` (R124). -/
def Item.setAsideFor (c : Item) (h : Nat) : Item := { c.leftAvailable with state := .setAside, aside := some h }

/-- A ready hold trapped with copy `c` on day `T`, resumed if SUSPENDED (R123, R124). -/
def Hold.trapped (x : Hold) (c : Nat) (here : Bool) (deadline : Nat) : Hold :=
  { x with
    state := if here then .onShelf else .inTransit
    suspend := none
    copy := some c
    deadline := if here then some deadline else none }

/-- A trap of copy `c` to hold `h`; 1 when the hold is now IN_TRANSIT, 2 when ON_SHELF. -/
def Work.trap (w : Work) (T c h : Nat) : Work × Nat :=
  let here := decide ((w.item c).place = (w.hold h).pickup)
  ((w.setItem c ((w.item c).setAsideFor h)).setHold h
    ((w.hold h).trapped c here (daySum T w.setup.limits.shelfDays)), if here then 2 else 1)

/-- The hold an offer of copy `c` to title `t` on day `T` chooses: the oldest ready one, none when the copy does not circulate (R123). -/
def Work.chosenHold (w : Work) (T c t : Nat) : Option (Nat × Hold) :=
  if (w.item c).circulates then (w.queue t).find? (fun x => readyHold T x.2) else none

/-- An offer of copy `c` to title `t` on day `T`; 0 when the copy is left AVAILABLE. -/
def Work.offer (w : Work) (T c t : Nat) : Work × Nat :=
  match w.chosenHold T c t with
  | some x => w.trap T c x.1
  | none => (w.setItem c (w.item c).leftAvailable, 0)

/-- A copy of the list that a seek or COPY_HERE considers: in range, and naming the title (R29, R125). -/
def Work.copyOf (w : Work) (t c : Nat) : Bool :=
  decide (c < w.count .items) && decide ((w.item c).title = t)

/-- A copy a seek takes: AVAILABLE and circulating. -/
def Work.idleCopy (w : Work) (t c : Nat) : Bool :=
  w.copyOf t c && decide ((w.item c).state = .available) && (w.item c).circulates

/-- A seek for title `t` on day `T` (R125). The copy it offers is AVAILABLE already, so without a ready hold nothing changes (R123). -/
def Work.seek (w : Work) (T t : Nat) : Work × Nat :=
  match (w.title t).copies.find? (w.idleCopy t) with
  | some c => if (w.chosenHold T c t).isSome then w.offer T c t else (w, 0)
  | none => (w, 0)

/-! ## Expiry (R129, R130) -/

/-- The holder after an expiry on day `T`: active-hold count down, no-show count up, and a ban when it reaches the limit. -/
def Patron.expired (p : Patron) (u : Limits) (T : Nat) : Patron :=
  let n := min (p.noShow + 1) 15
  if u.noShowLimit ≠ 0 ∧ u.noShowLimit ≤ n then
    { p.dropHold with noShow := 0, ban := some (daySum T u.banLength) }
  else { p.dropHold with noShow := n }

/-- The expiry of lapsed hold `h` on day `T` out of the queue of title `t`, if any, but for its pass-on (R129 steps 1 to 4). A hold that
names no patron in range counts for none: DESIGN CHOICE (log 47). -/
def Work.expireFrom (w : Work) (T : Nat) (t : Option Nat) (h : Nat) : Work :=
  let w1 := match t with
    | some t => w.unlink t h
    | none => w
  let w2 := w1.free h
  let w3 := match w.ref .patrons (w.hold h).patron with
    | some p => w2.setPatron p ((w2.patron p).expired w.setup.limits T)
    | none => w2
  w3.setSum (fun m => { m with expired := countSucc m.expired })

/-- The expiry of lapsed hold `h` on day `T`, but for its pass-on, out of the queue of the title it names. A hold that names no title in range is
unlinked from none: DESIGN CHOICE (log 47). -/
def Work.expireHold (w : Work) (T h : Nat) : Work := w.expireFrom T (w.ref .titles (w.hold h).title) h

/-- The expiry of lapsed hold `h` with copy `c`, with its pass-on (R126, R129). A copy whose hold names no title in range is left AVAILABLE
(log 47). -/
def Work.expire (w : Work) (T h c : Nat) : Work × Nat :=
  let w1 := w.expireHold T h
  match w.ref .titles (w.hold h).title with
  | some t => w1.offer T c t
  | none => (w1.setItem c (w1.item c).leftAvailable, 0)

/-- The set-aside hold of item `i`, when it is ON_SHELF past its deadline on day `T` (R103). -/
def Work.lapsedHold (w : Work) (T i : Nat) : Option Nat :=
  match (w.item i).state, w.ref .holds (w.item i).aside with
  | .setAside, some h => if lapsed (w.hold h) T then some h else none
  | _, _ => none

/-- Expire-on-touch of item `i` on day `T` (R103, R104). The copy passed on is the item touched, whatever copy the hold names: DESIGN CHOICE
(log 61). -/
def Work.expireOnTouch (w : Work) (T i : Nat) : Work :=
  match w.lapsedHold T i with
  | some h => (w.expire T h i).1
  | none => w

/-- The touch steps on item `i` (R103). -/
def Work.touch (w : Work) (T i : Nat) : Work := (w.freshen T i).expireOnTouch T i

/-! ## Gather: the records a unit reads, each when those before it are known (R88, R106) -/

/-- The holds of a title's queue up to and including the first that `stop` names. -/
def Work.queueTargets (w : Work) (t : Nat) (stop : Nat × Hold → Bool) : List Target :=
  (upTo stop (w.queue t)).map (fun x => .record .holds x.1)

/-- The holds an offer of item `i` to title `t` needs: up to the oldest ready hold, none when the copy does not circulate. -/
def Work.offerTargets (w : Work) (T i t : Nat) : List Target :=
  if (w.item i).circulates then w.queueTargets t (fun x => readyHold T x.2) else []

/-- The holds needed to unlink hold `h`: up to it. -/
def Work.unlinkTargets (w : Work) (t h : Nat) : List Target := w.queueTargets t (fun x => decide (x.1 = h))

/-- The record a field names, if any is in range, as a list. -/
def Work.targets (w : Work) (r : Region) (i : Option Nat) : List Target :=
  ((w.ref r i).map (fun k => Target.record r k)).toList

/-- The records the touch steps on item `i`, and a collection by `collector` at `branch`, need (R106). -/
def Work.touchTargets (w : Work) (T i : Nat) (collects : Hold → Bool) : List Target :=
  match (w.item i).state with
  | .onLoan => w.targets .patrons (w.item i).borrower
  | .available => []
  | .setAside =>
    match w.ref .holds (w.item i).aside with
    | none => []
    | some h =>
      let x := w.hold h
      [.record .holds h] ++ w.targets .patrons x.patron ++ w.targets .titles x.title ++
        (match w.ref .titles x.title with
          | none => []
          | some t =>
            if lapsed x T then w.unlinkTargets t h ++ w.offerTargets T i t
            else if collects x then w.unlinkTargets t h else [])

/-- The title an item's title index names, if any (R25). -/
def Work.titleOf (w : Work) (i : Nat) : Option Nat := w.ref .titles (some (w.item i).title)

/-- The copies in range of a title's copy list, in list order. -/
def Work.copyTargets (w : Work) (cs : List Nat) : List Target :=
  (cs.filter (fun c => decide (c < w.count .items))).map (fun c => .record .items c)

/-- The copies a seek reads: up to the first it takes. -/
def Work.seekCopies (w : Work) (t : Nat) : List Nat → List Nat
  | [] => []
  | c :: cs => if w.idleCopy t c then [c] else c :: w.seekCopies t cs

end Sys2Proof.Machine
end

