-- ==== Sys2Proof/Machine/Kinds.lean ====
section
/-! DEFINITION. What each entry kind gathers and decides, as pure functions of what the unit took at its gather (chapters 7 to 9). -/

namespace Sys2Proof.Machine

/-- An outcome: code, detail 1, detail 2 (R64). -/
structure Outcome where
  code : OutcomeCode
  d1 : Nat
  d2 : Nat
  deriving DecidableEq, Repr

/-- An outcome with details zero. -/
def plain (c : OutcomeCode) : Outcome := ⟨c, 0, 0⟩

/-! ## Shared checks -/

/-- The standing checks, in their order: staff bar, membership expiry, fine block (section 9.5). -/
def standing (k : Ctx) (p : Patron) : Option Outcome :=
  if p.bar then some (plain .patronBarred)
  else if p.expiry < k.day then some ⟨.patronExpired, p.expiry, 0⟩
  else if k.setup.limits.blockThreshold ≤ p.balance then
    some ⟨.fineBlock, p.balance, k.setup.limits.blockThreshold⟩
  else none

/-- The watch check of a KIOSK stream on record `i` of region `r` (R77). -/
def watchCheck (k : Ctx) (r : Region) (i : Nat) : Option Outcome :=
  if k.grade = some .kiosk then
    match findWatch k.watches r i with
    | none => some ⟨.notShown, i, 0⟩
    | some w => if w.condition = .spoiled then some ⟨.changed, i, 0⟩ else none
  else none

/-- The first of two checks that fails. -/
def orElseCheck (a b : Option Outcome) : Option Outcome :=
  match a with
  | some x => some x
  | none => b

/-! ## LEND (R107 to R110) -/

def needsLend (k : Ctx) (w : Work) : List Target :=
  [.record .patrons k.patron, .record .items k.entry.target] ++
    w.touchTargets k.day k.entry.target
      (fun x => decide (x.state = .onShelf ∧ x.patron = some k.patron ∧ x.pickup = k.branch)) ++ [.summary]

/-- Checks 1 to 5 (R107). -/
def lendChecks (k : Ctx) (w : Work) : Option Outcome :=
  let p := w.patron k.patron
  if !(w.item k.entry.target).circulates then some (plain .notCirculating)
  else orElseCheck (standing k p)
    (if k.setup.limits.loanLimit ≤ p.loans.length then
      some ⟨.loanLimit, p.loans.length, k.setup.limits.loanLimit⟩ else none)

/-- What check 6 of LEND finds (R108): the refusal, the hold to collect first, or that the loan is made. -/
inductive LendState where
  | refused (o : Outcome)
  | collects (h : Nat)
  | admits
  deriving DecidableEq, Repr

/-- Check 6 on the item as the touch steps left it. A set-aside hold neither IN_TRANSIT nor ON_SHELF gives RESERVED detail 2 as 1, which R108 leaves
open: DESIGN CHOICE (log 61). -/
def lendState (k : Ctx) (w : Work) : LendState :=
  let c := w.item k.entry.target
  match c.state with
  | .available => .admits
  | .onLoan =>
    if c.borrower = some k.patron then .refused ⟨.alreadyYours, c.due.getD 0, 0⟩
    else .refused ⟨.onLoan, c.due.getD 0, 0⟩
  | .setAside =>
    match w.ref .holds c.aside with
    | none => .refused (plain .reserved)
    | some h =>
      let x := w.hold h
      if x.state = .onShelf ∧ x.patron = some k.patron ∧ x.pickup = k.branch then .collects h
      else .refused ⟨.reserved, x.pickup, if x.state = .onShelf then 2 else 1⟩

/-- The collection of hold `h` by its patron (R109). -/
def Work.collect (w : Work) (p h : Nat) : Work :=
  let w1 := match w.ref .titles (w.hold h).title with
    | some t => w.unlink t h
    | none => w
  let w2 := w1.free h
  (w2.setPatron p (w2.patron p).dropHold).setSum (fun m => { m with collected := countSucc m.collected })

/-- The loan of item `i` to patron `p` (R110). -/
def Work.lend (w : Work) (k : Ctx) (i p : Nat) : Work × Outcome :=
  let c := w.item i
  let due := daySum k.day (k.setup.classOf c.cls).loanPeriod
  let w1 := w.setItem i { c with
    state := .onLoan, borrower := some p, due := some due, renewals := 0, accrued := 0, charged := some k.day
    aside := none }
  let q := w1.patron p
  ((w1.setPatron p { q with loans := q.loans ++ [i] }).setSum (fun m => { m with lent := countSucc m.lent }),
    ⟨.done, due, q.loans.length + 1⟩)

def decideLend (k : Ctx) (w : Work) : Work × Outcome :=
  let w1 := w.touch k.day k.entry.target
  match lendChecks k w1 with
  | some o => (w1, o)
  | none =>
    match lendState k w1 with
    | .refused o => (w1, o)
    | .collects h => (w1.collect k.patron h).lend k k.entry.target k.patron
    | .admits => w1.lend k k.entry.target k.patron

/-! ## RETURN (R111, R112) -/

def needsReturn (k : Ctx) (w : Work) : List Target :=
  let i := k.entry.target
  [.record .items i] ++
    (if (w.item i).state = .onLoan then w.targets .patrons (w.item i).borrower else []) ++
    (match w.titleOf i with
      | none => []
      | some t => [.record .titles t] ++
          (if (w.item i).state = .onLoan then w.offerTargets k.day i t else [])) ++
    w.touchTargets k.day i (fun _ => false) ++ [.summary]

/-- The item leaves its borrower's loan list, and its loan fields and location are written (R111 steps 1 to 3). A borrower out of range has
no list (log 28). Every place of the list that names the item is removed, be it none or several: DESIGN CHOICE (log 61). -/
def Work.endLoan (w : Work) (i branch : Nat) : Work :=
  let w1 := w.setItem i { (w.item i).leftAvailable with loc := some branch }
  match w.ref .patrons (w.item i).borrower with
  | some b => w1.setPatron b { w1.patron b with loans := (w1.patron b).loans.filter (fun x => decide (x ≠ i)) }
  | none => w1

def decideReturn (k : Ctx) (w : Work) : Work × Outcome :=
  let i := k.entry.target
  let w1 := w.touch k.day i
  if (w1.item i).state = .onLoan then
    let w2 := w1.endLoan i k.branch
    let r := match w2.titleOf i with
      | some t => w2.offer k.day i t
      | none => (w2, 0)
    (r.1.setSum (fun m => { m with returned := countSucc m.returned }), ⟨.done, (w1.item i).accrued, r.2⟩)
  else (w1, plain .notOnLoan)

/-! ## RENEW (R113, R114) -/

/-- The records the renewal of item `i` needs; a loan-list place out of range names no item (log 28). -/
def needsRenewOf (k : Ctx) (w : Work) (i : Nat) : List Target :=
  [.record .patrons k.patron] ++
    (if i < w.count .items then
      [.record .items i] ++
        (if (w.item i).state = .onLoan then w.targets .patrons (w.item i).borrower else []) ++
        (match w.titleOf i with
          | none => []
          | some t => [.record .titles t] ++ w.queueTargets t (fun x => readyHold k.day x.2)) ++
        w.touchTargets k.day i (fun _ => false)
    else []) ++ [.summary]

def needsRenew (k : Ctx) (w : Work) : List Target := needsRenewOf k w k.entry.target

/-- Checks 3 to 7 of RENEW (R113). -/
def renewChecks (k : Ctx) (w : Work) (i : Nat) : Option Outcome :=
  let c := w.item i
  let e := k.setup.classOf c.cls
  orElseCheck (standing k (w.patron k.patron))
    (if e.renewalLimit ≤ c.renewals then some ⟨.renewLimit, c.renewals, e.renewalLimit⟩
    else match w.titleOf i with
      | none => none
      | some t =>
        match firstAt (fun x => readyHold k.day x.2) 1 (w.queue t) with
        | some x => some ⟨.holdsWaiting, x.1, (w.title t).queueLen⟩
        | none => none)

/-- The extension of a loan (R114). -/
def Work.extend (w : Work) (k : Ctx) (i : Nat) : Work × Outcome :=
  let c := w.item i
  let due := daySum (max k.day (c.due.getD 0)) (k.setup.classOf c.cls).loanPeriod
  ((w.setItem i { c with due := some due, renewals := c.renewals + 1 }).setSum
    (fun m => { m with renewed := countSucc m.renewed }), ⟨.done, due, c.renewals + 1⟩)

/-- RENEW's rules on item `i`; the per-item watch is asked of a RENEW, not of a renewal sub-unit (R117). -/
def renewItem (k : Ctx) (w : Work) (i : Nat) (askWatch : Bool) : Work × Outcome :=
  let w1 := w.touch k.day i
  let c := w1.item i
  if c.state = .onLoan ∧ c.borrower = some k.patron then
    match orElseCheck (if askWatch then watchCheck k .items i else none) (renewChecks k w1 i) with
    | some o => (w1, o)
    | none => w1.extend k i
  else (w1, plain .notYours)

def decideRenew (k : Ctx) (w : Work) : Work × Outcome := renewItem k w k.entry.target true

/-! ## RENEW_SET (R116 to R118) -/

/-- R116 check 1. -/
def rangeValid (e : Entry) : Bool := decide (1 ≤ e.first ∧ e.first ≤ e.last ∧ e.last ≤ 40)

/-- The positions selected, ascending, each with its item. -/
def selectFrom (e : Entry) : Nat → List Nat → List (Nat × Nat)
  | _, [] => []
  | p, i :: is =>
    if e.first ≤ p ∧ p ≤ e.last ∧ p ∉ e.excluded then (p, i) :: selectFrom e (p + 1) is
    else selectFrom e (p + 1) is

def selection (k : Ctx) (w : Work) : List (Nat × Nat) := selectFrom k.entry 1 (w.patron k.patron).loans

def needsRenewSet (k : Ctx) (w : Work) : List Target :=
  [.record .patrons k.patron] ++
    (if rangeValid k.entry then
      match selection k w with
      | [] => []
      | x :: _ => needsRenewOf k w x.2
    else [])

/-- R116: the refusal of the first unit, if it is refused. -/
def renewSetChecks (k : Ctx) : Option Outcome :=
  if rangeValid k.entry then watchCheck k .patrons k.patron else some (plain .badTarget)

/-- The progress after the renewal of position `pos` ended with `o`. -/
def RenewProgress.tally (r : RenewProgress) (pos : Nat) (o : Outcome) : RenewProgress :=
  if o.code = .done then { r with remaining := r.remaining.tail, renewed := r.renewed + 1 }
  else { r with
    remaining := r.remaining.tail
    refused := r.refused + 1
    firstRefusal := match r.firstRefusal with
      | some f => some f
      | none => some (pos, o.code) }

/-- The entry's outcome (R118). -/
def RenewProgress.outcome (r : RenewProgress) : Outcome :=
  let d2 := r.refused * 256 + ((r.firstRefusal.map Prod.fst).getD 0)
  match r.firstRefusal with
  | none => ⟨.done, r.renewed, d2⟩
  | some f => if r.renewed = 0 then ⟨f.2, 0, d2⟩ else ⟨.partially, r.renewed, d2⟩

/-- One renewal sub-unit: the renewal of the first remaining position, with the provisional outcome CUT (R117). -/
def renewStep (k : Ctx) (w : Work) (r : RenewProgress) : Work × RenewProgress × Outcome :=
  match r.remaining with
  | [] => (w, r, ⟨.cut, r.renewed, 0⟩)
  | x :: _ =>
    let d := renewItem k w x.2 false
    let r1 := r.tally x.1 d.2
    (d.1, r1, ⟨.cut, r1.renewed, 0⟩)

/-! ## HOLD_PLACE (R132 to R135) -/

def needsHoldPlace (k : Ctx) (w : Work) : List Target :=
  let t := k.entry.target
  [.record .patrons k.patron, .record .titles t] ++ w.queueTargets t (fun _ => false) ++
    w.targets .holds (w.title t).last ++ w.copyTargets (w.title t).copies ++ [.summary] ++
    w.targets .holds w.sum.freeHead

/-- The suspend-until day of an entry (R181). -/
def Entry.until (e : Entry) : Option Nat := opt4 e.day

/-- The thirteen checks (R133). -/
def holdPlaceChecks (k : Ctx) (w : Work) : Option Outcome :=
  let e := k.entry
  let p := w.patron k.patron
  let t := w.title e.target
  if 63 < e.pickup then some ⟨.badTarget, e.pickup, 0⟩
  else orElseCheck (standing k p) <|
    if p.ban.any (fun d => decide (k.day < d)) then some ⟨.holdBan, p.ban.getD 0, 0⟩
    else orElseCheck (watchCheck k .titles e.target) <|
      if e.until.any (fun u => decide (u ≤ k.day ∨ Config.lastDay < u)) then some ⟨.badDay, e.day, 0⟩
      else match firstAt (fun x => decide (x.2.patron = some k.patron)) 1 (w.queue e.target) with
        | some x => some ⟨.holdExists, x.1, 0⟩
        | none =>
          match t.copies.find? (fun c => w.copyOf e.target c && decide ((w.item c).state = .onLoan) &&
              decide ((w.item c).borrower = some k.patron)) with
          | some c => some ⟨.haveCopy, c, 0⟩
          | none =>
            if k.setup.limits.holdLimit ≤ p.activeHolds then
              some ⟨.holdLimit, p.activeHolds, k.setup.limits.holdLimit⟩
            else if 255 ≤ t.queueLen then some ⟨.queueFull, t.queueLen, 0⟩
            else if w.sum.freeCount = 0 then some (plain .poolFull)
            else match t.copies.find? (fun c => w.idleCopy e.target c &&
                decide ((w.item c).place = e.pickup)) with
              | some c => some ⟨.copyHere, c, 0⟩
              | none => none

/-- The placement in the queue of title `t` with free hold `h` (R134). A queue with one of its first and last holds absent is a DESIGN CHOICE
(log 61). -/
def Work.placeHold (w : Work) (k : Ctx) (t h : Nat) : Work :=
  let x := w.hold h
  let tt := w.title t
  let w1 := w.setSum (fun m =>
    { m with freeHead := x.next, freeCount := m.freeCount - 1, placed := countSucc m.placed })
  let w2 := w1.setHold h {
    state := if k.entry.until.isSome then .suspended else .waiting
    pickup := k.entry.pickup
    patron := some k.patron
    title := some t
    placed := k.day
    suspend := k.entry.until
    copy := none
    deadline := none
    next := none }
  let w3 := match w.ref .holds tt.last with
    | some l => w2.setHold l { w2.hold l with next := some h }
    | none => w2
  let w4 := w3.setTitle t { tt with
    first := if tt.first.isNone then some h else tt.first
    last := some h
    queueLen := tt.queueLen + 1 }
  let p := w4.patron k.patron
  w4.setPatron k.patron { p with activeHolds := p.activeHolds + 1 }

/-- HOLD_PLACE's decide. A free count above 0 whose free-list head is absent or out of range leaves no hold to take: DESIGN CHOICE POOL_FULL
(log 47). -/
def decideHoldPlace (k : Ctx) (w : Work) : Work × Outcome :=
  match holdPlaceChecks k w with
  | some o => (w, o)
  | none =>
    match w.ref .holds w.sum.freeHead with
    | none => (w, plain .poolFull)
    | some h =>
      let w1 := w.placeHold k k.entry.target h
      let n := (w1.title k.entry.target).queueLen
      ((w1.seek k.day k.entry.target).1, ⟨.done, n, n⟩)

/-! ## HOLD_CANCEL (R136, R137) -/

/-- The patron's hold in a queue, with its position. -/
def Work.ownHold (w : Work) (t p : Nat) : Option (Nat × Nat × Hold) :=
  firstAt (fun x => decide (x.2.patron = some p)) 1 (w.queue t)

/-- Patron, title and the walk to the patron's hold; then, for a hold with a copy that is to leave, the copy and the walk an offer needs. -/
def ownHoldTargets (k : Ctx) (w : Work) (leaves : Hold → Bool) : List Target :=
  let t := k.entry.target
  [.record .patrons k.patron, .record .titles t] ++
    w.queueTargets t (fun x => decide (x.2.patron = some k.patron)) ++
    (match w.ownHold t k.patron with
      | none => []
      | some x =>
        match w.ref .items x.2.2.copy with
        | none => []
        | some c => if leaves x.2.2 then [.record .items c] ++ w.offerTargets k.day c t else [])

def needsHoldCancel (k : Ctx) (w : Work) : List Target :=
  ownHoldTargets k w (fun _ => true) ++ [.summary]

/-- The touch step of HOLD_CANCEL and HOLD_PAUSE: the patron's own hold expires when it is lapsed (R136). It leaves the queue it was found in, and
its copy is offered to that queue, whatever title the hold names: DESIGN CHOICE (log 61). -/
def Work.touchOwn (w : Work) (k : Ctx) : Option Work :=
  match w.ownHold k.entry.target k.patron with
  | none => none
  | some x =>
    if lapsed x.2.2 k.day then
      let w1 := w.expireFrom k.day (some k.entry.target) x.2.1
      match w.ref .items x.2.2.copy with
      | some c => some (w1.offer k.day c k.entry.target).1
      | none => some w1
    else none

/-- Cancelling hold `h` of patron `p` in the queue of title `t` (R137). -/
def Work.cancelHold (w : Work) (T t h p : Nat) : Work × Nat :=
  let x := w.hold h
  let w1 := (w.unlink t h).free h
  let w2 := (w1.setPatron p (w1.patron p).dropHold).setSum
    (fun m => { m with cancelled := countSucc m.cancelled })
  match x.state, w.ref .items x.copy with
  | .inTransit, some c => w2.offer T c t
  | .onShelf, some c => w2.offer T c t
  | _, _ => (w2, 0)

def decideHoldCancel (k : Ctx) (w : Work) : Work × Outcome :=
  match w.touchOwn k with
  | some w1 => (w1, ⟨.noHold, 0, 1⟩)
  | none =>
    match w.ownHold k.entry.target k.patron with
    | none => (w, plain .noHold)
    | some x =>
      let r := w.cancelHold k.day k.entry.target x.2.1 k.patron
      (r.1, ⟨.done, x.1, r.2⟩)

/-! ## HOLD_PAUSE (R138, R139) -/

/-- A resume by this entry may be followed by a seek. -/
def pauseSeeks (k : Ctx) (w : Work) : Bool :=
  decide (k.entry.day = 0) &&
    (w.ownHold k.entry.target k.patron).any (fun x => decide (x.2.2.state = .suspended))

def needsHoldPause (k : Ctx) (w : Work) : List Target :=
  let t := k.entry.target
  ownHoldTargets k w (fun x => lapsed x k.day) ++
    (if pauseSeeks k w then w.copyTargets (w.seekCopies t (w.title t).copies) else []) ++ [.summary]

/-- R138 check 4: the day as a value that cannot be taken. -/
def badPauseDay (k : Ctx) : Option Outcome :=
  match k.entry.until with
  | none => some ⟨.badDay, 0, 0⟩
  | some u => if (1 ≤ u ∧ u ≤ k.day) ∨ Config.lastDay < u then some ⟨.badDay, u, 0⟩ else none

/-- A hold resumed (R120). -/
def Hold.resumed (x : Hold) : Hold := { x with state := .waiting, suspend := none }

/-- What a pause does to the patron's hold `h` (R139). One whose state is FREE is treated as WAITING is: DESIGN CHOICE (log 61). -/
def Work.pauseHold (w : Work) (k : Ctx) (h : Nat) (x : Hold) : Work × Outcome :=
  if k.entry.day = 0 then
    if x.state = .suspended then
      let r := (w.setHold h x.resumed).seek k.day k.entry.target
      (r.1, ⟨.done, 0, r.2⟩)
    else (w, plain .done)
  else (w.setHold h { x with state := .suspended, suspend := some k.entry.day }, ⟨.done, k.entry.day, 0⟩)

def decideHoldPause (k : Ctx) (w : Work) : Work × Outcome :=
  match w.touchOwn k with
  | some w1 => (w1, ⟨.noHold, 0, 1⟩)
  | none =>
    match w.ownHold k.entry.target k.patron with
    | none => (w, plain .noHold)
    | some x =>
      match x.2.2.state with
      | .inTransit => (w, ⟨.holdBusy, 1, 0⟩)
      | .onShelf => (w, ⟨.holdBusy, 2, 0⟩)
      | _ =>
        match badPauseDay k with
        | some o => (w, o)
        | none => w.pauseHold k x.2.1 x.2.2

/-! ## ARRIVE (R140) -/

def needsArrive (k : Ctx) (w : Work) : List Target :=
  [.record .items k.entry.target] ++
    (if (w.item k.entry.target).state = .setAside then w.touchTargets k.day k.entry.target (fun _ => false)
    else []) ++ [.summary]

/-- The IN_TRANSIT hold an item is set aside for. -/
def Work.transitHold (w : Work) (i : Nat) : Option Nat :=
  match (w.item i).state, w.ref .holds (w.item i).aside with
  | .setAside, some h => if (w.hold h).state = .inTransit then some h else none
  | _, _ => none

def decideArrive (k : Ctx) (w : Work) : Work × Outcome :=
  let i := k.entry.target
  let w1 := w.expireOnTouch k.day i
  match w1.transitHold i with
  | none => (w1, plain .notInTransit)
  | some h =>
    let x := w1.hold h
    if x.pickup = k.branch then
      let deadline := daySum k.day k.setup.limits.shelfDays
      ((w1.setHold h { x with state := .onShelf, deadline := some deadline }).setItem i
        { w1.item i with loc := some k.branch }, ⟨.done, deadline, x.patron.getD 0⟩)
    else (w1, ⟨.wrongBranch, x.pickup, 0⟩)

/-! ## PAY and WAIVE (R148, R149) -/

def needsPay (k : Ctx) : List Target := [.record .patrons k.patron, .summary]

def badAmount (k : Ctx) : Option Outcome :=
  if k.entry.amount = 0 ∨ Config.balanceCeiling < k.entry.amount then some ⟨.badAmount, k.entry.amount, 0⟩
  else none

def overBalance (k : Ctx) (w : Work) : Option Outcome :=
  if (w.patron k.patron).balance < k.entry.amount then
    some ⟨.overBalance, (w.patron k.patron).balance, k.entry.amount⟩
  else none

/-- The claimed patron's balance lowered by the amount. -/
def Work.lowerBalance (w : Work) (k : Ctx) : Work :=
  w.setPatron k.patron { w.patron k.patron with balance := (w.patron k.patron).balance - k.entry.amount }

def decidePay (k : Ctx) (w : Work) : Work × Outcome :=
  match orElseCheck (badAmount k) (overBalance k w) with
  | some o => (w, o)
  | none =>
    ((w.lowerBalance k).setSum (fun m => { m with paid := moneyAdd m.paid k.entry.amount }),
      ⟨.done, (w.patron k.patron).balance - k.entry.amount, k.entry.amount⟩)

/-- R149 check 2. -/
def overWaive (k : Ctx) : Option Outcome :=
  if k.grade = some .desk ∧ k.setup.limits.waiveLimit < k.entry.amount then
    some ⟨.overWaiveLimit, k.entry.amount, k.setup.limits.waiveLimit⟩
  else none

def decideWaive (k : Ctx) (w : Work) : Work × Outcome :=
  match orElseCheck (badAmount k) (orElseCheck (overWaive k) (overBalance k w)) with
  | some o => (w, o)
  | none =>
    ((w.lowerBalance k).setSum (fun m => { m with waived := moneyAdd m.waived k.entry.amount }),
      ⟨.done, (w.patron k.patron).balance - k.entry.amount, k.entry.reason⟩)

/-! ## PATRON_BAR (R154) -/

def needsBar (k : Ctx) : List Target := [.record .patrons k.entry.target]

def decideBar (k : Ctx) (w : Work) : Work × Outcome :=
  let p := w.patron k.entry.target
  (w.setPatron k.entry.target
    (if k.entry.bar then { p with bar := true } else { p with bar := false, ban := none, noShow := 0 }),
    ⟨.done, if p.bar then 1 else 0, p.noShow⟩)

/-! ## CLAIM, as far as it is judged on the store (R41) -/

/-- The patron a card names: present and in range (R25). -/
def cardPatron (k : Ctx) (w : Work) : Option Nat :=
  w.ref .patrons (some (parseCard (w.raw (.record .cards k.entry.target))).patron)

def needsClaim (k : Ctx) (w : Work) : List Target :=
  let card := parseCard (w.raw (.record .cards k.entry.target))
  [.record .cards k.entry.target] ++
    (if card.state = .active then w.targets .patrons (cardPatron k w) else [])

/-- Checks 4 and 5 of CLAIM: the refusal, or the patron to claim. -/
def claimJudge (k : Ctx) (w : Work) : Except OutcomeCode Nat :=
  match cardPatron k w, (parseCard (w.raw (.record .cards k.entry.target))).state with
  | none, _ => .error .cardUnknown
  | some _, .lost => .error .cardLost
  | some _, .withdrawn => .error .cardUnknown
  | some p, .active => .ok p

/-! ## Freshen sub-unit (R146) and sweep units (R164) -/

/-- A loan-list place out of range names no item (log 28). -/
def needsFreshenSub (k : Ctx) (w : Work) (i : Nat) : List Target :=
  [.record .patrons k.patron] ++
    (if i < w.count .items then
      [.record .items i] ++ (if (w.item i).state = .onLoan then w.targets .patrons (w.item i).borrower else [])
    else []) ++ [.summary]

def needsItemUnit (T : Nat) (w : Work) (i : Nat) : List Target :=
  [.record .items i] ++ w.touchTargets T i (fun _ => false) ++ [.summary]

/-- The walk of the queue and the copies a seek after the resumption of hold `h` needs. -/
def needsResume (T : Nat) (w : Work) (h : Nat) : List Target :=
  [.record .holds h] ++
    (match w.ref .titles (w.hold h).title with
      | none => []
      | some t => [.record .titles t] ++
          (if resumable (w.hold h) T then
            w.queueTargets t (fun x => readyHold T x.2) ++
              w.copyTargets (w.seekCopies t (w.title t).copies)
          else []))

/-- The work an item unit finds at day `T`: the item ON_LOAN and charged through an earlier day. -/
def freshenDue (T : Nat) (w : Work) (i : Nat) : Bool :=
  decide ((w.item i).state = .onLoan) && dayBefore (w.item i).charged T

/-- The decide of a resume unit: hold `h` resumed, then a seek for its title; nothing when it is not SUSPENDED with its day come. -/
def decideResume (T : Nat) (w : Work) (h : Nat) : Work :=
  if resumable (w.hold h) T then
    let w1 := w.setHold h (w.hold h).resumed
    match w.ref .titles (w.hold h).title with
    | some t => (w1.seek T t).1
    | none => w1
  else w

end Sys2Proof.Machine
end

