-- ==== Sys2Proof/Machine/Engine.lean ====
section
/-! DEFINITION. The Settle Engine: gather, the change list, note, apply, clear, redo, halt, and the common check prefix (R82 to R99). -/

namespace Sys2Proof.Machine

/-! ## What a unit takes at its gather -/

/-- Entry `i` of stream `n`'s batch, from the captured bytes (R62). -/
def State.entryOf (s : State) (n : StreamId) (i : Nat) : Entry := parseEntry (slotBytes (s.stream n).captured i)

/-- The entry of an entry unit; the fields of a sweep unit's entry are never read. -/
def State.unitEntry (s : State) (u : WorkUnit) : Entry :=
  match u.owner, u.entry with
  | some n, some i => s.entryOf n i
  | _, _ => parseEntry []

def State.ctx (s : State) (setup : Setup) (u : WorkUnit) : Ctx where
  day := u.day
  setup := setup
  grade := u.owner.bind s.grade
  branch := (u.owner.map s.branch).getD 0
  patron := (u.owner.bind (fun n => (s.stream n).session.patron)).getD 0
  entry := s.unitEntry u
  watches := (u.owner.map (fun n => (s.stream n).watches)).getD []

/-! ## Gather (R88) -/

/-- The records an entry's unit needs. -/
def entryNeeds (e : EntryKind) (k : Ctx) (w : Work) : List Target :=
  match e with
  | .claim => needsClaim k w
  | .release => []
  | .lend => needsLend k w
  | .returnItem => needsReturn k w
  | .renew => needsRenew k w
  | .renewSet => needsRenewSet k w
  | .holdPlace => needsHoldPlace k w
  | .holdCancel => needsHoldCancel k w
  | .holdPause => needsHoldPause k w
  | .pay => needsPay k
  | .waive => needsPay k
  | .arrive => needsArrive k w
  | .patronBar => needsBar k
  | .streamReopen => []

/-- The records a sweep unit needs (R164). -/
def sweepNeeds (o : Offer) (k : Ctx) (w : Work) : List Target :=
  match o with
  | .item i => needsItemUnit k.day w i
  | .resume h => needsResume k.day w h
  | .progress _ => [.summary]

/-- The records a unit needs, in the order it reads them. -/
def unitNeeds (u : WorkUnit) (sub : SubUnits) (k : Ctx) (w : Work) : List Target :=
  match u.kind with
  | .entry e => entryNeeds e k w
  | .freshenSub =>
    match sub with
    | .claim _ (i :: _) => needsFreshenSub k w i
    | _ => []
  | .renewalSub =>
    match sub with
    | .renew r =>
      match r.remaining with
      | x :: _ => needsRenewOf k w x.2
      | [] => []
    | _ => []
  | .sweep o => sweepNeeds o k w
  | _ => []

def State.subUnits (s : State) : SubUnits := ((s.engine.batch).map (·.sub)).getD .none

def State.setUnit (s : State) (u : WorkUnit) : State := { s with engine := { s.engine with unit := some u } }

/-- The next read the unit needs is raised, or the unit passes to decide. -/
def State.gatherStep (s : State) (setup : Setup) (u : WorkUnit) : State :=
  let w := Work.start setup u.gathered
  match (unitNeeds u s.subUnits (s.ctx setup u) w).find? (fun t => !w.has t) with
  | some t => (s.setUnit u).raise (.gather t) (s.targetOff t) (.read t.len)
  | none => s.setUnit { u with phase := .decide }

/-- A unit at the start of a phase: today captured, nothing gathered. -/
def State.newUnit (s : State) (kind : UnitKind) (owner : Option StreamId) (entry : Option Nat) (code : Nat)
    (phase : Phase) : WorkUnit where
  kind := kind
  owner := owner
  entry := entry
  code := code
  phase := phase
  day := s.loader.today.getD 0
  gathered := []
  failed := none
  changes := []
  spoil := []
  redoUsed := false
  toWrite := []
  reported := true

/-- A unit begins its gather. -/
def State.beginUnit (s : State) (kind : UnitKind) (owner : Option StreamId) (entry : Option Nat) (code : Nat) : State :=
  match s.loader.inForce with
  | some setup => s.gatherStep setup (s.newUnit kind owner entry code .gather)
  | none => s

/-! ## The common check prefix (R89) -/

/-- The kinds a grade may use (R63). -/
def kindAllowed (k : EntryKind) (g : Option Grade) : Bool :=
  match g with
  | none => false
  | some .kiosk =>
    match k with
    | .waive => false
    | .arrive => false
    | .patronBar => false
    | .streamReopen => false
    | _ => true
  | some _ => true

/-- The session a kind needs (R63): the outcome when the stream does not have it. -/
def sessionCheck (k : EntryKind) (x : Session) : Option OutcomeCode :=
  match k with
  | .claim => if x = .vacant then none else some .outOfTurn
  | .returnItem => none
  | .arrive => none
  | .patronBar => none
  | .streamReopen => none
  | _ => if x.isClaimed then none else some .noPatron

/-- The region of a kind's target, when the prefix checks it. -/
def targetRegion : EntryKind → Option Region
  | .claim => some .cards
  | .lend => some .items
  | .returnItem => some .items
  | .renew => some .items
  | .arrive => some .items
  | .holdPlace => some .titles
  | .holdCancel => some .titles
  | .holdPause => some .titles
  | .patronBar => some .patrons
  | _ => none

/-- The kind of an entry whose prefix passes, or the refusal. -/
def State.commonChecks (s : State) (n : StreamId) (e : Entry) : Except OutcomeCode EntryKind :=
  match EntryKind.ofCode e.kind with
  | none => .error .badKind
  | some k =>
    if kindAllowed k (s.grade n) then
      match sessionCheck k (s.stream n).session with
      | some o => .error o
      | none =>
        match targetRegion k with
        | none => .ok k
        | some r => if e.target < s.regionCount r then .ok k else .error .badTarget
    else .error .grade

/-! ## The writes of a unit (R91 to R93) -/

/-- A write of whole bytes. -/
def byteWrite (tag : OwnTag) (off : Nat) (bs : List Byte) : MemWrite := ⟨off, lanesOf bs, tag⟩

/-- The writes of the images into the note area, image `i` first. -/
def imageWrites : Nat → List Image → List MemWrite
  | _, [] => []
  | i, g :: gs => byteWrite .note (Config.noteBase + Config.imageOff i) g.noteBytes :: imageWrites (i + 1) gs

/-- The note writes before WRITTEN: stream, entry index, unit kind, image count, images (R92). -/
def noteWrites (u : WorkUnit) : List MemWrite :=
  [byteWrite .note (Config.noteBase + 1) (put1 (u.owner.map Fin.val)),
    byteWrite .note (Config.noteBase + 2) (put1 u.entry),
    byteWrite .note (Config.noteBase + 3) (leBytes 1 u.code),
    byteWrite .note (Config.noteBase + 4) (leBytes 1 u.changes.length)] ++ imageWrites 0 u.changes

/-- The apply write of an image: the guarded bytes of a record, the summary record, or a run of an answer area (R93). -/
def State.applyWrite (s : State) (g : Image) : MemWrite :=
  match g.target with
  | .record r i => ⟨s.targetOff (.record r i), guardedLanes r 0 g.contents, .image none⟩
  | .summary => byteWrite (.image none) Config.summaryBase g.contents
  | .desk n => byteWrite (.image (some n)) (deskAddr n Config.answerOff + g.run) g.contents

/-- Every issued read has met the records that join the in-flight set (R14). -/
def Path.touch (p : Path) (ts : List Target) : Path :=
  { p with
    upIssued := p.upIssued.map (fun i => { i with touched := i.touched ++ ts })
    ownIssued := p.ownIssued.map (fun i => { i with touched := i.touched ++ ts }) }

/-- The WRITTEN write is raised: the targets of the change list become the in-flight set (R92). -/
def State.raiseWritten (s : State) (u : WorkUnit) : State :=
  let ts := u.changes.map Image.target
  (({ s with
      engine := { s.engine with inFlight := ts }
      path := s.path.touch ts }).setUnit u).raiseWrite .written Config.noteBase [Config.noteWritten]

/-- The next write of the unit's phase is raised; after the last, WRITTEN or CLEAR (R92, R93). -/
def State.raiseNext (s : State) (u : WorkUnit) : State :=
  match u.toWrite with
  | w :: ws => (s.setUnit { u with toWrite := ws }).raise w.tag w.off (.write w.lanes)
  | [] =>
    match u.phase with
    | .note => s.raiseWritten u
    | .apply => (s.setUnit { u with phase := .clear }).raiseWrite .clear Config.noteBase [0]
    | _ => s

/-- The note is written, or written again, from its first write (R92, R97). -/
def State.writeNote (s : State) (u : WorkUnit) : State :=
  s.raiseNext { u with phase := .note, toWrite := noteWrites u }

/-- Apply begins with the first image as WRITTEN is answered done (R92), and again at its redo (R97). -/
def State.writeImages (s : State) (u : WorkUnit) : State :=
  s.raiseNext { u with phase := .apply, toWrite := u.changes.map s.applyWrite }

/-! ## The change list (R90) -/

/-- The images of the records a unit changed, then of the summary when any of its fields changed, then of the desk. -/
def Work.changes (w : Work) (desk : Option DeskImage) : List Image :=
  w.images ++ (if w.sum = parseSummary (w.raw .summary) then [] else [.summary w.sum]) ++
    (desk.map Image.desk).toList

/-- The change list is built and the note begun. -/
def State.startNote (s : State) (u : WorkUnit) (w : Work) (desk : Option DeskImage) : State :=
  s.writeNote { u with changes := w.changes desk, spoil := w.spoilList }

/-- The copy of the batch's outcome records with one written or rewritten (R90). -/
def putOutcome (os : List OutcomeRec) (o : OutcomeRec) : List OutcomeRec :=
  if os.any (fun x => decide (x.entry = o.entry)) then os.map (fun x => if x.entry = o.entry then o else x)
  else os ++ [o]

/-- An outcome record of entry `i` of a batch. -/
def State.outcomeRec (s : State) (n : StreamId) (i : Nat) (o : Outcome) : OutcomeRec :=
  ⟨i, (s.entryOf n i).kind, o.code, (s.entryOf n i).tag, o.d1, o.d2⟩

/-- The header of an answer that ends a batch (R65, R90). -/
def State.header (s : State) (n : StreamId) (r : BatchResult) (hits : Nat) : AnswerHeader :=
  ⟨.fresh, r, (s.stream n).closedCount, hits⟩

/-- The desk image of a unit of entry `b.next`: with the header when the unit finishes the last entry. -/
def State.deskImage (s : State) (b : CurrentBatch) (o : OutcomeRec) (finishes : Bool) : DeskImage :=
  if finishes && decide (b.next + 1 = (s.stream b.stream).closedCount) then
    ⟨b.stream, some (s.header b.stream .complete (s.stream b.stream).guardHits), 0, putOutcome b.outcomes o⟩
  else ⟨b.stream, none, b.next, [o]⟩

/-- The current batch after a unit of its entry: the entry finished, or its sub-units still to run. -/
def CurrentBatch.after (b : CurrentBatch) (o : OutcomeRec) (sub : SubUnits) : CurrentBatch :=
  if sub = .none then
    { b with
      next := b.next + 1, prevDone := decide (o.code = .done), sub := .none
      outcomes := putOutcome b.outcomes o }
  else { b with sub := sub, outcomes := putOutcome b.outcomes o }

/-- The end of a batch unit's decide: its outcome, its change list, and the entry's sub-units not yet run. -/
def State.conclude (s : State) (u : WorkUnit) (b : CurrentBatch) (w : Work) (o : Outcome) (sub : SubUnits) : State :=
  let x := s.outcomeRec b.stream b.next o
  let desk := s.deskImage b x (decide (sub = .none))
  ({ s with engine := { s.engine with batch := some (b.after x sub) } }).startNote u w (some desk)

/-! ## Units waiting for their decide -/

/-- The batch unit of a kind that stands at its decide, with the batch and the setup. -/
def State.deciding (s : State) (kind : UnitKind) : Option (WorkUnit × CurrentBatch × Setup) :=
  match s.engine.unit, s.engine.batch, s.loader.inForce with
  | some u, some b, some setup =>
    if !s.inReset && s.engine.running && decide (u.phase = .decide) && decide (u.kind = kind) then
      some (u, b, setup)
    else none
  | _, _, _ => none

/-- The sweep unit that stands at its decide. -/
def State.decidingSweep (s : State) : Option (WorkUnit × Offer × Setup) :=
  match s.engine.unit, s.loader.inForce with
  | some u, some setup =>
    match u.kind with
    | .sweep o =>
      if !s.inReset && s.engine.running && decide (u.phase = .decide) then some (u, o, setup) else none
    | _ => none
  | _, _ => none

/-- An entry unit's decide by a pure function of the store and the stream's standing. -/
def State.decideEntry (s : State) (kind : EntryKind) (f : Ctx → Work → Work × Outcome) : State :=
  match s.deciding (.entry kind) with
  | some (u, b, setup) =>
    let d := f (s.ctx setup u) (Work.start setup u.gathered)
    s.conclude u b d.1 d.2 .none
  | none => s

/-! ## The end of a unit (R93) -/

/-- The header a change list carries, if it ends the batch. -/
def headerOf : List Image → Option (StreamId × AnswerHeader)
  | [] => none
  | .desk d :: gs =>
    match d.header with
    | some h => some (d.desk, h)
    | none => headerOf gs
  | _ :: gs => headerOf gs

/-- The batch ends with the header's answer. -/
def State.endCurrent (s : State) (n : StreamId) (h : AnswerHeader) : State :=
  ({ s with engine := { s.engine with batch := none } }).updStream n
    (fun t => { t.batchIdle with answer := h.state })

/-- No unit and an empty in-flight set: the engine stands at a boundary. -/
def State.clearUnit (s : State) : State := { s with engine := { s.engine with unit := none, inFlight := [] } }

/-- A sweep unit's end is reported to the Day Sweep. -/
def State.reportEnd (s : State) (u : WorkUnit) : State :=
  match u.kind with
  | .sweep o => s.sweepEnded o u.reported
  | _ => s

/-- The CLEAR write is answered done. -/
def State.endUnit (s : State) (u : WorkUnit) : State :=
  let s1 := s.clearUnit.spoil u.owner u.spoil
  let s2 := match headerOf u.changes with
    | some (n, h) => s1.endCurrent n h
    | none => s1
  s2.reportEnd u

/-! ## Store faults (R96 to R98) -/

/-- A gather read failed: the unit is abandoned, for a fault unit in its place or handed back to the sweep (R96). -/
def State.abandon (s : State) (u : WorkUnit) (t : Target) : State :=
  let s1 := s.storeFault
  match u.kind with
  | .sweep o => s1.clearUnit.sweepHandBack o u.reported
  | _ => s1.setUnit
      { u with
        kind := .fault, code := codeFault, phase := .decide, gathered := [], failed := some t
        changes := [], spoil := [], toWrite := [] }

/-- Outcome records HALTED of entries `i` up to `n - 1` of stream `m`'s batch. -/
def State.haltRecords (s : State) (m : StreamId) (i : Nat) : List OutcomeRec :=
  ((List.range (s.stream m).closedCount).filter (fun j => decide (i ≤ j))).map
    (fun j => s.outcomeRec m j (plain .halted))

/-- A halting engine answers a batch: the records from entry `i` on, then the header (R98, log 30). -/
def State.haltAnswer (s : State) (m : StreamId) (i : Nat) : State :=
  let rs := s.haltRecords m i
  let h := s.header m .halted (s.stream m).guardHits
  let s1 := if rs.isEmpty then s
    else s.raiseWrite (.haltAnswer m) (deskAddr m (Config.outcomeOff + 16 * i)) (rs.map encodeOutcome).flatten
  (s1.raiseWrite (.haltAnswer m) (deskAddr m Config.answerOff) (encodeHeader h)).updStream m
    (fun t => { t.batchIdle with answer := .fresh })

/-- The first entry of the current batch that a halt answers: past the entry whose unit halted, if one did. -/
def haltFrom (u : WorkUnit) (b : CurrentBatch) : Nat :=
  match u.entry with
  | some i => if u.kind = .endBatch then b.next else i + 1
  | none => b.next

/-- The engine halts on a second write error of unit `u` (R98). -/
def State.halt (s : State) (u : WorkUnit) : State :=
  let s1 := ({ s with engine := { s.engine with running := false, unit := some { u with toWrite := [] } } }).sweepStop
  let s2 := match s1.engine.batch with
    | some b => { s1.haltAnswer b.stream (haltFrom u b) with engine := { s1.engine with batch := none } }
    | none => s1
  s2.queue.foldl (fun x n => x.haltAnswer n 0) { s2 with queue := [] }

/-- A write of a unit answered error (R97): the first leads to a redo, the second to a halt. -/
def State.writeError (s : State) (u : WorkUnit) (noteAgain : Bool) : State :=
  let s1 := s.storeFault
  if u.redoUsed then s1.halt u
  else if noteAgain then s1.writeNote { u with redoUsed := true }
  else s1.writeImages { u with redoUsed := true }

/-! ## Ending a batch early (R94, R95) -/

/-- The outcome CUT of an entry: that of one begun names its patron or its renewals (R95). -/
def cutOutcome (b : CurrentBatch) (i : Nat) : Outcome :=
  if i = b.next then
    match b.sub with
    | .none => plain .cut
    | .claim p _ => ⟨.cut, p, 0⟩
    | .renew r => ⟨.cut, r.renewed, 0⟩
  else plain .cut

/-- The outcome an end unit gives entry `i`. -/
def endOutcome (b : CurrentBatch) (i : Nat) : Outcome :=
  match b.cut with
  | some _ => cutOutcome b i
  | none => plain .cancelled

/-- The header an end unit writes: COMPLETE after a cancel, CUT after a cut, with guard-hit count 0 after a warm reset. -/
def State.endHeader (s : State) (b : CurrentBatch) : AnswerHeader :=
  match b.cut with
  | none => s.header b.stream .complete (s.stream b.stream).guardHits
  | some .disabled => s.header b.stream .cut (s.stream b.stream).guardHits
  | some .warmReset => s.header b.stream .cut 0

/-- The outcome records of the whole batch, those not finished as the end unit gives them. -/
def State.endRecords (s : State) (b : CurrentBatch) : List OutcomeRec :=
  ((List.range (s.stream b.stream).closedCount).filter (fun i => decide (b.next ≤ i))).foldl
    (fun os i => putOutcome os (s.outcomeRec b.stream i (endOutcome b i))) b.outcomes

/-! ## Sweep units (R164, R165) -/

/-- The summary with the sweep fields as the Day Sweep holds them when the unit decides (R165). For a unit of the pass under way they
are past its record or its phase; a unit whose pass was dropped carries them as held (log 29). -/
def Sweep.fields (x : Sweep) (o : Offer) (reported : Bool) (m : Summary) : Summary :=
  let held : Summary :=
    { m with
      target := x.target, phase := x.phase, position := x.position, sweptThrough := x.sweptThrough
      skipped := x.skipped }
  if reported then
    match o with
    | .item k => { held with position := k + 1 }
    | .resume k => { held with position := k + 1 }
    | .progress false => { held with phase := .holds, position := 0 }
    | .progress true => { held with phase := .idle, position := 0, sweptThrough := x.target }
  else held

/-- A sweep unit's work with the sweep fields in its summary, when it has a summary image. -/
def Work.withSweep (w : Work) (f : Summary → Summary) : Work :=
  if w.sum = parseSummary (w.raw .summary) then w else w.setSum f

/-- An empty unit ends in the event of its decide (R164). -/
def State.emptyUnit (s : State) (u : WorkUnit) : State := s.clearUnit.reportEnd u

/-- The end of a sweep unit's decide: an empty unit, or its note. -/
def State.concludeSweep (s : State) (u : WorkUnit) (o : Offer) (code : Nat) (w : Work) : State :=
  if w.images.isEmpty then s.emptyUnit u
  else s.startNote { u with code := code } (w.withSweep (s.sweep.fields o u.reported)) none

end Sys2Proof.Machine
end

