-- ==== Sys2Proof/Machine/Validate.lean ====
section
/-! DEFINITION. The setup block: where its contents lie, how they are read, and their validation (R169, R171, section 12.3). -/

namespace Sys2Proof.Machine

/-! ## The reads of the block: one for each content (log 16) -/

def SetupPart.off : SetupPart → Nat
  | .status => Config.statusOff
  | .regions => 0
  | .streams => 64
  | .classes => 192
  | .limits => 256
  | .calendar => Config.calendarOff

def SetupPart.len : SetupPart → Nat
  | .status => 8
  | .regions => 40
  | .streams => 128
  | .classes => 64
  | .limits => 20
  | .calendar => 8

/-- The content read after another; none after the last. -/
def SetupPart.following : SetupPart → Option SetupPart
  | .status => some .regions
  | .regions => some .streams
  | .streams => some .classes
  | .classes => some .limits
  | .limits => some .calendar
  | .calendar => none

/-- The bytes of a block read so far, with those of one more read. -/
def addPart (block : Memory) (p : SetupPart) (data : List Byte) : Memory := block.writeLanes p.off (lanesOf data)

/-! ## Fields -/

/-- A field of `n` bytes of the block. -/
def blockField (b : Memory) (off n : Nat) : Nat := leNat (b.bytes off n)

/-- The region-table entry at offset `o`. -/
def regionEntryAt (b : Memory) (o : Nat) : RegionEntry := ⟨blockField b o 4, blockField b (o + 4) 4⟩

def blockRegions (b : Memory) : RegionTable where
  patrons := regionEntryAt b 0
  cards := regionEntryAt b 8
  titles := regionEntryAt b 16
  items := regionEntryAt b 24
  holds := regionEntryAt b 32

/-- Offset of stream `n`'s entry in the block, and of class `c`'s. -/
def streamOff (n : Nat) : Nat := 64 + n * 4
def classOff (c : Nat) : Nat := 192 + c * 8

/-- R181: the low bit of enable and of attention enable. A grade that validation refuses is never put in force. -/
def blockStream (b : Memory) (n : Nat) : StreamCfg where
  enable := decide (blockField b (streamOff n) 1 % 2 = 1)
  grade := (Grade.ofCode (blockField b (streamOff n + 1) 1)).getD .kiosk
  branch := blockField b (streamOff n + 2) 1
  attention := decide (blockField b (streamOff n + 3) 1 % 2 = 1)

def blockClass (b : Memory) (c : Nat) : ClassEntry where
  loanPeriod := blockField b (classOff c) 1
  renewalLimit := blockField b (classOff c + 1) 1
  rate := blockField b (classOff c + 2) 2
  cap := blockField b (classOff c + 4) 2
  grace := blockField b (classOff c + 6) 1

def blockLimits (b : Memory) : Limits where
  loanLimit := blockField b 256 1
  holdLimit := blockField b 257 1
  blockThreshold := blockField b 260 4
  noShowLimit := blockField b 264 1
  banLength := blockField b 266 2
  shelfDays := blockField b 265 1
  waiveLimit := blockField b 268 4
  idleLimit := blockField b 272 2
  collectLimit := blockField b 274 1
  checkLimit := blockField b 275 1

/-- The setup a block that passes validation gives. -/
def blockSetup (b : Memory) : Setup where
  regions := blockRegions b
  streams := Vector.ofFn (fun n : Fin 32 => blockStream b n.val)
  classes := Vector.ofFn (fun c : Fin 8 => blockClass b c.val)
  limits := blockLimits b

/-- The calendar word's day field. -/
def blockDay (b : Memory) : Nat := blockField b Config.calendarOff 2

/-- The status word's store-fault count. -/
def blockFaults (b : Memory) : Nat := blockField b (Config.statusOff + 4) 2

/-! ## Validation, in the order of R171: the first failure gives the result -/

/-- The first failure of a list of checks. -/
def firstFailure : List (Option SetupResult) → Option SetupResult
  | [] => none
  | some r :: _ => some r
  | none :: cs => firstFailure cs

/-- A check: the result when it fails. -/
def require (ok : Bool) (code : ResultCode) (field : Nat) : Option SetupResult :=
  if ok then none else some ⟨code, field⟩

def regionChecks (t : RegionTable) (r : Region) : List (Option SetupResult) :=
  let e := t.entry r
  [require (decide (e.offset % Config.pageSize = 0 ∧ Config.regionFloor ≤ e.offset)) .misaligned r.code,
    require (decide (e.count % 1024 = 0 ∧ 1024 ≤ e.count ∧ e.count ≤ r.maxCount)) .badCount r.code,
    require (decide (e.offset + e.count * r.size ≤ Config.apertureSize)) .beyondAperture r.code]

/-- Two regions share no byte. -/
def apart (t : RegionTable) (r q : Region) : Bool :=
  decide ((t.entry r).offset + (t.entry r).count * r.size ≤ (t.entry q).offset) ||
    decide ((t.entry q).offset + (t.entry q).count * q.size ≤ (t.entry r).offset)

/-- The pairs of regions, in their order. -/
def regionPairs : List Region → List (Region × Region)
  | [] => []
  | r :: rs => rs.map (fun q => (r, q)) ++ regionPairs rs

/-- OVERLAP names the earlier region in the field's first byte and the later in its second: DESIGN CHOICE, for section 12.3 says only one in each
(log 49). -/
def pairCheck (t : RegionTable) (p : Region × Region) : Option SetupResult :=
  require (apart t p.1 p.2) .overlap (p.1.code + 256 * p.2.code)

def streamChecks (b : Memory) (n : Nat) : List (Option SetupResult) :=
  [require (Grade.ofCode (blockField b (streamOff n + 1) 1)).isSome .outOfRange (streamOff n + 1),
    require (decide (blockField b (streamOff n + 2) 1 ≤ 63)) .outOfRange (streamOff n + 2)]

/-- A field of `n` bytes within its range. -/
def rangeCheck (b : Memory) (off n lo hi : Nat) : Option SetupResult :=
  require (decide (lo ≤ blockField b off n ∧ blockField b off n ≤ hi)) .outOfRange off

def classChecks (b : Memory) (c : Nat) : List (Option SetupResult) :=
  [rangeCheck b (classOff c) 1 1 120, rangeCheck b (classOff c + 1) 1 0 15,
    rangeCheck b (classOff c + 2) 2 0 1000, rangeCheck b (classOff c + 4) 2 0 50000,
    rangeCheck b (classOff c + 6) 1 0 14]

def limitChecks (b : Memory) : List (Option SetupResult) :=
  [rangeCheck b 256 1 1 40, rangeCheck b 257 1 1 30, rangeCheck b 260 4 1 9999999,
    rangeCheck b 264 1 0 15, rangeCheck b 266 2 1 365, rangeCheck b 265 1 1 21,
    rangeCheck b 268 4 0 100000, rangeCheck b 272 2 10 600, rangeCheck b 274 1 1 60,
    rangeCheck b 275 1 1 15]

/-- Steps 1 to 5 of R171. -/
def blockFailure (b : Memory) : Option SetupResult :=
  let t := blockRegions b
  firstFailure ((allRegions.map (regionChecks t)).flatten ++ (regionPairs allRegions).map (pairCheck t) ++
    ((List.range 32).map (streamChecks b)).flatten ++ ((List.range 8).map (classChecks b)).flatten ++
    limitChecks b)

/-- A block judged; `fixed` is the region table in force when a change of it is refused (step 6). -/
def validate (b : Memory) (fixed : Option RegionTable) : Except SetupResult Setup :=
  match blockFailure b with
  | some r => .error r
  | none =>
    match fixed with
    | some t => if blockRegions b = t then .ok (blockSetup b) else .error ⟨.regionsFixed, 0⟩
    | none => .ok (blockSetup b)

end Sys2Proof.Machine
end

