-- ==== Sys2Proof/Machine/Startup.lean ====
section
/-! DEFINITION. The cold start: setup read, format stamp, note replay, desk scan, session words, sweep load, READY (R178 to R180, R182). -/

namespace Sys2Proof.Machine

def State.setStartup (s : State) (st : Startup) : State := { s with loader := { s.loader with job := .startup st } }

/-- A start-up read or write of the current step is raised. -/
def State.startupRead (s : State) (st : Startup) (off len : Nat) : State :=
  (s.setStartup st).raise .startupRead off (.read len)

/-- `desk` names the desk whose answer area the write changes. -/
def State.startupWrite (s : State) (st : Startup) (desk : Option StreamId) (off : Nat) (lanes : List Lane) : State :=
  (s.setStartup st).raise (.startupWrite desk) off (.write lanes)

/-- The places of the start-up order. -/
def Startup.start : Startup where
  step := .readSetup .status
  retried := false
  block := []
  count := 0
  images := []

def Startup.at (st : Startup) (p : StartStep) : Startup := { st with step := p, retried := false }

/-! ## Requests begun (R172) -/

def State.setJob (s : State) (j : Job) : State := { s with loader := { s.loader with job := j } }

/-- The read of a content of the block for a request. -/
def State.readPart (s : State) (k : RequestKind) (p : SetupPart) (block : Memory) : State :=
  (s.setJob (.reading k p block)).raise .setupRead p.off (.read p.len)

/-- The first request of the pending list is begun; a warm reset is left to its own event (log 20). An apply, or a second format
(log 19), pending behind a format that is accepted stays in the list through FORMATTING and is begun after it, in its place: DESIGN CHOICE (log 51). -/
def State.startRequest (s : State) : State :=
  match s.loader.job, s.loader.requests with
  | .idle, .apply :: rs =>
    ({ s with loader := { s.loader with requests := rs } }).readPart .apply .regions []
  | .idle, .format :: rs =>
    ({ s with loader := { s.loader with requests := rs } }).readPart .format .regions []
  | _, _ => s

/-- In UNSET and UNFORMATTED a request is carried out at once. -/
def State.startAtOnce (s : State) : State :=
  if s.loader.part = .unset ∨ s.loader.part = .unformatted then s.startRequest else s

/-! ## Outcomes -/

/-- The start-up order ends: the part state, with its status write; in UNSET and UNFORMATTED a request still pending is begun (log 18); and
the held requests go on (R6, R178, log 17). -/
def State.startupEnds (s : State) (part : PartState) : State :=
  ((({ s with loader := { s.loader with part := part, job := .idle } }).raiseStatus .startupStatus).startAtOnce).drain

/-- Step 2 ends in UNSET with a result. -/
def State.startupUnset (s : State) (r : SetupResult) : State :=
  ({ s with loader := { s.loader with result := r } }).startupEnds .unset

/-- A read of the setup block failed: counted, READ_FAULT, UNSET. -/
def State.startupReadFault (s : State) : State :=
  ({ s with loader := { s.loader with faults := satSucc s.loader.faults } }).startupUnset ⟨.readFault, 0⟩

/-! ## The sweep load (R160) -/

/-- The sweep takes its fields from the summary record as memory holds it (log 32), against today. -/
def State.sweepLoad (s : State) : State :=
  let m := parseSummary (s.mem.bytes (s.base + Config.summaryBase) Config.summarySize)
  let today := s.loader.today.getD 0
  let x : Sweep := { s.sweep with sweptThrough := m.sweptThrough, skipped := m.skipped }
  let y : Sweep :=
    if today ≤ m.sweptThrough then x
    else if m.phase ≠ .idle ∧ m.target = today then
      { x with phase := m.phase, target := today, position := m.position }
    else { x with phase := .items, target := today, position := 0 }
  { s with sweep := y }

/-- The last step: the sweep is loaded and the part becomes READY (R180). -/
def State.startupReady (s : State) : State := (s.sweepLoad.startupEnds .ready).sweepExamine

/-! ## The steps that raise the next request -/

/-- The session word of stream `n` is written. -/
def State.startSession (s : State) (st : Startup) (n : StreamId) : State :=
  s.startupWrite (st.at (.writeSession n)) none (deskAddr n Config.sessionOff) (lanesOf (s.sessionWord n))

/-- The answer state of desk `n` is read. -/
def State.startScan (s : State) (st : Startup) (n : StreamId) : State :=
  s.startupRead (st.at (.scanDesk n)) (deskAddr n Config.answerOff) 1

/-- The stream after `n`, if any. -/
def nextStream (n : StreamId) : Option StreamId := if h : n.val + 1 < 32 then some ⟨n.val + 1, h⟩ else none

/-- After desk `n` of the scan: the next desk, or the session words (R180). -/
def State.afterScan (s : State) (st : Startup) (n : StreamId) : State :=
  match nextStream n with
  | some m => s.startScan st m
  | none => s.startSession st 0

/-- After the session word of stream `n`: the next, or the end. -/
def State.afterSession (s : State) (st : Startup) (n : StreamId) : State :=
  match nextStream n with
  | some m => s.startSession st m
  | none => s.startupReady

/-! ## Note replay (R179, R182) -/

/-- The target a note image names, when it passes the checks of R182. A desk run of no bytes passes up to run offset 272: DESIGN CHOICE (log 56). -/
def State.imageTarget (s : State) (g : RawImage) : Option Target :=
  if g.kind = 6 then some .summary
  else if g.kind = 7 then
    if h : g.index < 32 then
      if g.run + g.length ≤ Config.answerEnd - Config.answerOff then some (.desk ⟨g.index, h⟩) else none
    else none
  else
    match Region.ofCode g.kind with
    | some r => if g.index < s.regionCount r then some (.record r g.index) else none
    | none => none

/-- The write of a checked image, as apply writes it (R93): its offset and lanes. A card has no guarded byte, so its image is written with no strobe
set: DESIGN CHOICE (log 62). -/
def State.replayWrite (s : State) (g : RawImage) : Target → Nat × List Lane
  | .record r i => (s.targetOff (.record r i), guardedLanes r 0 (g.bytes.take r.size))
  | .summary => (Config.summaryBase, lanesOf (g.bytes.take Config.summarySize))
  | .desk n => (deskAddr n Config.answerOff + g.run, lanesOf (g.bytes.take g.length))

/-- The desk whose answer area an image changes. -/
def Target.answerDesk : Target → Option StreamId
  | .desk n => some n
  | _ => none

/-- The note state is written CLEAR. -/
def State.startClear (s : State) (st : Startup) : State :=
  s.startupWrite (st.at .clearNote) none Config.noteBase (lanesOf [0])

/-- From image `i` on: an image that fails its checks is counted and passed over; the next that passes is written; after the last the
note is cleared. An image is checked, and counted, when all are read and its turn to be written comes: DESIGN CHOICE (log 58). -/
def State.replayFrom (s : State) (st : Startup) : Nat → List RawImage → State
  | _, [] => s.startClear st
  | i, g :: gs =>
    match s.imageTarget g with
    | some t => s.startupWrite (st.at (.writeImage i)) t.answerDesk (s.replayWrite g t).1 (s.replayWrite g t).2
    | none => s.storeFault.replayFrom st (i + 1) gs

/-- A note read or a replay write failed a second time: the note is left WRITTEN and the engine HALTED, the in-flight set holding the
targets of the images read, which every issued read has then met (R14); start-up goes on (R179). An image whose turn has not come is not
counted, though it would fail its checks: DESIGN CHOICE (log 58). -/
def State.replayHalt (s : State) (st : Startup) : State :=
  let ts := st.images.filterMap s.imageTarget
  (({ s with
      engine := { s.engine with running := false, inFlight := ts }
      path := s.path.touch ts }).sweepStop).startScan st 0

/-- The read of image `i`. -/
def State.startImage (s : State) (st : Startup) (i : Nat) : State :=
  s.startupRead (st.at (.readImage i)) (Config.noteBase + Config.imageOff i) Config.imageSize

/-! ## The setup block read whole -/

/-- The stream table as start-up loads it: every enabled stream VACANT, every other OFF (R36). -/
def State.loadSessions (s : State) : State :=
  allStreams.foldl (fun x n =>
    x.updStream n (fun t => { t with session := if x.enabled n then .vacant else .off })) s

/-- A block that passes at start-up: in force, streams loaded, today from the calendar word, ACCEPTED; then the format stamp is read
(R178). -/
def State.startupAccept (s : State) (st : Startup) (u : Setup) : State :=
  (((({ s with loader := { s.loader with inForce := some u, today := some (blockDay st.block) } }).loadSessions).setResult
    ⟨.accepted, 0⟩)).startupRead (st.at .readStamp) Config.summaryBase 8

/-- The part of the block just read: the next part, or validation. The status word gives the store-fault count. -/
def State.startupBlock (s : State) (st : Startup) (p : SetupPart) (data : List Byte) : State :=
  let st1 : Startup := { st with block := addPart st.block p data }
  let s1 := if p = .status then
      { s with loader := { s.loader with faults := blockFaults st1.block } }
    else s
  match p.following with
  | some q => s1.startupRead (st1.at (.readSetup q)) q.off q.len
  | none =>
    match validate st1.block none with
    | .error r => s1.startupUnset r
    | .ok u => s1.startupAccept st1 u

/-! ## A start-up read answered -/

/-- The lanes of the CUT answer of the desk scan: state, result and guard-hit count, keeping the entry count (R180). -/
def cutLanesOfScan : List Lane :=
  lanesOf (leBytes 1 AnswerState.fresh.code ++ leBytes 1 BatchResult.cut.code) ++ [noLane, noLane] ++
    lanesOf (leBytes 2 0)

def State.setAnswer (s : State) (n : StreamId) (a : AnswerState) : State :=
  s.updStream n (fun t => { t with answer := a })

/-- The answer state of desk `n` read by the scan (R69, R180). -/
def State.scanned (s : State) (st : Startup) (n : StreamId) (code : Nat) : State :=
  match AnswerState.ofCode code with
  | some .waiting =>
    (s.setAnswer n .fresh).startupWrite (st.at (.answerDesk n)) (some n) (deskAddr n Config.answerOff) cutLanesOfScan
  | some .working =>
    (s.setAnswer n .fresh).startupWrite (st.at (.answerDesk n)) (some n) (deskAddr n Config.answerOff) cutLanesOfScan
  | some a => (s.setAnswer n a).afterScan st n
  | none =>
    (s.setAnswer n .empty).startupWrite (st.at (.answerDesk n)) (some n) (deskAddr n Config.answerOff)
      (stateLanes .empty)

/-- The note's head read: its image count judged (R179). -/
def State.noteHead (s : State) (st : Startup) (count : Nat) : State :=
  if 1 ≤ count ∧ count ≤ 10 then s.startImage { st with count := count } 0
  else s.storeFault.startClear { st with images := [] }

/-- Image `i` read: the next, or the replay of them all. -/
def State.imageRead (s : State) (st : Startup) (i : Nat) (data : List Byte) : State :=
  let st1 : Startup := { st with images := st.images ++ [parseImage data] }
  if i + 1 < st.count then s.startImage st1 (i + 1) else s.replayFrom st1 0 st1.images

/-- A start-up read answered done. -/
def State.startupReadOk (s : State) (st : Startup) (data : List Byte) : State :=
  match st.step with
  | .readSetup p => s.startupBlock st p data
  | .readStamp =>
    if data = Config.formatStamp then s.startupRead (st.at .readNoteState) Config.noteBase 1
    else s.startupEnds .unformatted
  | .readNoteState =>
    if data = [Config.noteWritten] then s.startupRead (st.at .readNoteHead) (Config.noteBase + 1) 4
    else s.startScan st 0
  | .readNoteHead => s.noteHead st (fieldAt data 3 1)
  | .readImage i => s.imageRead st i data
  | .scanDesk n => s.scanned st n (leNat data)
  | _ => s

/-- A note read that failed is tried once more; no rule counts it (R179, R170, log 31). -/
def State.noteReadFailed (s : State) (st : Startup) (off len : Nat) : State :=
  if st.retried then s.replayHalt st else s.startupRead { st with retried := true } off len

/-- A start-up read answered error or not answered in time (R178 to R180). -/
def State.startupReadFailed (s : State) (st : Startup) : State :=
  match st.step with
  | .readSetup .status =>
    ({ s with loader := { s.loader with faults := 0 } }).startupReadFault
  | .readSetup _ => s.startupReadFault
  | .readStamp =>
    ({ s with loader := { s.loader with faults := satSucc s.loader.faults } }).startupEnds .unformatted
  | .readNoteState => s.noteReadFailed st Config.noteBase 1
  | .readNoteHead => s.noteReadFailed st (Config.noteBase + 1) 4
  | .readImage i => s.noteReadFailed st (Config.noteBase + Config.imageOff i) Config.imageSize
  | .scanDesk n => (s.storeFault.setAnswer n .empty).afterScan st n
  | _ => s

/-! ## A start-up write answered -/

/-- A replay write or the note's CLEAR write that failed is tried once more, the same request, and a second failure halts (R179). For the CLEAR
of a note that is not replayed this is a DESIGN CHOICE (log 31). -/
def State.replayFailed (s : State) (st : Startup) (q : OwnReq) : State :=
  if st.retried then s.replayHalt st
  else
    match q.body with
    | .write lanes => s.startupWrite { st with retried := true } q.tag.answerOf (q.addr - s.base) lanes
    | .read _ => s

def State.startupWritten (s : State) (st : Startup) (q : OwnReq) (ok : Bool) : State :=
  match st.step with
  | .writeImage i =>
    if ok then s.replayFrom st (i + 1) (st.images.drop (i + 1)) else s.replayFailed st q
  | .clearNote => if ok then s.startScan st 0 else s.replayFailed st q
  | .answerDesk n => (if ok then s else s.storeFault).afterScan st n
  | .writeSession n => (if ok then s else s.storeFault).afterSession st n
  | _ => s

/-- The start-up order under way. -/
def State.startupJob (s : State) : Option Startup :=
  match s.loader.job with
  | .startup st => some st
  | _ => none

end Sys2Proof.Machine
end

