-- ==== Sys2Proof/Machine/Setup.lean ====
section
/-! DEFINITION. The Setup Loader after start-up: requests, the reading of a block, apply, warm reset, the calendar (R157, R158, R170 to R173,
R177, R51, R52). -/

namespace Sys2Proof.Machine

/-! ## Part state and result together (R170) -/

/-- A change of part state and result in one event: one status write when either changes. -/
def State.setPart (s : State) (part : PartState) (r : SetupResult) : State :=
  if s.loader.part = part ∧ s.loader.result = r then s
  else ({ s with loader := { s.loader with part := part, result := r } }).raiseStatus

/-! ## Requests (R172) -/

/-- The exchange is over; the next request may begin. -/
def State.endJob (s : State) : State := (s.setJob .idle).startAtOnce

/-- A request joins the pending list, unless one of its kind is pending. -/
def State.pend (s : State) (k : RequestKind) : State :=
  if k ∈ s.loader.requests then s
  else ({ s with loader := { s.loader with requests := s.loader.requests ++ [k] } }).startAtOnce

/-- A request handed on, by part state (R172; in STARTING none is taken, log 18). -/
def State.takeRequest (s : State) (k : RequestKind) : State :=
  match s.loader.part with
  | .starting => s
  | .unset => if k = .apply then s.pend k else s
  | .unformatted => s.pend k
  | .ready => s.pend k
  | .formatting => if k = .warmReset then s.pend k else s.setResult ⟨.busy, 0⟩

/-! ## The calendar (R157, R158) -/

/-- The bytes of the calendar word a write carries. -/
def calendarCells (cells : List (Nat × Byte)) : List (Nat × Byte) :=
  cells.filter (fun c => decide (Config.calendarOff ≤ c.1) && decide (c.1 < Config.calendarOff + 8))

/-- The day of a whole write of the calendar word; none for a write that covers it only in part. -/
def calendarDay (cells : List (Nat × Byte)) : Option Nat :=
  if (calendarCells cells).length = 8 then some (leNat (((calendarCells cells).take 2).map Prod.snd)) else none

/-- The own write of the calendar word, carrying today. -/
def State.rewriteCalendar (s : State) : State :=
  s.raiseWrite .calendar Config.calendarOff (encodeCalendar (s.loader.today.getD 0))

/-- The calendar is kept in these part states. -/
def State.keepsCalendar (s : State) : Bool :=
  decide (s.loader.part = .ready ∨ s.loader.part = .unformatted ∨ s.loader.part = .formatting)

/-- A calendar write handed on: today moves forward, stands, or the write is refused; then the word is rewritten, a refusal writes the
status word, and in READY a forward move begins a pass. -/
def State.calendarTake (s : State) (cells : List (Nat × Byte)) : State :=
  if s.keepsCalendar then
    let today := s.loader.today.getD 0
    match calendarDay cells with
    | none => s.rewriteCalendar
    | some d =>
      if today < d then
        let s1 := ({ s with loader := { s.loader with today := some d } }).rewriteCalendar
        if s.loader.part = .ready then s1.beginPass d else s1
      else if d < today then
        ({ s.rewriteCalendar with
          loader := { s.loader with result := ⟨.calendarBackward, 0⟩ } }).raiseStatus
      else s.rewriteCalendar
  else s

/-! ## Hand-off of a write answered done (R12) -/

/-- The Setup Loader takes the observed words a write covers, in ascending address order. -/
def State.setupHandOn (s : State) (r : Request) : State :=
  let s1 := if s.coversWord Config.calendarOff r then s.calendarTake (s.cells r) else s
  let s2 := if s.coversWord Config.applyOff r then s1.takeRequest .apply else s1
  let s3 := if s.coversWord Config.formatOff r then s2.takeRequest .format else s2
  if s.coversWord Config.warmOff r then s3.takeRequest .warmReset else s3

def State.handOn (s : State) (u : UpReq) : State := (s.deskHandOn u).setupHandOn u.req

/-! ## The reading of the block (R173) -/

/-- The region table a change of which is refused: an apply in READY (R171 step 6). -/
def State.fixedRegions (s : State) (k : RequestKind) : Option RegionTable :=
  if k = .apply ∧ s.loader.part = .ready then s.regions else none

/-- A content read: the next, or validation. -/
def State.partRead (s : State) (k : RequestKind) (p : SetupPart) (block : Memory) (data : List Byte) : State :=
  match p.following with
  | some q => s.readPart k q (addPart block p data)
  | none =>
    match validate (addPart block p data) (s.fixedRegions k) with
    | .error r => (s.setResult r).endJob
    | .ok u => s.setJob (.validated k u)

/-- A setup read answered error, or not answered in time. -/
def State.partFailed (s : State) : State := (s.storeFault.setResult ⟨.readFault, 0⟩).endJob

/-! ## Apply (R51, R173) -/

/-- The current batch is to be ended at this boundary (R95). A warm reset decides the header's guard-hit count (log 35). -/
def State.cutCurrent (s : State) (c : CutCause) : State :=
  { s with engine := { s.engine with
      batch := s.engine.batch.map (fun b => { b with cut := if b.cut = some .warmReset then b.cut else some c }) } }

/-- A stream's batch is cut: discarded and answered CUT, or ended by an end unit (R51, R70, R95). -/
def State.cutStream (s : State) (n : StreamId) (c : CutCause) : State :=
  match (s.stream n).batch with
  | .idle => s
  | .collecting => (s.endBatch n).answerFresh n .cut 0
  | .queued => ((s.leaveQueue n).endBatch n).answerFresh n .cut 0
  | .settling => s.cutCurrent c

/-- A session under a new stream-table entry (R51). -/
def Stream.reload (t : Stream) (enabled : Bool) : Stream :=
  if enabled then (if t.session = .off then { t with session := .vacant, checkFails := 0 } else t)
  else { t with session := .off, checkFails := 0 }

/-- Stream `n` under the table now in force (R51); `old` is the state before the apply. The session word is rewritten when its bytes change (R39).
So an entry that stays OFF and whose stream-table grade alone changes has its word left as it is, the grade field reading OFF before and after:
DESIGN CHOICE (log 60). -/
def State.loadStream (old s : State) (n : StreamId) : State :=
  let s1 := s.updStream n (fun t => t.reload (s.enabled n))
  let s2 := if s1.sessionWord n = old.sessionWord n then s1 else s1.raiseSession n
  if (old.stream n).session ≠ .off ∧ !s.enabled n then s2.cutStream n .disabled else s2

/-- The tables of a block take effect, in one event: regions, streams, classes, limits. -/
def State.loadTables (s : State) (u : Setup) : State :=
  (allStreams.foldl (fun x n => s.loadStream x n) { s with loader := { s.loader with inForce := some u } }).expireDue

/-- An accepted apply. In UNSET the part returns to STARTING and reads the block again, keeping the count (R173, R178, log 18). -/
def State.applyAccepted (s : State) (u : Setup) : State :=
  if s.loader.part = .unset then
    (s.setPart .starting s.loader.result).startupRead (Startup.start.at (.readSetup .regions))
      SetupPart.regions.off SetupPart.regions.len
  else ((s.loadTables u).setResult ⟨.accepted, 0⟩).endJob

/-! ## Warm reset (R52, R70, R177) -/

/-- A warm reset may be carried out: first in the list, nothing under way, UNFORMATTED or at a boundary in READY. -/
def State.warmDue (s : State) : Bool :=
  !s.inReset && decide (s.loader.requests.head? = some .warmReset) && decide (s.loader.job = .idle) &&
    (decide (s.loader.part = .unformatted) ||
      (decide (s.loader.part = .ready) && s.engine.running && s.engine.unit.isNone))

/-- Stream `n` at a warm reset: VACANT when enabled, count, claim, watches, timers and guard-hit count cleared, its session word
rewritten, its batch cut. -/
def State.warmStream (s : State) (n : StreamId) : State :=
  ((s.updStream n (fun t =>
    { t with
      session := if t.session = .off then .off else .vacant
      checkFails := 0
      guardHits := 0 })).raiseSession n).cutStream n .warmReset

def State.warmResetNow (s : State) : State :=
  (allStreams.foldl State.warmStream
    { s with loader := { s.loader with requests := s.loader.requests.tail } }).startAtOnce

end Sys2Proof.Machine
end

