-- ==== Sys2Proof/Machine/Format.lean ====
section
/-! DEFINITION. Format: acceptance, its writes in their order, and its end (R35, R174 to R176). -/

namespace Sys2Proof.Machine

/-! ## The writes, in order (R175) -/

/-- The region after another in the order of R175. -/
def Region.following : Region → Option Region
  | .patrons => some .cards
  | .cards => some .titles
  | .titles => some .items
  | .items => some .holds
  | .holds => none

/-- The place after another; none after the stamp. -/
def State.formatNext (s : State) : FormatStep → Option FormatStep
  | .stampZero => some .note
  | .note => some (.desk 0)
  | .desk n =>
    match nextStream n with
    | some m => some (.desk m)
    | none => some (.record .patrons 0)
  | .record r k =>
    if k + 1 < s.regionCount r then some (.record r (k + 1))
    else
      match r.following with
      | some q => some (.record q 0)
      | none => some .summaryRest
  | .summaryRest => some .summaryFields
  | .summaryFields => some .stamp
  | .stamp => none

/-- What format writes at a place: offset and bytes (log 21, 40). -/
def State.formatBytes (s : State) (day : Nat) : FormatStep → Nat × List Byte
  | .stampZero => (Config.summaryBase, zeros 8)
  | .note => (Config.noteBase, zeros Config.pageSize)
  | .desk n => (deskAddr n 0, zeros Config.sessionOff ++ s.sessionWord n)
  | .record r k => (s.targetOff (.record r k), emptyRecord r k (s.regionCount r))
  | .summaryRest =>
    (Config.summaryBase + Config.summarySize, zeros (Config.summaryAreaSize - Config.summarySize))
  | .summaryFields => (Config.summaryBase + 8, (encodeSummary (emptySummary (s.regionCount .holds) day)).drop 8)
  | .stamp => (Config.summaryBase, Config.formatStamp)

/-- The write of a place is raised. -/
def State.formatWrite (s : State) (f : Formatting) : State :=
  (s.setJob (.formatting f)).raiseWrite .format (s.formatBytes f.day f.step).1 (s.formatBytes f.day f.step).2

/-- An own request among those raised, in the order they were raised (R18). -/
def insertRaised (q : OwnReq) : List OwnReq → List OwnReq
  | [] => [q]
  | r :: rs => if q.serial < r.serial then q :: r :: rs else r :: insertRaised q rs

/-- The answer writes no longer to be held go on, each at its place among the requests raised (R18, R175). -/
def State.releaseAnswers (s : State) : State :=
  let goes (q : OwnReq) : Bool := !(q.tag.answerOf.any s.holdsAnswer)
  ({ s with path := { s.path with
      raised := (s.path.formatHeld.filter goes).foldl (fun l q => insertRaised q l) s.path.raised
      formatHeld := s.path.formatHeld.filter (fun q => !goes q) } }).refillOwn

/-! ## Acceptance (R174) -/

/-- Format may be accepted: UNFORMATTED; or READY with no stream CLAIMED, the Commit Queue empty and no current batch. -/
def State.formatAllowed (s : State) : Bool :=
  decide (s.loader.part = .unformatted) ||
    (decide (s.loader.part = .ready) && allStreams.all (fun n => !(s.stream n).session.isClaimed) &&
      s.queue.isEmpty && s.engine.batch.isNone)

/-- Every COLLECTING batch is discarded without an answer (R70). -/
def State.discardCollecting (s : State) : State :=
  allStreams.foldl (fun x n => if (x.stream n).batch = .collecting then x.endBatch n else x) s

/-- Every on-chip answer state becomes EMPTY (R70). -/
def State.emptyAnswers (s : State) : State := allStreams.foldl (fun x n => x.setAnswer n .empty) s

/-- The sweep at the acceptance of a format (R168). Its pass target and position stand as they were: DESIGN CHOICE (log 54), and a
read raised and not yet issued is not taken back: DESIGN CHOICE (log 59). -/
def Sweep.formatted (x : Sweep) (today : Nat) : Sweep :=
  { x with phase := .idle, offer := none, reading := none, skipped := 0, sweptThrough := today }

/-- A format accepted: the new setup takes effect, the part is FORMATTING, and the first write is raised (log 22). -/
def State.formatAccepted (s : State) (u : Setup) : State :=
  let today := s.loader.today.getD 0
  let s1 := (s.discardCollecting.loadTables u).emptyAnswers
  (({ s1 with sweep := s1.sweep.formatted today }).setPart .formatting ⟨.accepted, 0⟩).formatWrite
    ⟨.stampZero, false, today⟩

/-! ## A format write answered (R175, R176) -/

/-- The last write is answered done: READY, and a pass when today has moved on. -/
def State.formatDone (s : State) : State :=
  let s1 := (s.setJob .idle).releaseAnswers.setPart .ready s.loader.result
  if s1.sweep.sweptThrough < s1.loader.today.getD 0 then s1.beginPass (s1.loader.today.getD 0) else s1

/-- A second error on a write ends format: UNFORMATTED, FORMAT_FAULT. Answer writes still held for a desk that format did not reach go on:
DESIGN CHOICE (log 55). -/
def State.formatFails (s : State) : State :=
  ((s.setJob .idle).releaseAnswers.setPart .unformatted ⟨.formatFault, 0⟩).endJob

/-- Memory after a format write was answered. A failed write of the stamp leaves it zero; the write that zeroes the stamp has landed when it fails
a second time; of any other a first part may have landed: so the stamp is zero at a FORMAT_FAULT (R175, log 50). -/
def State.landFormat (s : State) (f : Formatting) (q : OwnReq) (a : Answer) : State :=
  match f.step with
  | .stamp => s.landOwnWhole q a
  | .stampZero => s.landOwn q (if f.retried then .done else a)
  | _ => s.landOwn q a

def State.formatWritten (s : State) (f : Formatting) (ok : Bool) : State :=
  if ok then
    match s.formatNext f.step with
    | some p => (s.setJob (.formatting { f with step := p, retried := false })).releaseAnswers.formatWrite
        { f with step := p, retried := false }
    | none => s.formatDone
  else if f.retried then s.storeFault.formatFails
  else s.storeFault.formatWrite { f with retried := true }

end Sys2Proof.Machine
end

