-- ==== Sys2Proof/Machine/Power.lean ====
section
/-! DEFINITION. Commands of the reset pin and of the start-up order: COLD_RESET, COLD_RESET_RELEASE, STARTUP_READ_DONE, STARTUP_WRITE_DONE,
STARTUP_READ_TIMEOUT. A command whose event cannot arise as the state stands leaves the state as it is (log 3). -/

namespace Sys2Proof.Machine

/-- The part is held in reset, or acts. -/
def State.live (s : State) (f : State → State) : State := if s.inReset then s else f s

/-- A downstream write in flight: where it goes and what it carries. -/
def writesInFlight (p : Path) : List (Nat × List Lane) :=
  (p.upIssued.filter (fun i => i.up.req.write)).map (fun i => (i.up.req.start, i.up.req.lanes)) ++
    p.ownIssued.filterMap (fun i =>
      match i.req.body with
      | .write lanes => some (i.req.addr, lanes)
      | .read _ => none)

/-- Memory after writes in flight were cut off, each with its first bytes landed (log 7). -/
def landCut (m : Memory) : List (Nat × List Lane) → List Nat → Memory
  | [], _ => m
  | w :: ws, [] => landCut (m.writeLanes w.1 (cutLanes 0 w.2)) ws []
  | w :: ws, k :: ks => landCut (m.writeLanes w.1 (cutLanes k w.2)) ws ks

/-- What a cold reset keeps: memory, the sampled base until the release, the model's own records and its queue. -/
def State.afterReset (s : State) (mem : Memory) : State :=
  { State.reset with
    base := s.base
    mem := mem
    path := { Path.reset with returned := s.path.returned }
    serial := s.serial
    pending := s.pending }

/-- COLD_RESET (R20): every request in flight ends without a response, and all on-chip state is lost. -/
def execColdReset (landed : List Nat) (s : State) : Host.Outcome State Fault Refusal :=
  .next (s.afterReset (landCut s.mem (writesInFlight s.path) landed))

/-- The release: the pins are sampled and the status word is read first (R1, R178). -/
def State.release (s : State) (apsel : Fin 16) : State :=
  ({ s.afterReset s.mem with inReset := false, base := apsel.val * Config.apertureSize }).startupRead
    Startup.start SetupPart.status.off SetupPart.status.len

/-- COLD_RESET_RELEASE (R178, R1). -/
def execColdResetRelease (apsel : Fin 16) (s : State) : Host.Outcome State Fault Refusal :=
  .next (if s.inReset then s.release apsel else s)

/-- A start-up read answered: its data, or its failure. -/
def State.startupReadAnswered (s : State) (data : IssuedOwn → Option (List Byte)) : State :=
  match s.pullOwn (fun q => decide (q.tag = .startupRead)), s.startupJob with
  | some i, some st =>
    let s1 := s.dropOwn i.req.serial
    match data i with
    | some d => s1.startupReadOk st d
    | none => s1.startupReadFailed st
  | _, _ => s

/-- STARTUP_READ_DONE (R178 to R180). -/
def execStartupReadDone (a : Answer) (s : State) : Host.Outcome State Fault Refusal :=
  .next (s.live (fun s => s.startupReadAnswered (fun i => s.ownData i a)))

/-- STARTUP_READ_TIMEOUT (R178): the read fails; a response after the limit is discarded (log 10). -/
def execStartupReadTimeout (s : State) : Host.Outcome State Fault Refusal :=
  .next (s.live (fun s => s.startupReadAnswered (fun _ => none)))

/-- The start-up writes: replay images, CLEAR, scan answers, session words, the status word. -/
def isStartupWrite : OwnTag → Bool
  | .startupWrite _ => true
  | .startupStatus => true
  | _ => false

/-- Memory after a start-up write was answered: of a replay image a first part may have landed (log 6); a failed CLEAR, scan answer or session
word leaves memory as it was (R39, R65, R179). -/
def State.landStartup (s : State) (st : Startup) (q : OwnReq) (a : Answer) : State :=
  match st.step with
  | .writeImage _ => s.landOwn q a
  | _ => s.landOwnWhole q a

/-- A start-up write answered; the status word's leads to nothing more, and its error is not counted (R170). -/
def State.startupWriteAnswered (s : State) (a : Answer) : State :=
  match s.pullOwn (fun q => isStartupWrite q.tag) with
  | none => s
  | some i =>
    if i.req.tag = .startupStatus then (s.landOwnWhole i.req a).dropOwn i.req.serial
    else
      match s.startupJob with
      | some st => ((s.landStartup st i.req a).dropOwn i.req.serial).startupWritten st i.req (answeredDone a)
      | none => s

/-- STARTUP_WRITE_DONE (R179, R180). -/
def execStartupWriteDone (a : Answer) (s : State) : Host.Outcome State Fault Refusal :=
  .next (s.live (fun s => s.startupWriteAnswered a))

end Sys2Proof.Machine
end

