-- ==== Sys2Proof/Machine/PathTraffic.lean ====
section
/-! DEFINITION. Commands of the inline path: UPSTREAM_REQUEST, ARBITER_GRANT, PASS_THROUGH_RESPONSE, APERTURE_WRITE_RESPONSE,
READ_DATA_ARRIVAL, ANSWER_STATE_READ. -/

namespace Sys2Proof.Machine

/-! ## Requests in -/

/-- A request taken at the upstream port (R4, R6). A crossing burst is answered at once, also behind an unanswered close or cancel of its
stream: DESIGN CHOICE (log 53). -/
def State.takeUpstream (s : State) (r : Request) : State :=
  let s1 := s.enter r
  if r.crosses then s1.complete s.serial ⟨false, errorData s.serial r⟩
  else if s1.inAperture r && decide (s1.loader.part = .starting) then s1.holdStartup ⟨s.serial, r⟩
  else s1.admitReq ⟨s.serial, r⟩

/-- UPSTREAM_REQUEST (R4). A request the port does not accept now leaves the state as it is (log 11). -/
def execUpstreamRequest (r : Request) (s : State) : Host.Outcome State Fault Refusal :=
  .next (if s.accepts r then s.takeUpstream r else s)

/-- The port takes a request (R17). -/
def State.grant (s : State) : State :=
  match s.path.upSlot, s.path.ownSlot with
  | some u, some q => if s.path.lastGranted = .own then s.issueUp u else s.issueOwn q
  | some u, none => s.issueUp u
  | none, some q => s.issueOwn q
  | none, none => s

/-- ARBITER_GRANT (R17): the request issued leaves its slot, and each slot may take its next. -/
def execArbiterGrant (s : State) : Host.Outcome State Fault Refusal :=
  .next (s.live (fun s => s.grant.refillOwn.drain))

/-! ## Responses back -/

/-- The response of a pass-through request, returned as received (R5). -/
def State.passBack (s : State) (i : IssuedUp) (a : Answer) : State :=
  let r := i.up.req
  if r.write then
    (({ s with mem := s.mem.land r.start r.lanes a }).complete i.up.tag ⟨answeredDone a, []⟩).drain
  else
    match readData s.mem r.start (8 * r.words) i.snapshot a with
    | some d => (s.complete i.up.tag ⟨true, d⟩).drain
    | none => (s.complete i.up.tag ⟨false, errorData i.up.tag r⟩).drain

/-- An issued upstream request answered, if it is one of those a command is about. -/
def State.upAnswered (s : State) (tag : Nat) (about : Request → Bool) (f : State → IssuedUp → State) : State :=
  match s.findUp tag with
  | some i => if about i.up.req then f (s.dropUp tag) i else s
  | none => s

/-- PASS_THROUGH_RESPONSE (R5). -/
def execPassThroughResponse (tag : Nat) (a : Answer) (s : State) : Host.Outcome State Fault Refusal :=
  .next (s.live (fun s => s.upAnswered tag (fun r => !s.inAperture r) (fun t i => t.passBack i a)))

/-- The write covers a part some block observes (R12). -/
def State.observed (s : State) (r : Request) : Bool :=
  s.coversSlots r || s.coversClose r || s.coversCancel r || s.coversWord Config.calendarOff r ||
    s.coversWord Config.applyOff r || s.coversWord Config.formatOff r || s.coversWord Config.warmOff r

/-- The response goes upstream, unless it waits for own writes (R19, R49). -/
def State.respond (s : State) (tag : Nat) : State :=
  if s.ownWaiting.any (fun q => decide (q.holds = some tag)) then s else (s.complete tag ⟨true, []⟩).drain

/-- An aperture write answered: done, it reaches memory, is handed on (R12) and is answered done; answered error, it is handed to no
block and answered error (R10, R12). -/
def State.writeBack (s : State) (i : IssuedUp) (a : Answer) : State :=
  let s1 := { s with mem := s.mem.land i.up.req.start i.up.req.lanes a }
  if answeredDone a then (s1.handOn i.up).respond i.up.tag else (s1.complete i.up.tag ⟨false, []⟩).drain

/-- An aperture write of a kind answered. -/
def State.writeAnswered (s : State) (tag : Nat) (a : Answer) (about : State → Request → Bool) : State :=
  s.upAnswered tag (fun r => s.inAperture r && r.write && about s r) (fun t i => t.writeBack i a)

/-- APERTURE_WRITE_RESPONSE (R10): a write to a part with no observed behaviour. -/
def execApertureWriteResponse (tag : Nat) (a : Answer) (s : State) : Host.Outcome State Fault Refusal :=
  .next (s.live (fun s => s.writeAnswered tag a (fun s r => !s.observed r)))

/-- READ_DATA_ARRIVAL (R13): an aperture read that does not cover its stream's answer-state word. -/
def execReadDataArrival (tag : Nat) (a : Answer) (s : State) : Host.Outcome State Fault Refusal :=
  .next (s.live (fun s =>
    s.upAnswered tag (fun r => s.inAperture r && !r.write && !s.coversAnswerState r) (fun t i => t.readArrives i a)))

/-- ANSWER_STATE_READ (R67): an owner's read of its answer-state word, handed to Desk Capture as its data arrives (R12). -/
def execAnswerStateRead (tag : Nat) (a : Answer) (s : State) : Host.Outcome State Fault Refusal :=
  .next (s.live (fun s =>
    s.upAnswered tag (fun r => s.inAperture r && !r.write && s.coversAnswerState r)
      (fun t i => (t.answerRead i a).readArrives i a)))

end Sys2Proof.Machine
end

