-- ==== Sys2Proof/Machine/DeskTraffic.lean ====
section
/-! DEFINITION. Commands of the desks and of own writes: ENTRY_SLOT_WRITE, CLOSE, CANCEL, ANSWER_WRITE_RESPONSE, OWN_WRITE_RESPONSE,
IDLE_EXPIRY, COLLECT_TIMER_EXPIRY. A write that covers several observed parts is handed on whole by the first command that answers it
(log 43). -/

namespace Sys2Proof.Machine

/-- ENTRY_SLOT_WRITE (R54). -/
def execEntrySlotWrite (tag : Nat) (a : Answer) (s : State) : Host.Outcome State Fault Refusal :=
  .next (s.live (fun s => s.writeAnswered tag a State.coversSlots))

/-- CLOSE (R57). -/
def execCloseWord (tag : Nat) (a : Answer) (s : State) : Host.Outcome State Fault Refusal :=
  .next (s.live (fun s => s.writeAnswered tag a State.coversClose))

/-- CANCEL (R61). -/
def execCancelWord (tag : Nat) (a : Answer) (s : State) : Host.Outcome State Fault Refusal :=
  .next (s.live (fun s => s.writeAnswered tag a State.coversCancel))

/-- An own write of the desks or the setup words answered: an error leaves memory as it was and is counted, but for the status word
(R39, R65, R85, R98, R158, R170). -/
def State.ownWriteAnswered (s : State) (i : IssuedOwn) (a : Answer) (failsResponse : Bool) : State :=
  let s1 := (s.landOwnWhole i.req a).dropOwn i.req.serial
  let s2 := if answeredDone a || decide (i.req.tag = .status) then s1 else s1.storeFault
  s2.releaseHeld i.req.holds (failsResponse && !answeredDone a)

/-- ANSWER_WRITE_RESPONSE (R19): the answer write a close or cancel of stream `n` waits for. -/
def execAnswerWriteResponse (n : StreamId) (a : Answer) (s : State) : Host.Outcome State Fault Refusal :=
  .next (s.live (fun s =>
    match s.pullOwn (fun q => decide (q.tag = .answer n) && q.holds.isSome) with
    | some i => s.ownWriteAnswered i a true
    | none => s))

/-- The own writes OWN_WRITE_RESPONSE answers: session words, answers no response waits for, WORKING, SEEN, halt answers, the status word
and the calendar. -/
def routineWrite (q : OwnReq) : Bool :=
  match q.tag with
  | .sessionWord _ => true
  | .answer _ => q.holds.isNone
  | .working _ => true
  | .seen _ => true
  | .haltAnswer _ => true
  | .status => true
  | .calendar => true
  | _ => false

/-- OWN_WRITE_RESPONSE (R18). -/
def execOwnWriteResponse (tag : Nat) (a : Answer) (s : State) : Host.Outcome State Fault Refusal :=
  .next (s.live (fun s =>
    match s.pullOwn (fun q => decide (q.serial = tag) && routineWrite q) with
    | some i => s.ownWriteAnswered i a false
    | none => s))

/-- IDLE_EXPIRY (R47). -/
def execIdleExpiry (n : StreamId) (s : State) : Host.Outcome State Fault Refusal :=
  .next (s.live (fun s => if s.idleDue n then s.idleExpire n else s))

/-- COLLECT_TIMER_EXPIRY (R56). -/
def execCollectTimerExpiry (n : StreamId) (s : State) : Host.Outcome State Fault Refusal :=
  .next (s.live (fun s => if s.collectDue n then s.collectExpire n else s))

end Sys2Proof.Machine
end

