-- ==== Sys2Proof/Machine/Units.lean ====
section
/-! DEFINITION. Commands of every unit: UNIT_BOUNDARY, GATHER_READ_RESPONSE, GATHER_READ_TIMEOUT, NOTE_WRITE_DONE, APPLY_WRITE_DONE,
UNIT_END. -/

namespace Sys2Proof.Machine

/-! ## The choice at a boundary (R84, R85, R87) -/

/-- The Commit Queue head becomes the current batch: SETTLING, WORKING on chip and by an own write (R85). -/
def State.takeBatch (s : State) : State :=
  match s.queue with
  | [] => s
  | n :: q =>
    ((({ s with
        queue := q
        engine := { s.engine with batch := some ⟨n, 0, false, .none, [], none⟩ } }).updStream n
      (fun t => { t with batch := .settling, answer := .working }))).raise (.working n)
        (deskAddr n Config.answerOff) (.write (stateLanes .working))

/-- A unit that gathers nothing stands at its decide. -/
def State.decideUnit (s : State) (kind : UnitKind) (b : CurrentBatch) (code : Nat) : State :=
  s.setUnit (s.newUnit kind (some b.stream) (some b.next) code .decide)

/-- An entry whose prefix fails is answered without a gather (R88, R89, log 25). -/
def State.refuseEntry (s : State) (b : CurrentBatch) (c : OutcomeCode) : State :=
  match s.loader.inForce with
  | some setup =>
    s.conclude (s.newUnit .refusal (some b.stream) (some b.next) (s.entryOf b.stream b.next).kind .decide) b
      (Work.start setup []) (plain c) .none
  | none => s

/-- The boundary before an entry: cancel, after-done, prefix (R87, R89). -/
def State.beginEntry (s : State) (b : CurrentBatch) : State :=
  let e := s.entryOf b.stream b.next
  if (s.stream b.stream).cancelAsked then s.decideUnit .endBatch b codeEnd
  else if 0 < b.next ∧ e.afterDone ∧ !b.prevDone then s.decideUnit .skip b codeSkip
  else
    match s.commonChecks b.stream e with
    | .ok k => s.beginUnit (.entry k) (some b.stream) (some b.next) k.code
    | .error c => s.refuseEntry b c

/-- The next unit of the current batch (R86). -/
def State.batchUnit (s : State) (b : CurrentBatch) : State :=
  match b.sub with
  | .none => s.beginEntry b
  | .claim _ _ => s.beginUnit .freshenSub (some b.stream) (some b.next) codeFreshenSub
  | .renew r =>
    if r.remaining.isEmpty then s.decideUnit .closing b codeClosing
    else s.beginUnit .renewalSub (some b.stream) (some b.next) codeRenewalSub

def State.setTurn (s : State) (t : Turn) : State := { s with engine := { s.engine with lastTurn := t } }

/-- A batch turn: the current batch, or the one at the head of the queue. -/
def State.batchTurn (s : State) : State :=
  let s1 := s.setTurn .batch
  let s2 := if s1.engine.batch.isSome then s1 else s1.takeBatch
  match s2.engine.batch with
  | some b => s2.batchUnit b
  | none => s2

/-- The unit kind an offered unit begins with (section 12.3); which of its two an item unit is, its decide finds (R164, log 24). -/
def Offer.code : Offer → Nat
  | .item _ => codeSweepFreshen
  | .resume _ => codeSweepResume
  | .progress _ => codeSweepProgress

/-- A sweep turn: the unit the Day Sweep offers. -/
def State.sweepTurn (s : State) : State :=
  match s.sweep.offer with
  | some o => (s.setTurn .sweep).beginUnit (.sweep o) none none o.code
  | none => s

def State.batchWork (s : State) : Bool := s.engine.batch.isSome || !s.queue.isEmpty

/-- The choice between batch and sweep: opposite to the last turn when both have work. -/
def State.chooseUnit (s : State) : State :=
  if s.batchWork && s.sweep.offer.isSome then
    (if s.engine.lastTurn = .batch then s.sweepTurn else s.batchTurn)
  else if s.batchWork then s.batchTurn
  else s.sweepTurn

/-- The engine stands at a boundary where it may begin units: READY, RUNNING, no unit. -/
def State.atBoundary (s : State) : Bool :=
  !s.inReset && decide (s.loader.part = .ready) && s.engine.running && s.engine.unit.isNone

/-- The current batch is to be cut at this boundary (R95). -/
def State.cutBatch (s : State) : Option CurrentBatch :=
  match s.engine.batch with
  | some b => if b.cut.isSome then some b else none
  | none => none

/-- A boundary: the exchange under way, then the pending requests, each whole (R172); then the end unit of a batch that is cut (R95); then the
choice. -/
def State.boundary (s : State) : State :=
  if s.loader.job ≠ .idle then s
  else if !s.loader.requests.isEmpty then s.startRequest
  else
    match s.cutBatch with
    | some b => (s.setTurn .batch).decideUnit .endBatch b codeEnd
    | none => s.chooseUnit

/-- UNIT_BOUNDARY (R84). -/
def execUnitBoundary (s : State) : Host.Outcome State Fault Refusal :=
  .next (if s.atBoundary then s.boundary else s)

/-! ## Gather (R88, R96) -/

/-- The unit under way in a phase, with the setup. -/
def State.unitIn (s : State) (p : Phase) : Option (WorkUnit × Setup) :=
  match s.engine.unit, s.loader.inForce with
  | some u, some setup =>
    if !s.inReset && s.engine.running && decide (u.phase = p) then some (u, setup) else none
  | _, _ => none

/-- The target of a gather read. -/
def OwnTag.gatherTarget : OwnTag → Option Target
  | .gather t => some t
  | _ => none

/-- A gather read answered: its data, or its failure. -/
def State.gatherAnswered (s : State) (data : IssuedOwn → Option (List Byte)) : State :=
  match s.pullOwn (fun q => q.tag.gatherTarget.isSome), s.unitIn .gather with
  | some i, some (u, setup) =>
    match i.req.tag.gatherTarget with
    | some t =>
      (match data i with
        | some d => (s.dropOwn i.req.serial).gatherStep setup { u with gathered := u.gathered ++ [(t, d)] }
        | none => (s.dropOwn i.req.serial).abandon u t)
    | none => s
  | _, _ => s

/-- GATHER_READ_RESPONSE (R88). -/
def execGatherReadResponse (a : Answer) (s : State) : Host.Outcome State Fault Refusal :=
  .next (s.live (fun s => s.gatherAnswered (fun i => s.ownData i a)))

/-- GATHER_READ_TIMEOUT (R96): a response after the limit is discarded (log 10). -/
def execGatherReadTimeout (s : State) : Host.Outcome State Fault Refusal :=
  .next (s.live (fun s => s.gatherAnswered (fun _ => none)))

/-! ## Note, apply, clear (R92, R93, R97) -/

/-- A write of the current unit answered, in its phase. -/
def State.unitWriteAnswered (s : State) (p : Phase) (a : Answer) (want : OwnTag → Bool)
    (done : State → WorkUnit → State) : State :=
  match s.pullOwn (fun q => want q.tag), s.unitIn p with
  | some i, some (u, _) =>
    let s1 := (s.landOwn i.req a).dropOwn i.req.serial
    if answeredDone a then done s1 u
    else s1.writeError u (decide (i.req.tag = .note ∨ i.req.tag = .written))
  | _, _ => s

/-- NOTE_WRITE_DONE (R92). -/
def execNoteWriteDone (a : Answer) (s : State) : Host.Outcome State Fault Refusal :=
  .next (s.unitWriteAnswered .note a (fun t => decide (t = .note)) State.raiseNext)

/-- The apply writes. -/
def isApplyTag : OwnTag → Bool
  | .image _ => true
  | _ => false

/-- The WRITTEN write answered, in the note phase, or an apply write: apply begins as WRITTEN is answered done (R92). -/
def State.applyWriteAnswered (s : State) (a : Answer) : State :=
  match s.engine.unit.map WorkUnit.phase with
  | some .note => s.unitWriteAnswered .note a (fun t => decide (t = .written)) State.writeImages
  | _ => s.unitWriteAnswered .apply a isApplyTag State.raiseNext

/-- APPLY_WRITE_DONE (R93). -/
def execApplyWriteDone (a : Answer) (s : State) : Host.Outcome State Fault Refusal :=
  .next (s.applyWriteAnswered a)

/-- UNIT_END (R93). -/
def execUnitEnd (a : Answer) (s : State) : Host.Outcome State Fault Refusal :=
  .next (s.unitWriteAnswered .clear a (fun t => decide (t = .clear)) State.endUnit)

end Sys2Proof.Machine
end

