-- ==== Sys2Proof/Machine/Entries.lean ====
section
/-! DEFINITION. The decides of the fourteen entry kinds and of the other batch units: one command each. -/

namespace Sys2Proof.Machine

/-! ## Kinds that act on the Session Table (R40) -/

/-- CLAIM's decide: the checks on the card, then the claim request (R41, R42). -/
def State.decideClaim (s : State) : State :=
  match s.deciding (.entry .claim) with
  | none => s
  | some (u, b, setup) =>
    let w := Work.start setup u.gathered
    match claimJudge (s.ctx setup u) w with
    | .error c => s.conclude u b w (plain c) .none
    | .ok p =>
      let r := s.claimRequest b.stream p
      let loans := (w.patron p).loans
      if r.2 then
        r.1.conclude u b w ⟨.done, p, (w.patron p).balance⟩ (if loans.isEmpty then .none else .claim p loans)
      else r.1.conclude u b w (plain .inUse) .none

/-- CLAIM (R41). -/
def execClaim (s : State) : Host.Outcome State Fault Refusal := .next s.decideClaim

/-- RELEASE's decide: the release request (R45). -/
def State.decideRelease (s : State) : State :=
  match s.deciding (.entry .release) with
  | none => s
  | some (u, b, setup) =>
    (s.makeVacant b.stream).conclude u b (Work.start setup u.gathered)
      ⟨.done, ((s.stream b.stream).session.patron).getD 0, 0⟩ .none

/-- RELEASE (R45). -/
def execRelease (s : State) : Host.Outcome State Fault Refusal := .next s.decideRelease

/-- The reopen of stream `n` asked by stream `m`: the outcome (R50). -/
def State.reopenOutcome (s : State) (m : StreamId) (n : Nat) : Outcome :=
  if h : n < 32 then
    if n = m.val then plain .badStream
    else if (s.stream ⟨n, h⟩).session = .barred then ⟨.done, n, (s.stream ⟨n, h⟩).checkFails⟩
    else plain .notBarred
  else plain .badStream

/-- STREAM_REOPEN's decide: the reopen request (R50). -/
def State.decideReopen (s : State) : State :=
  match s.deciding (.entry .streamReopen) with
  | none => s
  | some (u, b, setup) =>
    let n := (s.unitEntry u).target
    let o := s.reopenOutcome b.stream n
    let s1 := if h : n < 32 then (if o.code = .done then s.reopen ⟨n, h⟩ else s) else s
    s1.conclude u b (Work.start setup u.gathered) o .none

/-- STREAM_REOPEN (R50). -/
def execStreamReopen (s : State) : Host.Outcome State Fault Refusal := .next s.decideReopen

/-! ## Kinds that act on the store -/

/-- LEND (R107). -/
def execLend (s : State) : Host.Outcome State Fault Refusal := .next (s.decideEntry .lend decideLend)

/-- RETURN (R111). -/
def execReturnItem (s : State) : Host.Outcome State Fault Refusal := .next (s.decideEntry .returnItem decideReturn)

/-- RENEW (R113). -/
def execRenew (s : State) : Host.Outcome State Fault Refusal := .next (s.decideEntry .renew decideRenew)

/-- HOLD_PLACE (R133). -/
def execHoldPlace (s : State) : Host.Outcome State Fault Refusal := .next (s.decideEntry .holdPlace decideHoldPlace)

/-- HOLD_CANCEL (R136). -/
def execHoldCancel (s : State) : Host.Outcome State Fault Refusal :=
  .next (s.decideEntry .holdCancel decideHoldCancel)

/-- HOLD_PAUSE (R138). -/
def execHoldPause (s : State) : Host.Outcome State Fault Refusal := .next (s.decideEntry .holdPause decideHoldPause)

/-- PAY (R148). -/
def execPay (s : State) : Host.Outcome State Fault Refusal := .next (s.decideEntry .pay decidePay)

/-- WAIVE (R149). -/
def execWaive (s : State) : Host.Outcome State Fault Refusal := .next (s.decideEntry .waive decideWaive)

/-- ARRIVE (R140). -/
def execArrive (s : State) : Host.Outcome State Fault Refusal := .next (s.decideEntry .arrive decideArrive)

/-- PATRON_BAR (R154). -/
def execPatronBar (s : State) : Host.Outcome State Fault Refusal := .next (s.decideEntry .patronBar decideBar)

/-! ## RENEW_SET and its units (R116 to R118) -/

/-- A renewal sub-unit's decide, with the progress before it. -/
def State.concludeRenewal (s : State) (u : WorkUnit) (b : CurrentBatch) (setup : Setup) (r : RenewProgress) : State :=
  let d := renewStep (s.ctx setup u) (Work.start setup u.gathered) r
  s.conclude u b d.1 d.2.2 (.renew d.2.1)

/-- The first unit of a RENEW_SET: refused, or the closing unit at once on an empty selection, or the first renewal sub-unit, each of the kind
it goes on as (R86, R91, R116; log 24 for the refusing unit's). -/
def State.decideRenewSet (s : State) : State :=
  match s.deciding (.entry .renewSet) with
  | none => s
  | some (u, b, setup) =>
    let k := s.ctx setup u
    let w := Work.start setup u.gathered
    match renewSetChecks k with
    | some o => s.conclude u b w o .none
    | none =>
      if (selection k w).isEmpty then
        s.conclude { u with kind := .closing, code := codeClosing } b w (plain .done) .none
      else
        s.concludeRenewal { u with kind := .renewalSub, code := codeRenewalSub } b setup ⟨selection k w, 0, 0, none⟩

/-- RENEW_SET (R116). -/
def execRenewSet (s : State) : Host.Outcome State Fault Refusal := .next s.decideRenewSet

def State.decideRenewalSub (s : State) : State :=
  match s.deciding .renewalSub with
  | none => s
  | some (u, b, setup) =>
    match b.sub with
    | .renew r => s.concludeRenewal u b setup r
    | _ => s

/-- RENEWAL_SUB_UNIT (R117). -/
def execRenewalSubUnit (s : State) : Host.Outcome State Fault Refusal := .next s.decideRenewalSub

def State.decideClosing (s : State) : State :=
  match s.deciding .closing with
  | none => s
  | some (u, b, setup) =>
    match b.sub with
    | .renew r => s.conclude u b (Work.start setup []) r.outcome .none
    | _ => s

/-- CLOSING_UNIT (R118). -/
def execClosingUnit (s : State) : Host.Outcome State Fault Refusal := .next s.decideClosing

/-! ## The freshen sub-units of a CLAIM (R146) -/

def State.decideFreshenSub (s : State) : State :=
  match s.deciding .freshenSub with
  | none => s
  | some (u, b, setup) =>
    match b.sub with
    | .claim p (i :: rest) =>
      let w := (Work.start setup u.gathered).freshen u.day i
      s.conclude u b w ⟨.done, p, (w.patron p).balance⟩ (if rest.isEmpty then .none else .claim p rest)
    | _ => s

/-- FRESHEN_SUB_UNIT (R146). -/
def execFreshenSubUnit (s : State) : Host.Outcome State Fault Refusal := .next s.decideFreshenSub

/-! ## Units of scheduling and faults (R87, R94 to R96) -/

def State.decideSkip (s : State) : State :=
  match s.deciding .skip with
  | none => s
  | some (u, b, setup) => s.conclude u b (Work.start setup []) (plain .skipped) .none

/-- SKIP_UNIT (R87). -/
def execSkipUnit (s : State) : Host.Outcome State Fault Refusal := .next s.decideSkip

def State.decideEnd (s : State) : State :=
  match s.deciding .endBatch with
  | none => s
  | some (u, b, setup) =>
    s.startNote u (Work.start setup []) (some ⟨b.stream, some (s.endHeader b), 0, s.endRecords b⟩)

/-- END_UNIT (R94, R95). -/
def execEndUnit (s : State) : Host.Outcome State Fault Refusal := .next s.decideEnd

def State.decideFault (s : State) : State :=
  match s.deciding .fault with
  | none => s
  | some (u, b, setup) =>
    match u.failed with
    | some t => s.conclude u b (Work.start setup []) ⟨.storeFault, t.index, t.code⟩ .none
    | none => s

/-- FAULT_UNIT (R96). -/
def execFaultUnit (s : State) : Host.Outcome State Fault Refusal := .next s.decideFault

end Sys2Proof.Machine
end

