-- ==== Sys2Proof/Machine/SweepUnits.lean ====
section
/-! DEFINITION. Commands of the Day Sweep: the decides of its units, and its examination reads (R161 to R168). -/

namespace Sys2Proof.Machine

/-- SWEEP_FRESHEN's decide on an item unit: freshen when the item is ON_LOAN and charged through an earlier day; an empty unit when the
unit has no work; not the event when the work is an expiry (log 44). -/
def State.decideSweepFreshen (s : State) : State :=
  match s.decidingSweep with
  | some (u, .item k, setup) =>
    let w := Work.start setup u.gathered
    if (w.lapsedHold u.day k).isSome then s
    else s.concludeSweep u (.item k) codeSweepFreshen (w.freshen u.day k)
  | _ => s

/-- SWEEP_FRESHEN (R164). -/
def execSweepFreshen (s : State) : Host.Outcome State Fault Refusal := .next s.decideSweepFreshen

/-- SWEEP_EXPIRY's decide on an item unit: the expiry of a lapsed hold, an empty unit, or not the event. -/
def State.decideSweepExpiry (s : State) : State :=
  match s.decidingSweep with
  | some (u, .item k, setup) =>
    let w := Work.start setup u.gathered
    if freshenDue u.day w k then s
    else s.concludeSweep u (.item k) codeSweepExpiry (w.expireOnTouch u.day k)
  | _ => s

/-- SWEEP_EXPIRY (R164). -/
def execSweepExpiry (s : State) : Host.Outcome State Fault Refusal := .next s.decideSweepExpiry

/-- SWEEP_RESUME's decide on a resume unit. -/
def State.decideSweepResume (s : State) : State :=
  match s.decidingSweep with
  | some (u, .resume k, setup) =>
    s.concludeSweep u (.resume k) codeSweepResume (decideResume u.day (Work.start setup u.gathered) k)
  | _ => s

/-- SWEEP_RESUME (R164). -/
def execSweepResume (s : State) : Host.Outcome State Fault Refusal := .next s.decideSweepResume

/-- SWEEP_PROGRESS's decide: the summary with the sweep fields, always written. -/
def State.decideSweepProgress (s : State) : State :=
  match s.decidingSweep with
  | some (u, .progress e, setup) =>
    s.writeNote
      { u with
        code := codeSweepProgress
        changes := [.summary (s.sweep.fields (.progress e) u.reported (Work.start setup u.gathered).sum)]
        spoil := [] }
  | _ => s

/-- SWEEP_PROGRESS (R163). -/
def execSweepProgress (s : State) : Host.Outcome State Fault Refusal := .next s.decideSweepProgress

/-! ## Examination reads (R161, R166) -/

/-- SWEEP_READ_DONE (R161). -/
def execSweepReadDone (a : Answer) (s : State) : Host.Outcome State Fault Refusal :=
  .next (s.live (fun s =>
    match s.pullOwn (fun q => decide (q.tag = .sweepRead)) with
    | some i => (s.dropOwn i.req.serial).sweepReadAnswered i a
    | none => s))

/-- SWEEP_READ_TIMEOUT (R166): as an answer of error; a response after the limit is discarded (log 10). -/
def execSweepReadTimeout (s : State) : Host.Outcome State Fault Refusal :=
  .next (s.live (fun s =>
    match s.pullOwn (fun q => decide (q.tag = .sweepRead)) with
    | some i => (s.dropOwn i.req.serial).sweepReadAnswered i (.error 0)
    | none => s))

end Sys2Proof.Machine
end

