-- ==== Sys2Proof/Machine/SetupTraffic.lean ====
section
/-! DEFINITION. Commands of the Setup Loader: the observed words, the reading of the block, APPLY, FORMAT, WARM_RESET. -/

namespace Sys2Proof.Machine

/-- CALENDAR_WRITE (R157). -/
def execCalendarWrite (tag : Nat) (a : Answer) (s : State) : Host.Outcome State Fault Refusal :=
  .next (s.live (fun s => s.writeAnswered tag a (fun s r => s.coversWord Config.calendarOff r)))

/-- APPLY_REQUEST (R172). -/
def execApplyRequest (tag : Nat) (a : Answer) (s : State) : Host.Outcome State Fault Refusal :=
  .next (s.live (fun s => s.writeAnswered tag a (fun s r => s.coversWord Config.applyOff r)))

/-- FORMAT_REQUEST (R172). -/
def execFormatRequest (tag : Nat) (a : Answer) (s : State) : Host.Outcome State Fault Refusal :=
  .next (s.live (fun s => s.writeAnswered tag a (fun s r => s.coversWord Config.formatOff r)))

/-- WARM_RESET_REQUEST (R172). -/
def execWarmResetRequest (tag : Nat) (a : Answer) (s : State) : Host.Outcome State Fault Refusal :=
  .next (s.live (fun s => s.writeAnswered tag a (fun s r => s.coversWord Config.warmOff r)))

/-- A setup read answered: its data, or its failure. -/
def State.setupReadAnswered (s : State) (data : IssuedOwn → Option (List Byte)) : State :=
  match s.pullOwn (fun q => decide (q.tag = .setupRead)), s.loader.job with
  | some i, .reading k p block =>
    (match data i with
      | some d => (s.dropOwn i.req.serial).partRead k p block d
      | none => (s.dropOwn i.req.serial).partFailed)
  | _, _ => s

/-- SETUP_READ_DONE (R173). -/
def execSetupReadDone (a : Answer) (s : State) : Host.Outcome State Fault Refusal :=
  .next (s.live (fun s => s.setupReadAnswered (fun i => s.ownData i a)))

/-- SETUP_READ_TIMEOUT (R173): a response after the limit is discarded (log 10). -/
def execSetupReadTimeout (s : State) : Host.Outcome State Fault Refusal :=
  .next (s.live (fun s => s.setupReadAnswered (fun _ => none)))

/-- APPLY (R173): a validated block takes effect. -/
def execApplySetup (s : State) : Host.Outcome State Fault Refusal :=
  .next (s.live (fun s =>
    match s.loader.job with
    | .validated .apply u => s.applyAccepted u
    | _ => s))

/-- FORMAT (R174): a validated block is accepted, or refused BUSY. -/
def execFormat (s : State) : Host.Outcome State Fault Refusal :=
  .next (s.live (fun s =>
    match s.loader.job with
    | .validated .format u =>
      if s.formatAllowed then s.formatAccepted u else (s.setResult ⟨.busy, 0⟩).endJob
    | _ => s))

/-- FORMAT_WRITE_DONE (R175). -/
def execFormatWriteDone (a : Answer) (s : State) : Host.Outcome State Fault Refusal :=
  .next (s.live (fun s =>
    match s.pullOwn (fun q => decide (q.tag = .format)), s.loader.job with
    | some i, .formatting f => ((s.landFormat f i.req a).dropOwn i.req.serial).formatWritten f (answeredDone a)
    | _, _ => s))

/-- WARM_RESET (R177). -/
def execWarmReset (s : State) : Host.Outcome State Fault Refusal :=
  .next (if s.warmDue then s.warmResetNow else s)

end Sys2Proof.Machine
end

