-- ==== Sys2Proof/Machine/Dispatch.lean ====
section
/-! DEFINITION. The meaning of every command: one arm for each constructor of Instr. -/

namespace Sys2Proof.Machine

def exec (i : Instr) (s : State) : Host.Outcome State Fault Refusal :=
  match i with
  | .coldReset landed => Sys2Proof.Machine.execColdReset landed s
  | .coldResetRelease apsel => Sys2Proof.Machine.execColdResetRelease apsel s
  | .startupReadDone a => Sys2Proof.Machine.execStartupReadDone a s
  | .startupWriteDone a => Sys2Proof.Machine.execStartupWriteDone a s
  | .upstreamRequest r => Sys2Proof.Machine.execUpstreamRequest r s
  | .arbiterGrant => Sys2Proof.Machine.execArbiterGrant s
  | .passThroughResponse tag a => Sys2Proof.Machine.execPassThroughResponse tag a s
  | .apertureWriteResponse tag a => Sys2Proof.Machine.execApertureWriteResponse tag a s
  | .entrySlotWrite tag a => Sys2Proof.Machine.execEntrySlotWrite tag a s
  | .closeWord tag a => Sys2Proof.Machine.execCloseWord tag a s
  | .cancelWord tag a => Sys2Proof.Machine.execCancelWord tag a s
  | .answerWriteResponse n a => Sys2Proof.Machine.execAnswerWriteResponse n a s
  | .ownWriteResponse tag a => Sys2Proof.Machine.execOwnWriteResponse tag a s
  | .readDataArrival tag a => Sys2Proof.Machine.execReadDataArrival tag a s
  | .answerStateRead tag a => Sys2Proof.Machine.execAnswerStateRead tag a s
  | .idleExpiry n => Sys2Proof.Machine.execIdleExpiry n s
  | .collectTimerExpiry n => Sys2Proof.Machine.execCollectTimerExpiry n s
  | .unitBoundary => Sys2Proof.Machine.execUnitBoundary s
  | .gatherReadResponse a => Sys2Proof.Machine.execGatherReadResponse a s
  | .gatherReadTimeout => Sys2Proof.Machine.execGatherReadTimeout s
  | .claim => Sys2Proof.Machine.execClaim s
  | .release => Sys2Proof.Machine.execRelease s
  | .lend => Sys2Proof.Machine.execLend s
  | .returnItem => Sys2Proof.Machine.execReturnItem s
  | .renew => Sys2Proof.Machine.execRenew s
  | .renewSet => Sys2Proof.Machine.execRenewSet s
  | .renewalSubUnit => Sys2Proof.Machine.execRenewalSubUnit s
  | .closingUnit => Sys2Proof.Machine.execClosingUnit s
  | .holdPlace => Sys2Proof.Machine.execHoldPlace s
  | .holdCancel => Sys2Proof.Machine.execHoldCancel s
  | .holdPause => Sys2Proof.Machine.execHoldPause s
  | .pay => Sys2Proof.Machine.execPay s
  | .waive => Sys2Proof.Machine.execWaive s
  | .arrive => Sys2Proof.Machine.execArrive s
  | .patronBar => Sys2Proof.Machine.execPatronBar s
  | .streamReopen => Sys2Proof.Machine.execStreamReopen s
  | .freshenSubUnit => Sys2Proof.Machine.execFreshenSubUnit s
  | .skipUnit => Sys2Proof.Machine.execSkipUnit s
  | .endUnit => Sys2Proof.Machine.execEndUnit s
  | .faultUnit => Sys2Proof.Machine.execFaultUnit s
  | .sweepFreshen => Sys2Proof.Machine.execSweepFreshen s
  | .sweepExpiry => Sys2Proof.Machine.execSweepExpiry s
  | .sweepResume => Sys2Proof.Machine.execSweepResume s
  | .sweepProgress => Sys2Proof.Machine.execSweepProgress s
  | .noteWriteDone a => Sys2Proof.Machine.execNoteWriteDone a s
  | .applyWriteDone a => Sys2Proof.Machine.execApplyWriteDone a s
  | .unitEnd a => Sys2Proof.Machine.execUnitEnd a s
  | .sweepReadDone a => Sys2Proof.Machine.execSweepReadDone a s
  | .sweepReadTimeout => Sys2Proof.Machine.execSweepReadTimeout s
  | .calendarWrite tag a => Sys2Proof.Machine.execCalendarWrite tag a s
  | .applyRequest tag a => Sys2Proof.Machine.execApplyRequest tag a s
  | .formatRequest tag a => Sys2Proof.Machine.execFormatRequest tag a s
  | .warmResetRequest tag a => Sys2Proof.Machine.execWarmResetRequest tag a s
  | .applySetup => Sys2Proof.Machine.execApplySetup s
  | .setupReadDone a => Sys2Proof.Machine.execSetupReadDone a s
  | .setupReadTimeout => Sys2Proof.Machine.execSetupReadTimeout s
  | .format => Sys2Proof.Machine.execFormat s
  | .formatWriteDone a => Sys2Proof.Machine.execFormatWriteDone a s
  | .warmReset => Sys2Proof.Machine.execWarmReset s
  | .startupReadTimeout => Sys2Proof.Machine.execStartupReadTimeout s

end Sys2Proof.Machine
end

