-- ==== Sys2Proof/Machine/Step.lean ====
section
/-! DEFINITION. One step: the command at the front of the queue; on an empty queue, one second of time. -/

namespace Sys2Proof.Machine

/-- A command put at the front of the queue. -/
def State.pushFront (s : State) (c : Instr) : State := { s with pending := c :: s.pending }

/-- The expiries that are due, stream 0 first. -/
def State.dueTimers (s : State) : List Instr :=
  (allStreams.map (fun n =>
    (if s.idleDue n then [Instr.idleExpiry n] else []) ++
      (if s.collectDue n then [Instr.collectTimerExpiry n] else []))).flatten

/-- One second later: every running timer has measured one more. -/
def State.second (s : State) : State :=
  allStreams.foldl (fun x n => x.updStream n (fun t =>
    { t with idleTimer := t.idleTimer.map (· + 1), collectTimer := t.collectTimer.map (· + 1) })) s

/-- The step on an empty queue (DESIGN CHOICE, log 4): the expiries due are put in the queue; when none is due, one second passes. -/
def State.idleStep (s : State) : State :=
  if s.dueTimers.isEmpty then s.second else { s with pending := s.dueTimers }

/-- One step. -/
def step (s : State) : Host.Outcome State Fault Refusal :=
  match s.pending with
  | c :: cs => exec c { s with pending := cs }
  | [] => .next s.idleStep

/-- The state with the command a table word spells at the front of its queue. No row of the table has bits, so no word spells one. -/
def State.withFetchWord (s : State) (nbits w : Nat) : State :=
  match decodeTableWord nbits w with
  | some c => s.pushFront c
  | none => s

end Sys2Proof.Machine
end

