-- ==== Sys2Proof/Safety.lean ====
section
/-! DEFINITION. What holds of every state a run reaches: the predicates the statements of invariants use. -/

namespace Sys2Proof.Machine

/-- Every stream's entry is as R46, R48 and R80 keep it: no watch unless CLAIMED, the idle timer running exactly while CLAIMED with an
IDLE batch, check-failure count 0 when OFF. -/
def StreamsSettled (s : State) : Prop := ∀ n : StreamId, (s.stream n).settled = s.stream n

/-- A patron is claimed by at most one stream at a time (R38). -/
def ClaimsUnique (s : State) : Prop :=
  ∀ (m n : StreamId) (p : Nat), (s.stream m).session = .claimed p → (s.stream n).session = .claimed p → m = n

/-- The bounds of a stream's entry: at most 8 watches (R71), guard hits to 65,535 (R11), check failures to 15 (R48). -/
def Stream.bounded (t : Stream) : Prop :=
  t.watches.length ≤ 8 ∧ t.guardHits ≤ Config.countTop ∧ t.checkFails ≤ 15

/-- Every stream's entry is within its bounds. -/
def StreamsBounded (s : State) : Prop := ∀ n : StreamId, (s.stream n).bounded

/-- The store-fault count is at most 65,535 (R170). -/
def FaultsBounded (s : State) : Prop := s.loader.faults ≤ Config.countTop

/-- Memory is in its canonical form. -/
def MemoryCanonical (s : State) : Prop := s.mem.wf

/-! ## What a step leaves as it was -/

/-- The parts of the state, for saying what a command leaves as it was. The serial number of the next request is in none of them. -/
inductive Part where
  | memory | pins | commands | upstream | issued | raised | streams | commitQueue | engine | sweep | loader
  deriving DecidableEq, Repr

/-- A part of `t` is as in `s`. `upstream` is the upstream side of the path, `issued` the own requests issued downstream and the last
granted kind, `raised` the own requests waiting for the port. -/
def Unchanged (s t : State) : Part → Prop
  | .memory => t.mem = s.mem
  | .pins => t.inReset = s.inReset ∧ t.base = s.base
  | .commands => t.pending = s.pending
  | .upstream => t.path.upSlot = s.path.upSlot ∧ t.path.holdList = s.path.holdList ∧
      t.path.holdFull = s.path.holdFull ∧ t.path.aside = s.path.aside ∧ t.path.upIssued = s.path.upIssued ∧
      t.path.outstanding = s.path.outstanding ∧ t.path.returned = s.path.returned
  | .issued => t.path.ownIssued = s.path.ownIssued ∧ t.path.lastGranted = s.path.lastGranted
  | .raised => t.path.ownSlot = s.path.ownSlot ∧ t.path.raised = s.path.raised ∧
      t.path.formatHeld = s.path.formatHeld
  | .streams => t.streams = s.streams
  | .commitQueue => t.queue = s.queue
  | .engine => t.engine = s.engine
  | .sweep => t.sweep = s.sweep
  | .loader => t.loader = s.loader

/-- Every part outside a list is as it was. -/
def OnlyParts (s t : State) (ps : List Part) : Prop := ∀ p : Part, p ∉ ps → Unchanged s t p

/-- Every stream's entry but those of a list is as it was. -/
def OnlyStreams (s t : State) (ns : List StreamId) : Prop := ∀ m : StreamId, m ∉ ns → t.stream m = s.stream m

/-- Every byte of memory outside `len` bytes from `a` reads as before. -/
def SameMemoryOutside (s t : State) (a len : Nat) : Prop :=
  ∀ x : Nat, (x < a ∨ a + len ≤ x) → t.mem.read x = s.mem.read x

/-! ## Own requests and responses -/

/-- Among the own requests of `t` not yet answered stands one with this tag, aperture offset and body. -/
def Awaits (t : State) (tag : OwnTag) (off : Nat) (body : OwnBody) : Prop :=
  ∃ q ∈ t.ownWaiting, q.tag = tag ∧ q.addr = t.base + off ∧ q.body = body

/-- The upstream request with this serial number has its response: returned, or standing ready behind an earlier request of its stream that has none
(R17). -/
def Answered (t : State) (tag : Nat) (a : UpAnswer) : Prop :=
  (∃ x ∈ t.path.returned, x.tag = tag ∧ x.answer = a) ∨
    ∃ o ∈ t.path.outstanding, o.tag = tag ∧ o.answer = some a ∧
      ∃ p ∈ t.path.outstanding.takeWhile (fun p => decide (p ≠ o)), p.stream = o.stream ∧ p.answer = none

/-! ## Units -/

/-- A batch unit of a kind stands at its decide: `u` the unit, `b` the current batch, `x` the setup in force. -/
abbrev AtDecide (s : State) (k : UnitKind) (u : WorkUnit) (b : CurrentBatch) (x : Setup) : Prop :=
  s.inReset = false ∧ s.engine.running = true ∧ s.engine.unit = some u ∧ s.engine.batch = some b ∧
    s.loader.inForce = some x ∧ u.phase = .decide ∧ u.kind = k

/-- A sweep unit stands at its decide. -/
abbrev AtSweepDecide (s : State) (o : Offer) (u : WorkUnit) (x : Setup) : Prop :=
  s.inReset = false ∧ s.engine.running = true ∧ s.engine.unit = some u ∧ s.loader.inForce = some x ∧
    u.phase = .decide ∧ u.kind = .sweep o

/-- An image of a unit's record carries the record as gathered with its contents as the unit leaves them. -/
def Image.shows (w : Work) : Image → Prop
  | .patron i raw p => raw = w.raw (.record .patrons i) ∧ p = w.patron i
  | .title i raw t => raw = w.raw (.record .titles i) ∧ t = w.title i
  | .item i raw c => raw = w.raw (.record .items i) ∧ c = w.item i
  | .hold i raw h => raw = w.raw (.record .holds i) ∧ h = w.hold i
  | .summary _ => False
  | .desk _ => False

/-- A unit's work `w` changes no record outside a list from what it was, `v`; the images it adds stand for records of the list and show them as
the unit leaves them; the setup, the contents gathered and what freshen alone left are as they were. -/
structure OnlyRecords (v w : Work) (ts : List Target) : Prop where
  setup : w.setup = v.setup
  gathered : w.gathered = v.gathered
  fresh : w.fresh = v.fresh
  images : ∀ g ∈ w.images, (g.target ∈ ts ∧ g.shows w) ∨ g ∈ v.images
  patrons : ∀ i, Target.record .patrons i ∉ ts → w.patron i = v.patron i
  titles : ∀ i, Target.record .titles i ∉ ts → w.title i = v.title i
  items : ∀ i, Target.record .items i ∉ ts → w.item i = v.item i
  holds : ∀ i, Target.record .holds i ∉ ts → w.hold i = v.hold i
  summary : Target.summary ∉ ts → w.sum = v.sum

/-- A unit's work `v` comes of `w` by changing records first in the order of a list; one that is changed already keeps its place, and one whose
contents come out as they were is not there (R90). -/
def ChangesInOrder (w v : Work) (ts : List Target) : Prop :=
  ∃ l : List Target, v.images.map Image.target = w.images.map Image.target ++ l ∧ l.Sublist ts

/-- The record in front of a hold in a queue, if any, as a list. -/
def holdTarget (h : Option Nat) : List Target := (h.map (Target.record .holds)).toList

/-- An image marks its record spoiling (R74): an item or a patron that differs from what the unit's freshen steps left, or from the record as
gathered when they did not touch it; a title that differs from the record as gathered; nothing else. -/
def Image.spoilsIn (w : Work) : Image → Prop
  | .patron i _ p =>
    (∀ raw q, imageOf w.fresh (.record .patrons i) = some (.patron i raw q) → p ≠ q) ∧
      (imageOf w.fresh (.record .patrons i) = none → p ≠ parsePatron (w.raw (.record .patrons i)))
  | .item i _ c =>
    (∀ raw d, imageOf w.fresh (.record .items i) = some (.item i raw d) → c ≠ d) ∧
      (imageOf w.fresh (.record .items i) = none → c ≠ parseItem (w.raw (.record .items i)))
  | .title i _ t => t ≠ parseTitle (w.raw (.record .titles i))
  | .hold _ _ _ => False
  | .summary _ => False
  | .desk _ => False

/-! ## What a unit reads (R88) -/

/-- The records the touch steps on item `i` need, and a collection of a hold that `collects` names (R106, R140, R164). -/
structure TouchReads (w : Work) (T i : Nat) (collects : Hold → Bool) : Prop where
  available : (w.item i).state = .available → w.touchTargets T i collects = []
  onLoan : (w.item i).state = .onLoan → w.touchTargets T i collects = w.targets .patrons (w.item i).borrower
  noHold : (w.item i).state = .setAside → w.ref .holds (w.item i).aside = none → w.touchTargets T i collects = []
  noTitle : ∀ h, (w.item i).state = .setAside → w.ref .holds (w.item i).aside = some h →
    w.ref .titles (w.hold h).title = none →
    w.touchTargets T i collects = .record .holds h :: w.targets .patrons (w.hold h).patron
  setAside : ∀ h t, (w.item i).state = .setAside → w.ref .holds (w.item i).aside = some h →
    w.ref .titles (w.hold h).title = some t →
    w.touchTargets T i collects =
      .record .holds h :: w.targets .patrons (w.hold h).patron ++ [.record .titles t] ++
        (if lapsed (w.hold h) T then
          w.queueTargets t (fun x => decide (x.1 = h)) ++ w.offerTargets T i t
        else if collects (w.hold h) then w.queueTargets t (fun x => decide (x.1 = h)) else [])

/-- The records the renewal of item `i` needs; a place of the loan list out of range names no item (log 28). -/
def RenewReads (k : Ctx) (w : Work) (i : Nat) (l : List Target) : Prop :=
  (w.count .items ≤ i → l = [.record .patrons k.patron, .summary]) ∧
  (i < w.count .items → l = [.record .patrons k.patron, .record .items i] ++
    (if (w.item i).state = .onLoan then w.targets .patrons (w.item i).borrower else []) ++
    (if (w.item i).title < w.count .titles then
      .record .titles (w.item i).title :: w.queueTargets (w.item i).title (fun x => readyHold k.day x.2) else []) ++
    w.touchTargets k.day i (fun _ => false) ++ [.summary])

/-- The walk to the patron's hold on the entry's title, with its copy when a hold that `leaves` names has one (R136, R138). -/
def OwnHoldReads (k : Ctx) (w : Work) (leaves : Hold → Bool) (l : List Target) : Prop :=
  ∀ t, t = k.entry.target →
    ((∀ z ∈ w.queue t, z.2.patron ≠ some k.patron) → l = [.record .patrons k.patron, .record .titles t] ++
      w.queueTargets t (fun _ => false)) ∧
    (∀ j h y, firstAt (fun z => decide (z.2.patron = some k.patron)) 1 (w.queue t) = some (j, h, y) →
      (∀ c, w.ref .items y.copy = some c → leaves y = true →
        l = [.record .patrons k.patron, .record .titles t] ++
          w.queueTargets t (fun x => decide (x.2.patron = some k.patron)) ++ [.record .items c] ++ w.offerTargets k.day c t) ∧
      ((w.ref .items y.copy = none ∨ leaves y = false) → l = [.record .patrons k.patron, .record .titles t] ++
        w.queueTargets t (fun x => decide (x.2.patron = some k.patron))))

/-- The records the unit of an entry reads, in their order (R41, R106, R132, R136, R138, R140, R148, R149, R154). -/
structure EntryReads (k : Ctx) (w : Work) : Prop where
  claim : ∀ card, card = parseCard (w.raw (.record .cards k.entry.target)) →
    ((card.state = .active ∧ card.patron < w.count .patrons) →
      entryNeeds .claim k w = [.record .cards k.entry.target, .record .patrons card.patron]) ∧
    ((card.state ≠ .active ∨ w.count .patrons ≤ card.patron) → entryNeeds .claim k w = [.record .cards k.entry.target])
  sessions : entryNeeds .release k w = [] ∧ entryNeeds .streamReopen k w = []
  lend : entryNeeds .lend k w = [.record .patrons k.patron, .record .items k.entry.target] ++
    w.touchTargets k.day k.entry.target
      (fun x => decide (x.state = .onShelf ∧ x.patron = some k.patron ∧ x.pickup = k.branch)) ++ [.summary]
  returnItem : ∀ i, i = k.entry.target → entryNeeds .returnItem k w = [.record .items i] ++
    (if (w.item i).state = .onLoan then w.targets .patrons (w.item i).borrower else []) ++
    (if (w.item i).title < w.count .titles then .record .titles (w.item i).title ::
      (if (w.item i).state = .onLoan then w.offerTargets k.day i (w.item i).title else []) else []) ++
    w.touchTargets k.day i (fun _ => false) ++ [.summary]
  renew : RenewReads k w k.entry.target (entryNeeds .renew k w)
  renewSet : ((¬(1 ≤ k.entry.first ∧ k.entry.first ≤ k.entry.last ∧ k.entry.last ≤ 40) ∨ selection k w = []) →
      entryNeeds .renewSet k w = [.record .patrons k.patron]) ∧
    (∀ x xs, 1 ≤ k.entry.first → k.entry.first ≤ k.entry.last → k.entry.last ≤ 40 → selection k w = x :: xs →
      ∃ l, RenewReads k w x.2 l ∧ entryNeeds .renewSet k w = .record .patrons k.patron :: l)
  holdPlace : entryNeeds .holdPlace k w = [.record .patrons k.patron, .record .titles k.entry.target] ++
    w.queueTargets k.entry.target (fun _ => false) ++ w.targets .holds (w.title k.entry.target).last ++
    (((w.title k.entry.target).copies.filter (fun c => decide (c < w.count .items))).map (Target.record .items)) ++
    [.summary] ++ w.targets .holds w.sum.freeHead
  holdCancel : ∃ l, OwnHoldReads k w (fun _ => true) l ∧ entryNeeds .holdCancel k w = l ++ [.summary]
  holdPause : ∃ l m, OwnHoldReads k w (fun x => lapsed x k.day) l ∧ entryNeeds .holdPause k w = l ++ m ++ [.summary] ∧
    (∀ j h y, firstAt (fun z => decide (z.2.patron = some k.patron)) 1 (w.queue k.entry.target) = some (j, h, y) →
      k.entry.day = 0 → y.state = .suspended →
      m = w.copyTargets (w.seekCopies k.entry.target (w.title k.entry.target).copies)) ∧
    ((k.entry.day ≠ 0 ∨ ∀ j h y, firstAt (fun z => decide (z.2.patron = some k.patron)) 1 (w.queue k.entry.target) =
      some (j, h, y) → y.state ≠ .suspended) → m = [])
  money : entryNeeds .pay k w = [.record .patrons k.patron, .summary] ∧
    entryNeeds .waive k w = [.record .patrons k.patron, .summary]
  arrive : entryNeeds .arrive k w = [.record .items k.entry.target] ++
    (if (w.item k.entry.target).state = .setAside then w.touchTargets k.day k.entry.target (fun _ => false) else []) ++
    [.summary]
  patronBar : entryNeeds .patronBar k w = [.record .patrons k.entry.target]

/-- The records the other units read (R146, R117, R164). -/
structure UnitReads (u : WorkUnit) (sub : SubUnits) (k : Ctx) (w : Work) : Prop where
  entry : ∀ e, u.kind = .entry e → unitNeeds u sub k w = entryNeeds e k w
  freshen : ∀ p i is, u.kind = .freshenSub → sub = .claim p (i :: is) →
    (w.count .items ≤ i → unitNeeds u sub k w = [.record .patrons k.patron, .summary]) ∧
    (i < w.count .items → unitNeeds u sub k w = [.record .patrons k.patron, .record .items i] ++
      (if (w.item i).state = .onLoan then w.targets .patrons (w.item i).borrower else []) ++ [.summary])
  renewal : ∀ r x xs, u.kind = .renewalSub → sub = .renew r → r.remaining = x :: xs →
    RenewReads k w x.2 (unitNeeds u sub k w)
  none : u.kind ∈ [UnitKind.closing, .skip, .endBatch, .fault, .refusal] → unitNeeds u sub k w = []
  item : ∀ i, u.kind = .sweep (.item i) →
    unitNeeds u sub k w = [.record .items i] ++ w.touchTargets k.day i (fun _ => false) ++ [.summary]
  resume : ∀ h, u.kind = .sweep (.resume h) →
    (w.ref .titles (w.hold h).title = .none → unitNeeds u sub k w = [.record .holds h]) ∧
    (∀ t, w.ref .titles (w.hold h).title = some t → unitNeeds u sub k w = [.record .holds h, .record .titles t] ++
      (if resumable (w.hold h) k.day then
        w.queueTargets t (fun x => readyHold k.day x.2) ++ w.copyTargets (w.seekCopies t (w.title t).copies) else []))
  progress : ∀ e, u.kind = .sweep (.progress e) → unitNeeds u sub k w = [.summary]

/-- A unit passes from its decide to its note (R90, R92): its change list is that of `w` with the desk image, the records marked spoiling
are those of `w`, and the first note write, of the stream, is raised; nothing but the engine and the own requests changes. -/
structure NoteBegins (s t : State) (u : WorkUnit) (w : Work) (desk : Option DeskImage) : Prop where
  unit : t.engine.unit = some
    { u with
      phase := .note, changes := w.changes desk, spoil := w.spoilList
      toWrite := (noteWrites { u with changes := w.changes desk }).tail }
  engine : t.engine.running = s.engine.running ∧ t.engine.inFlight = s.engine.inFlight ∧
    t.engine.lastTurn = s.engine.lastTurn
  raised : Awaits t .note (Config.noteBase + 1) (.write (lanesOf (put1 (u.owner.map Fin.val))))
  frame : OnlyParts s t [.engine, .raised]

/-- A batch unit of the entry in turn ends its decide with outcome `o`; `sub` are the sub-units still to run (R86, R90). -/
structure Concludes (s t : State) (u : WorkUnit) (b : CurrentBatch) (w : Work) (o : Outcome) (sub : SubUnits) : Prop where
  note : NoteBegins s t u w (some (s.deskImage b (s.outcomeRec b.stream b.next o) (decide (sub = .none))))
  batch : t.engine.batch = some (b.after (s.outcomeRec b.stream b.next o) sub)

/-! ## Own requests being answered -/

/-- The own request a command answers is `i`, while start-up stands at `st`. -/
abbrev AtStartup (s : State) (want : OwnReq → Bool) (i : IssuedOwn) (st : Startup) : Prop :=
  s.inReset = false ∧ s.pullOwn want = some i ∧ s.loader.job = .startup st

/-- Start-up reads, and start-up writes but for the status word's. -/
def startupReads (q : OwnReq) : Bool := decide (q.tag = .startupRead)
def startupWrites (q : OwnReq) : Bool := isStartupWrite q.tag

/-- The read of the note area at a place of start-up: its offset and length (section 12.3). -/
def noteReadOf : StartStep → Option (Nat × Nat)
  | .readNoteState => some (Config.noteBase, 1)
  | .readNoteHead => some (Config.noteBase + 1, 4)
  | .readImage i => some (Config.noteBase + 64 + i * 384, 384)
  | _ => none

/-- The write of replay image `i`, which names target `x`, is raised; a desk image counts as an answer write of its stream (R93, R179). -/
def ReplayWrites (s t : State) (i : Nat) (g : RawImage) (x : Target) : Prop :=
  (∃ st : Startup, t.loader.job = .startup st ∧ st.step = .writeImage i ∧ st.retried = false) ∧
    Awaits t (.startupWrite (match x with | .desk n => some n | _ => none)) (s.replayWrite g x).1
      (.write (s.replayWrite g x).2) ∧
    (StreamsSettled s → ∀ n : StreamId, { t.stream n with answersRaised := 0 } = { s.stream n with answersRaised := 0 })

/-- After a write of the scan or of the session words comes the scan of the next desk `m`, or its session word (R180). -/
def NextStartup (t : State) (p : StartStep) (s : State) (m : StreamId) : Prop :=
  (∀ n, p = .answerDesk n → Awaits t .startupRead (deskAddr m Config.answerOff) (.read 1)) ∧
    ∀ n, p = .writeSession n →
      Awaits t (.startupWrite none) (deskAddr m Config.sessionOff) (.write (lanesOf (s.sessionWord m)))

/-- The sweep as start-up loads it from the summary in memory against today (R160); that memory is read in the event is log 32. -/
def SweepLoaded (s v : State) : Prop :=
  ∀ (m : Summary) (now : Nat), m = parseSummary (v.mem.bytes (s.base + Config.summaryBase) 80) → s.loader.today = some now →
    (now ≤ m.sweptThrough → v.sweep = { s.sweep with sweptThrough := m.sweptThrough, skipped := m.skipped }) ∧
    (m.sweptThrough < now → m.phase ≠ .idle → m.target = now → v.sweep =
      { s.sweep with
        sweptThrough := m.sweptThrough, skipped := m.skipped, phase := m.phase, target := now, position := m.position }) ∧
    (m.sweptThrough < now → (m.phase = .idle ∨ m.target ≠ now) → v.sweep =
      { s.sweep with
        sweptThrough := m.sweptThrough, skipped := m.skipped, phase := .items, target := now, position := 0 })

/-! ## Upstream requests -/

/-- A request the port accepts now that neither is answered at once nor waits in the start-up hold list. -/
abbrev Admitted (s : State) (r : Request) : Prop :=
  s.accepts r = true ∧ r.crosses = false ∧ ¬(s.inAperture r = true ∧ s.loader.part = .starting)

/-- A stream's entry with its running idle timer started from zero (R46). -/
def IdleRestarted (x : Stream) : Stream := { x with idleTimer := x.idleTimer.map (fun _ => 0) }

/-- No earlier close or cancel write of the stream waits for its response. -/
abbrev NoClosePending (s : State) (n : StreamId) : Prop :=
  ∀ o ∈ s.path.outstanding, o.stream = n → o.closes = true → s.serial ≤ o.tag

/-- The aperture write a command answers is `i`: downstream under this serial number, and covering an observed part or not. -/
abbrev WriteDownstream (s : State) (tag : Nat) (i : IssuedUp) : Prop :=
  s.inReset = false ∧ s.findUp tag = some i ∧ s.inAperture i.up.req = true ∧ i.up.req.write = true

/-- The aperture read a command answers. -/
abbrev ReadDownstream (s : State) (tag : Nat) (i : IssuedUp) : Prop :=
  s.inReset = false ∧ s.findUp tag = some i ∧ s.inAperture i.up.req = true ∧ i.up.req.write = false

/-- No own write stands that the response of an upstream request waits for. -/
abbrev NoOwnWriteHolds (s : State) (tag : Nat) : Prop := ∀ q ∈ s.ownWaiting, q.holds ≠ some tag

/-- The write covers none of the words the Setup Loader observes. -/
abbrev NoSetupWord (s : State) (r : Request) : Prop :=
  s.coversWord Config.calendarOff r = false ∧ s.coversWord Config.applyOff r = false ∧
    s.coversWord Config.formatOff r = false ∧ s.coversWord Config.warmOff r = false

/-- The state when a write of entry slots, close word or cancel word is handed on: the write has left the path and stands in memory (R12). -/
def State.handedOn (s : State) (i : IssuedUp) : State :=
  { s.dropUp i.up.tag with mem := s.mem.writeLanes i.up.req.start i.up.req.lanes }

/-- The strobed slot bytes a write carries for its own stream's desk, by offset within the desk. -/
def State.slotCells (s : State) (r : Request) : List (Nat × Byte) :=
  (s.deskCells r.stream r).filter (fun c => decide (c.1 < Config.closeOff))

/-- The state when the slot words a desk write carries have been taken (R54: slot words, then the close word, then the cancel word). -/
def State.slotsTaken (s : State) (i : IssuedUp) : State :=
  if (s.slotCells i.up.req).isEmpty then s.handedOn i
  else (s.handedOn i).slotWrite i.up.req.stream (s.slotCells i.up.req)

/-- The state when the close word too has been taken, if the write carries its count byte. -/
def State.closeWordTaken (s : State) (i : IssuedUp) : State :=
  match countByte (s.deskCells i.up.req.stream i.up.req) with
  | some c => (s.slotsTaken i).closeBatch i.up.req.stream c i.up.tag
  | none => s.slotsTaken i

/-- The state when the setup words a write covers have been taken, in ascending address order (log 43). -/
def State.setupWordsTaken (s : State) (r : Request) : State :=
  [(Config.applyOff, RequestKind.apply), (Config.formatOff, .format), (Config.warmOff, .warmReset)].foldl
    (fun t w => if s.coversWord w.1 r then t.takeRequest w.2 else t)
    (if s.coversWord Config.calendarOff r then s.calendarTake (s.cells r) else s)

/-- The commands that answer a write of an observed part, with the part each is about (R12). -/
def writeCommands (tag : Nat) (a : Answer) : List (Instr × (State → Request → Bool)) :=
  [(.entrySlotWrite tag a, State.coversSlots), (.closeWord tag a, State.coversClose),
    (.cancelWord tag a, State.coversCancel),
    (.calendarWrite tag a, fun s r => s.coversWord Config.calendarOff r),
    (.applyRequest tag a, fun s r => s.coversWord Config.applyOff r),
    (.formatRequest tag a, fun s r => s.coversWord Config.formatOff r),
    (.warmResetRequest tag a, fun s r => s.coversWord Config.warmOff r)]

/-! ## Desks and sessions -/

/-- A batch is IDLE with nothing captured, no flag set, no timer, closed count 0 and cancel asked no (R53). -/
def BatchIsIdle (x : Stream) : Prop :=
  x.batch = .idle ∧ x.captured = [] ∧ (∀ w : Nat, flagAt x.written w = false ∧ flagAt x.torn w = false) ∧
    x.collectTimer = none ∧ x.closedCount = 0 ∧ x.cancelAsked = false

/-- The on-chip answer is FRESH, and an own write of FRESH with this batch result, entry count 0 and guard-hit count is not yet answered. -/
def AnswersFresh (t : State) (n : StreamId) (r : BatchResult) (hits : Nat) : Prop :=
  (t.stream n).answer = .fresh ∧
    Awaits t (.answer n) (deskAddr n Config.answerOff)
      (.write (lanesOf ([3] ++ leBytes 1 r.code ++ [0]) ++ [noLane] ++ lanesOf (leBytes 2 hits)))

/-- An own write of the stream's session word, as its entry now stands, is not yet answered (R39). -/
def SessionWordRaised (t : State) (n : StreamId) : Prop :=
  Awaits t (.sessionWord n) (deskAddr n Config.sessionOff) (.write (lanesOf (t.sessionWord n)))

/-- The response of the upstream request is not given: it waits for an own write (R19). -/
def ResponseWaits (s t : State) (tag : Nat) : Prop :=
  (∃ q ∈ t.ownWaiting, q.holds = some tag) ∧ t.path.outstanding = s.path.outstanding ∧
    t.path.returned = s.path.returned

/-! ## Units that begin -/

/-- The engine stands at a boundary with nothing to do first: READY, RUNNING, no unit, no exchange of the Setup Loader under way. -/
abbrev AtBoundary (s : State) (x : Setup) : Prop :=
  s.inReset = false ∧ s.loader.part = .ready ∧ s.engine.running = true ∧ s.engine.unit = none ∧ s.loader.job = .idle ∧
    s.loader.inForce = some x

/-- A unit begins: with the read of its first record, or, when it reads none, at its decide; today is captured (R88). -/
structure UnitBegins (s t : State) (kind : UnitKind) (owner : Option StreamId) (entry : Option Nat) (code : Nat)
    (first : Option Target) : Prop where
  unit : ∃ u : WorkUnit, t.engine.unit = some u ∧ u.kind = kind ∧ u.owner = owner ∧ u.entry = entry ∧ u.code = code ∧
    u.phase = (if first.isSome then .gather else .decide) ∧ u.day = s.loader.today.getD 0 ∧ u.gathered = [] ∧
    u.changes = [] ∧ u.spoil = [] ∧ u.redoUsed = false ∧ u.reported = true
  engine : t.engine.running = s.engine.running ∧ t.engine.inFlight = s.engine.inFlight ∧
    t.engine.batch = s.engine.batch ∧ t.engine.lastTurn = s.engine.lastTurn
  read : ∀ x : Target, first = some x → Awaits t (.gather x) (s.targetOff x) (.read x.len)
  frame : OnlyParts s t [.engine, .raised]

/-- The record an entry's unit reads first, for the claimed patron and the target index (R41, R106, R132, R136, R138, R140, R148, R154). -/
def EntryKind.firstRead (k : EntryKind) (patron target : Nat) : Option Target :=
  match k with
  | .claim => some (.record .cards target)
  | .release => none
  | .returnItem => some (.record .items target)
  | .arrive => some (.record .items target)
  | .patronBar => some (.record .patrons target)
  | .streamReopen => none
  | _ => some (.record .patrons patron)

/-- The record a sweep unit reads first (R164). -/
def Offer.firstRead : Offer → Target
  | .item k => .record .items k
  | .resume k => .record .holds k
  | .progress _ => .summary

/-- What the boundary before an entry leads to (R87, R89). -/
structure EntryBegins (s t : State) (b : CurrentBatch) (x : Setup) : Prop where
  cancel : (s.stream b.stream).cancelAsked = true →
    UnitBegins s t .endBatch (some b.stream) (some b.next) 20 none
  skip : (s.stream b.stream).cancelAsked = false → 0 < b.next → (s.entryOf b.stream b.next).afterDone = true →
    b.prevDone = false → UnitBegins s t .skip (some b.stream) (some b.next) 19 none
  begins : ∀ k : EntryKind, (s.stream b.stream).cancelAsked = false →
    (b.next = 0 ∨ (s.entryOf b.stream b.next).afterDone = false ∨ b.prevDone = true) →
    s.commonChecks b.stream (s.entryOf b.stream b.next) = .ok k →
    UnitBegins s t (.entry k) (some b.stream) (some b.next) k.code
      (k.firstRead ((s.stream b.stream).session.patron.getD 0) (s.entryOf b.stream b.next).target)
  refused : ∀ c : OutcomeCode, (s.stream b.stream).cancelAsked = false →
    (b.next = 0 ∨ (s.entryOf b.stream b.next).afterDone = false ∨ b.prevDone = true) →
    s.commonChecks b.stream (s.entryOf b.stream b.next) = .error c →
    ∃ u : WorkUnit, u.kind = .refusal ∧ u.owner = some b.stream ∧ u.entry = some b.next ∧
      u.code = (s.entryOf b.stream b.next).kind ∧
      Concludes s t u b (Work.start x []) (plain c) .none

/-- The batch of stream `n` has left the head of the queue to be the current one: SETTLING, WORKING on chip and by an own write (R85). -/
structure TakesBatch (s t : State) (n : StreamId) : Prop where
  queue : s.queue = n :: t.queue
  engine : t.engine.batch = some ⟨n, 0, false, .none, [], none⟩ ∧ t.engine.unit = s.engine.unit ∧
    t.engine.running = s.engine.running ∧ t.engine.inFlight = s.engine.inFlight ∧
    t.engine.lastTurn = s.engine.lastTurn
  desk : (t.stream n).batch = .settling ∧ (t.stream n).answer = .working ∧
    (t.stream n).captured = (s.stream n).captured ∧ (t.stream n).closedCount = (s.stream n).closedCount ∧
    (t.stream n).session = (s.stream n).session
  working : Awaits t (.working n) (deskAddr n Config.answerOff) (.write (lanesOf [2]))
  frame : OnlyParts s t [.commitQueue, .engine, .streams, .raised] ∧ OnlyStreams s t [n]

/-- A unit of this phase is under way and the command answers the own write `i` of it, of lanes `ls`. -/
abbrev UnitWrite (s : State) (p : Phase) (want : OwnTag → Bool) (i : IssuedOwn) (u : WorkUnit) (ls : List Lane) : Prop :=
  s.inReset = false ∧ s.engine.running = true ∧ s.engine.unit = some u ∧ u.phase = p ∧ s.loader.inForce.isSome = true ∧
    s.pullOwn (fun q => want q.tag) = some i ∧ i.req.body = .write ls

/-- Everything of a stream but its count of answer writes raised is as it was. -/
def SameStreams (s t : State) : Prop :=
  ∀ n : StreamId, { t.stream n with answersRaised := 0 } = { s.stream n with answersRaised := 0 }

/-- The store-fault count after one more fault (R170). -/
def oneMoreFault (l : Loader) : Loader := { l with faults := if l.faults < 65535 then l.faults + 1 else l.faults }

/-- An own write answered error adds one store fault, but for the status word's; one answered done adds none and raises nothing (R39, R49, R170). -/
def WriteCounted (s t : State) (i : IssuedOwn) (a : Answer) : Prop :=
  ((answeredDone a = true ∨ i.req.tag = .status) → Unchanged s t .loader ∧ Unchanged s t .raised) ∧
    ((answeredDone a = false ∧ i.req.tag ≠ .status) → t.loader = oneMoreFault s.loader ∧
      (s.loader.faults < 65535 → Awaits t .status Config.statusOff
        (.write (lanesOf (encodeStatus s.loader.part s.loader.result (s.loader.faults + 1))))))

/-- The gather read a command answers: `i`, of record `tg`, for the unit `u` (R88). -/
abbrev GatherRead (s : State) (i : IssuedOwn) (tg : Target) (u : WorkUnit) (x : Setup) : Prop :=
  s.inReset = false ∧ s.engine.running = true ∧ s.engine.unit = some u ∧ u.phase = .gather ∧ s.loader.inForce = some x ∧
    s.pullOwn (fun q => q.tag.gatherTarget.isSome) = some i ∧ i.req.tag = .gather tg

/-- The sweep's fields when a unit of a dropped pass has ended: its offer is cleared, and nothing else moves (R164, R167). -/
def Sweep.released (x : Sweep) : Sweep := { x with offer := none }

/-- The sweep's fields when a unit has ended: past its record, or its phase ended (R163, R164). -/
def Sweep.past (x : Sweep) : Offer → Sweep
  | .item _ => { x with position := x.position + 1, offer := none, reading := none }
  | .resume _ => { x with position := x.position + 1, offer := none, reading := none }
  | .progress false => { x with offer := none }
  | .progress true => { x with offer := none, sweptThrough := x.target, phase := .idle, position := 0 }

/-- The engine halts on unit `u` (R98). -/
structure Halts (s t : State) (u : WorkUnit) : Prop where
  engine : t.engine.running = false ∧ t.engine.unit = some { u with toWrite := [] } ∧ t.engine.batch = none ∧
    t.engine.inFlight = s.engine.inFlight
  queue : t.queue = []
  sweep : t.sweep = { s.sweep with stopped := true, offer := none, reading := none }
  loader : t.loader = oneMoreFault s.loader
  answered : ∀ n : StreamId, (n ∈ s.queue ∨ ∃ b, s.engine.batch = some b ∧ b.stream = n) →
    BatchIsIdle (t.stream n) ∧ (t.stream n).answer = .fresh ∧ (t.stream n).session = (s.stream n).session ∧
      ∀ p : Nat, (s.stream n).session = .claimed p → (t.stream n).idleTimer = some 0
  others : ∀ n : StreamId, n ∉ s.queue → (∀ b, s.engine.batch = some b → b.stream ≠ n) → t.stream n = s.stream n
  current : ∀ b, s.engine.batch = some b →
    Awaits t (.haltAnswer b.stream) (deskAddr b.stream Config.answerOff)
      (.write (lanesOf (encodeHeader
        ⟨.fresh, .halted, (s.stream b.stream).closedCount, (s.stream b.stream).guardHits⟩))) ∧
    ((s.haltRecords b.stream (haltFrom u b)) ≠ [] →
      Awaits t (.haltAnswer b.stream) (deskAddr b.stream (Config.outcomeOff + 16 * haltFrom u b))
        (.write (lanesOf ((s.haltRecords b.stream (haltFrom u b)).map encodeOutcome).flatten)))
  queued : ∀ pre n post, s.queue = pre ++ n :: post → n ∉ pre → (∀ b, s.engine.batch = some b → b.stream ≠ n) →
    Awaits t (.haltAnswer n) (deskAddr n Config.answerOff)
      (.write (lanesOf (encodeHeader ⟨.fresh, .halted, (s.stream n).closedCount, (s.stream n).guardHits⟩))) ∧
    (s.haltRecords n 0 ≠ [] →
      Awaits t (.haltAnswer n) (deskAddr n Config.outcomeOff)
        (.write (lanesOf ((s.haltRecords n 0).map encodeOutcome).flatten)))
  frame : OnlyParts s t [.memory, .issued, .raised, .loader, .engine, .sweep, .commitQueue, .streams]

/-! ## The Day Sweep and the Setup Loader -/

/-- A sweep unit whose decide finds nothing to do ends there (R164): the engine stands at a boundary and the sweep goes on, past its record or, when its
pass was dropped, at the record the new pass stands at (R167). -/
def EmptySweepUnit (s : State) (u : WorkUnit) (o : Offer) (r : Host.Outcome State Fault Refusal) : Prop :=
  ∃ v : State, r = .next v.sweepExamine ∧
    v.engine = { s.engine with unit := none, inFlight := [] } ∧
    v.sweep = (if u.reported then s.sweep.past o else s.sweep.released) ∧ OnlyParts s v [.engine, .sweep]

/-- The summary with the sweep fields a unit of the pass under way carries (R165). -/
def Sweep.inSummary (x : Sweep) (m : Summary) (phase : SweepPhase) (position swept : Nat) : Summary :=
  { m with target := x.target, phase := phase, position := position, sweptThrough := swept, skipped := x.skipped }

/-- The examination read a command answers: `i`, of `e` (R161). -/
abbrev ExamRead (s : State) (i : IssuedOwn) (e : Examined) : Prop :=
  s.inReset = false ∧ s.pullOwn (fun q => decide (q.tag = .sweepRead)) = some i ∧
    s.sweep.reading = some (i.req.serial, e)

/-- The sweep goes past the record it examines without an offer (R161, R162). -/
def GoesPast (s : State) (r : Host.Outcome State Fault Refusal) : Prop :=
  ∃ v : State, r = .next v.sweepExamine ∧ OnlyParts s v [.issued, .sweep] ∧
    v.sweep = { s.sweep with position := s.sweep.position + 1, offer := none, reading := none }

/-- The sweep offers a unit for the record it examines (R161, R162, R164). -/
def OffersUnit (s : State) (o : Offer) (r : Host.Outcome State Fault Refusal) : Prop :=
  ∃ t : State, r = .next t ∧ OnlyParts s t [.issued, .sweep] ∧
    t.sweep = { s.sweep with offer := some o, reading := none }

/-- The aperture write a command answers is `i`, which covers the setup word at `w` and no other part that a block observes. -/
abbrev SetupWrite (s : State) (tag : Nat) (i : IssuedUp) (w : Nat) : Prop :=
  WriteDownstream s tag i ∧ i.up.tag = tag ∧ s.coversWord w i.up.req = true ∧
    (∀ v ∈ [Config.calendarOff, Config.applyOff, Config.formatOff, Config.warmOff], v ≠ w →
      s.coversWord v i.up.req = false) ∧
    s.coversSlots i.up.req = false ∧ s.coversClose i.up.req = false ∧ s.coversCancel i.up.req = false ∧
    NoOwnWriteHolds s tag ∧ (∃ o ∈ s.path.outstanding, o.tag = tag)

/-- The own write of the status word, carrying these values, is not yet answered (R170). -/
def StatusRaised (t : State) (part : PartState) (r : SetupResult) (faults : Nat) : Prop :=
  Awaits t .status Config.statusOff (.write (lanesOf (encodeStatus part r faults)))

/-- When the part state, the last setup result or the store-fault count has changed, an own write of the status word carrying all three as they now
stand is not yet answered (R170, R178). -/
def StatusShown (s t : State) : Prop :=
  (t.loader.part = s.loader.part ∧ t.loader.result = s.loader.result ∧ t.loader.faults = s.loader.faults) ∨
    ∃ tag ∈ [OwnTag.status, .startupStatus],
      Awaits t tag Config.statusOff (.write (lanesOf (encodeStatus t.loader.part t.loader.result t.loader.faults)))

/-- The setup read a command answers: `i`, of content `p`, for a request of kind `k`, with the block read so far. -/
abbrev SetupRead (s : State) (i : IssuedOwn) (k : RequestKind) (p : SetupPart) (block : Memory) : Prop :=
  s.inReset = false ∧ s.pullOwn (fun q => decide (q.tag = .setupRead)) = some i ∧
    s.loader.job = .reading k p block

/-- The Setup Loader with the first pending request begun, when no exchange is under way; a warm reset waits for its own event (R172). -/
def Loader.begun (l : Loader) : Loader :=
  match l.job, l.requests with
  | .idle, k :: rs => if k = .warmReset then l else { l with requests := rs, job := .reading k .regions [] }
  | _, _ => l

/-- A region of a table is aligned, has a count in range and ends within the aperture (R22, R171). -/
def RegionFits (t : RegionTable) (r : Region) : Prop :=
  ((t.entry r).offset % 4096 = 0 ∧ 65536 ≤ (t.entry r).offset) ∧
    ((t.entry r).count % 1024 = 0 ∧ 1024 ≤ (t.entry r).count ∧ (t.entry r).count ≤ r.maxCount) ∧
    (t.entry r).offset + (t.entry r).count * r.size ≤ 1073741824

/-- Two regions of a table share no byte. -/
def RegionsApart (t : RegionTable) (r q : Region) : Prop :=
  (t.entry r).offset + (t.entry r).count * r.size ≤ (t.entry q).offset ∨
    (t.entry q).offset + (t.entry q).count * q.size ≤ (t.entry r).offset

/-- A stream's setup fields are in range (R171 step 3). -/
def StreamFits (b : Memory) (n : Nat) : Prop :=
  (1 ≤ blockField b (65 + 4 * n) 1 ∧ blockField b (65 + 4 * n) 1 ≤ 3) ∧ blockField b (66 + 4 * n) 1 ≤ 63

/-- The fields of the class table and the limits in the order validation judges them: offset, length, lowest and highest value (R143, R171). -/
def fieldRanges : List (Nat × Nat × Nat × Nat) :=
  ((List.range 8).map (fun c =>
    [(192 + 8 * c, 1, 1, 120), (193 + 8 * c, 1, 0, 15), (194 + 8 * c, 2, 0, 1000), (196 + 8 * c, 2, 0, 50000),
      (198 + 8 * c, 1, 0, 14)])).flatten ++
  [(256, 1, 1, 40), (257, 1, 1, 30), (260, 4, 1, 9999999), (264, 1, 0, 15), (266, 2, 1, 365), (265, 1, 1, 21),
    (268, 4, 0, 100000), (272, 2, 10, 600), (274, 1, 1, 60), (275, 1, 1, 15)]

/-- A field of the block is in its range. -/
def FieldFits (b : Memory) (f : Nat × Nat × Nat × Nat) : Prop :=
  f.2.2.1 ≤ blockField b f.1 f.2.1 ∧ blockField b f.1 f.2.1 ≤ f.2.2.2

/-- The regions and the pairs of regions of a table that validation accepts. -/
def TableFits (t : RegionTable) : Prop :=
  (∀ r : Region, RegionFits t r) ∧ ∀ r q : Region, r.code < q.code → RegionsApart t r q

/-- A stream's running idle timer, or collect timer, has reached its limit under a setup (R46, R56). -/
def IdleTimerDue (x : Stream) (u : Setup) : Prop := ∃ e, x.idleTimer = some e ∧ u.limits.idleLimit ≤ e
def CollectTimerDue (x : Stream) (u : Setup) : Prop := ∃ e, x.collectTimer = some e ∧ u.limits.collectLimit ≤ e

/-- The format write a command answers: `i`, of lanes `ls`, while format stands at `f`. -/
abbrev FormatWritten (s : State) (i : IssuedOwn) (ls : List Lane) (f : Formatting) : Prop :=
  s.inReset = false ∧ s.pullOwn (fun q => decide (q.tag = .format)) = some i ∧ i.req.body = .write ls ∧
    s.loader.job = .formatting f

end Sys2Proof.Machine
end

