-- ==== Sys2Proof/Certificates/Slice0/Obligations.lean ====
section
/-! DEFINITION. The statements for the provers. Those about a command say what the state after it holds, under conditions on the state
before and the operands alone. -/

open Sys2Proof Sys2Proof.Machine

/-! ## The machine as a whole -/

/-- A step with a command waiting is that command's effect on the state with the queue's rest. -/
def Obligations.StepRunsFrontCommand : Prop :=
  ∀ (c : Instr) (cs : List Instr) (s : State), s.pending = c :: cs → step s = exec c { s with pending := cs }

/-- On an empty queue (the model's choice, log 4): every running timer measures one second more; or, when expiries are due, exactly
those join the queue. -/
def Obligations.EmptyQueueIsOneSecond : Prop :=
  ∀ s : State, s.pending = [] → StreamsSettled s →
    ((∀ n : StreamId, s.idleDue n = false ∧ s.collectDue n = false) → ∃ t : State, step s = .next t ∧
      OnlyParts s t [.streams] ∧
      ∀ n : StreamId, t.stream n =
        { s.stream n with
          idleTimer := (s.stream n).idleTimer.map (· + 1)
          collectTimer := (s.stream n).collectTimer.map (· + 1) }) ∧
    ((∃ n : StreamId, s.idleDue n = true ∨ s.collectDue n = true) → ∃ t : State, step s = .next t ∧
      OnlyParts s t [.commands] ∧
      ∀ c : Instr, c ∈ t.pending ↔ ∃ n : StreamId,
        (c = .idleExpiry n ∧ s.idleDue n = true) ∨ (c = .collectTimerExpiry n ∧ s.collectDue n = true))

/-- The machine at reset holds the values R17, R20, R36, R53, R71, R82, R83, R159 and R169 give for the release of a cold reset; that the
pin stands asserted and that memory lists nothing are the model's choices (log 1, 2). -/
def Obligations.ResetValues : Prop :=
  State.reset.inReset = true ∧ State.reset.mem = [] ∧ State.reset.pending = [] ∧ State.reset.queue = [] ∧
  (∀ n : StreamId, (State.reset.stream n).session = .off ∧ (State.reset.stream n).checkFails = 0 ∧
    (State.reset.stream n).idleTimer = none ∧ (State.reset.stream n).guardHits = 0 ∧
    (State.reset.stream n).watches = [] ∧ (State.reset.stream n).batch = .idle ∧
    (State.reset.stream n).captured = [] ∧ (State.reset.stream n).collectTimer = none ∧
    (State.reset.stream n).closedCount = 0 ∧ (State.reset.stream n).cancelAsked = false ∧
    (State.reset.stream n).answer = .empty ∧
    ∀ w : Nat, flagAt (State.reset.stream n).written w = false ∧ flagAt (State.reset.stream n).torn w = false) ∧
  State.reset.engine.running = true ∧ State.reset.engine.batch = none ∧ State.reset.engine.unit = none ∧
  State.reset.engine.inFlight = [] ∧ State.reset.engine.lastTurn = .sweep ∧
  State.reset.sweep.phase = .idle ∧ State.reset.sweep.target = 0 ∧ State.reset.sweep.position = 0 ∧
  State.reset.sweep.sweptThrough = 0 ∧ State.reset.sweep.skipped = 0 ∧ State.reset.sweep.offer = none ∧
  State.reset.sweep.stopped = false ∧
  State.reset.loader.part = .starting ∧ State.reset.loader.inForce = none ∧ State.reset.loader.today = none ∧
  State.reset.loader.requests = [] ∧
  State.reset.path.upSlot = none ∧ State.reset.path.ownSlot = none ∧ State.reset.path.holdList = [] ∧
  State.reset.path.lastGranted = .own

/-- Every step keeps memory in its canonical form. -/
def Obligations.EveryStepKeepsMemoryCanonical : Prop :=
  ∀ s t : State, MemoryCanonical s → step s = .next t → MemoryCanonical t

/-- Every step keeps the laws of the Session Table and the Watch Table: no watch unless CLAIMED, the idle timer running exactly while
CLAIMED with an IDLE batch (R46, R80); at most 8 watches, guard hits to 65,535, check failures to 15 (R11, R48, R71); no patron claimed
twice (R38); the store-fault count to 65,535 (R170). -/
def Obligations.EveryStepKeepsTheStreamLaws : Prop :=
  ∀ s t : State, StreamsSettled s ∧ StreamsBounded s ∧ ClaimsUnique s ∧ FaultsBounded s → step s = .next t →
    StreamsSettled t ∧ StreamsBounded t ∧ ClaimsUnique t ∧ FaultsBounded t

/-- The invariants hold at reset. -/
def Obligations.InvariantsHoldAtReset : Prop :=
  MemoryCanonical State.reset ∧ StreamsSettled State.reset ∧ StreamsBounded State.reset ∧
    ClaimsUnique State.reset ∧ FaultsBounded State.reset

/-! ## Layouts (sections 12.1 to 12.3) -/

/-- The records a unit writes, and the summary record, are read back as they were, and the bytes of a record that a unit does not write are those
gathered; the places of a loan list beyond its length are written absent (R27, R181). An item or hold as a unit writes it holds absent where its state's
column of R31 or R32 says so (R24). Fields are read and written least significant byte first (R181); and the bytes of a card (R28), of the session word
(R39), of the status word and of the calendar word (R158), with their codes. That the spare bytes of the session word, the status word and the summary
record are written zero is the model's (log 48). And where each field of a record stands (section 12.1), with the narrow fields and the readings of values
out of range (R25, R181); that a state byte without meaning reads AVAILABLE, FREE or IDLE, a loan list above 40 as 40, a staff bar above 1 as yes, and of a
money total the low six bytes alone where the store holds others in its upper two, is the model's (log 28). -/
def Obligations.RecordsReadBack : Prop :=
  (∀ (v : Nat) (b : Byte) (w : Work) (r : Region) (i : Option Nat) (k : Nat),
    opt4 v = (if v = 4294967295 then none else some v) ∧ opt1 b.toNat = (if b = 0xFF then none else some b.toNat) ∧
    (w.ref r i = some k ↔ i = some k ∧ k < (w.setup.regions.entry r).count)) ∧
  (∀ (bs : List Byte) (p : Patron), p = parsePatron bs →
    p.expiry = fieldAt bs 82 2 ∧ p.balance = fieldAt bs 84 4 ∧ p.loans.length = min (fieldAt bs 88 1) 40 ∧
    (∀ j < p.loans.length, p.loans[j]? = some (fieldAt bs (96 + 4 * j) 4)) ∧ p.activeHolds = fieldAt bs 89 1 ∧
    p.noShow = fieldAt bs 90 1 ∧ (p.bar = true ↔ fieldAt bs 91 1 ≠ 0) ∧ p.ban = opt4 (fieldAt bs 92 4)) ∧
  (∀ (bs : List Byte) (t : Title), t = parseTitle bs →
    t.copies.length = min (fieldAt bs 116 1) 32 ∧
    (∀ j < t.copies.length, t.copies[j]? = some (fieldAt bs (128 + 4 * j) 4)) ∧
    t.queueLen = fieldAt bs 118 1 ∧ t.first = opt4 (fieldAt bs 120 4) ∧ t.last = opt4 (fieldAt bs 124 4)) ∧
  (∀ (bs : List Byte) (c : Item), c = parseItem bs →
    c.title = fieldAt bs 0 4 ∧ c.cls = fieldAt bs 4 1 % 8 ∧ c.home = fieldAt bs 5 1 % 64 ∧
    (c.circulates = true ↔ fieldAt bs 6 1 % 2 = 1) ∧ (c.state = .onLoan ↔ fieldAt bs 8 1 = 1) ∧
    (c.state = .setAside ↔ fieldAt bs 8 1 = 2) ∧ c.loc = opt1 (fieldAt bs 9 1) ∧ c.renewals = fieldAt bs 10 1 ∧
    c.borrower = opt4 (fieldAt bs 12 4) ∧ c.due = opt4 (fieldAt bs 16 4) ∧ c.accrued = fieldAt bs 20 4 ∧
    c.charged = opt4 (fieldAt bs 24 4) ∧ c.aside = opt4 (fieldAt bs 28 4)) ∧
  (∀ (bs : List Byte) (h : Hold), h = parseHold bs →
    (∀ x : HoldState, x ≠ .free → (h.state = x ↔ fieldAt bs 0 1 = x.code)) ∧ h.pickup = fieldAt bs 1 1 ∧
    h.patron = opt4 (fieldAt bs 4 4) ∧ h.title = opt4 (fieldAt bs 8 4) ∧ h.placed = fieldAt bs 12 2 ∧
    h.suspend = opt4 (fieldAt bs 16 4) ∧ h.copy = opt4 (fieldAt bs 20 4) ∧ h.deadline = opt4 (fieldAt bs 24 4) ∧
    h.next = opt4 (fieldAt bs 28 4)) ∧
  [HoldState.free, .waiting, .suspended, .inTransit, .onShelf].map HoldState.code = [0, 1, 2, 3, 4] ∧
  (∀ (bs : List Byte) (m : Summary), m = parseSummary bs →
    m.stamp = bs.take 8 ∧ m.freeHead = opt4 (fieldAt bs 8 4) ∧ m.freeCount = fieldAt bs 12 4 ∧
    m.charged = fieldAt bs 16 6 ∧ m.paid = fieldAt bs 24 6 ∧ m.waived = fieldAt bs 32 6 ∧ m.placed = fieldAt bs 40 4 ∧
    m.collected = fieldAt bs 44 4 ∧ m.expired = fieldAt bs 48 4 ∧ m.cancelled = fieldAt bs 52 4 ∧
    m.lent = fieldAt bs 56 4 ∧ m.returned = fieldAt bs 60 4 ∧ m.renewed = fieldAt bs 64 4 ∧
    m.target = fieldAt bs 68 2 ∧ (m.phase = .items ↔ fieldAt bs 70 1 = 1) ∧ (m.phase = .holds ↔ fieldAt bs 70 1 = 2) ∧
    m.position = fieldAt bs 72 4 ∧ m.sweptThrough = fieldAt bs 76 2 ∧ m.skipped = fieldAt bs 78 2) ∧
  (∀ (bs : List Byte) (b : Byte) (off n v : Nat), fieldAt bs off n = leNat ((bs.drop off).take n) ∧ leNat [] = 0 ∧
    leNat (b :: bs) = b.toNat + 256 * leNat bs ∧ (leBytes n v).length = n ∧ leNat (leBytes n v) = v % 256 ^ n) ∧
  (∀ c : Item,
    (c.state = .available → c.written = { c with borrower := none, due := none, charged := none, aside := none }) ∧
    (c.state = .onLoan → c.written = { c with aside := none }) ∧
    (c.state = .setAside → c.written = { c with borrower := none, due := none, charged := none })) ∧
  (∀ h : Hold,
    (h.state = .free → h.written =
      { h with patron := none, title := none, suspend := none, copy := none, deadline := none }) ∧
    (h.state = .waiting → h.written = { h with suspend := none, copy := none, deadline := none }) ∧
    (h.state = .suspended → h.written = { h with copy := none, deadline := none }) ∧
    (h.state = .inTransit → h.written = { h with suspend := none, deadline := none }) ∧
    (h.state = .onShelf → h.written = { h with suspend := none })) ∧
  (∀ (w : Work) (i : Nat) (c : Item) (h : Hold),
    (w.setItem i c).item i = c.written ∧ OnlyRecords w (w.setItem i c) [.record .items i] ∧
    (w.setHold i h).hold i = h.written ∧ OnlyRecords w (w.setHold i h) [.record .holds i]) ∧
  (∀ bs : List Byte, (parseCard bs).patron = fieldAt bs 0 4 ∧
    (parseCard bs).state = if fieldAt bs 4 1 = 0 then .active else if fieldAt bs 4 1 = 1 then .lost else .withdrawn) ∧
  (∀ (part : PartState) (r : SetupResult) (faults : Nat),
    encodeStatus part r faults =
      leBytes 1 part.code ++ leBytes 1 r.code.code ++ leBytes 2 r.field ++ leBytes 2 faults ++ [0, 0]) ∧
  ([PartState.starting, .unset, .unformatted, .formatting, .ready].map PartState.code = [0, 1, 2, 3, 4] ∧
    [ResultCode.noneYet, .accepted, .outOfRange, .misaligned, .badCount, .beyondAperture, .overlap, .regionsFixed, .busy,
      .calendarBackward, .readFault, .formatFault].map ResultCode.code = [0, 1, 2, 3, 4, 5, 6, 7, 8, 9, 10, 11] ∧
    [Grade.kiosk, .desk, .supervisor].map Grade.code = [1, 2, 3]) ∧
  (∀ (s : State) (n : StreamId) (c : StreamCfg), s.cfg n = some c →
    ((s.stream n).session = .off → s.sessionWord n = [0, 0] ++ leBytes 1 c.branch ++ [0, 0xFF, 0xFF, 0xFF, 0xFF]) ∧
    ((s.stream n).session = .vacant →
      s.sessionWord n = [1] ++ leBytes 1 c.grade.code ++ leBytes 1 c.branch ++ [0, 0xFF, 0xFF, 0xFF, 0xFF]) ∧
    (∀ p, (s.stream n).session = .claimed p →
      s.sessionWord n = [2] ++ leBytes 1 c.grade.code ++ leBytes 1 c.branch ++ [0] ++ leBytes 4 p) ∧
    ((s.stream n).session = .barred →
      s.sessionWord n = [3] ++ leBytes 1 c.grade.code ++ leBytes 1 c.branch ++ [0, 0xFF, 0xFF, 0xFF, 0xFF])) ∧
  (∀ today : Nat, encodeCalendar today = leBytes 2 today ++ [0, 0, 0, 0, 0, 0]) ∧
  (∀ h : Hold, h.pickup < 256 → h.placed < 65536 →
    (∀ v ∈ [h.patron, h.title, h.suspend, h.copy, h.deadline, h.next], ∀ k, v = some k → k < Config.absent4) →
    parseHold (encodeHold h) = h ∧ (encodeHold h).length = Region.holds.size) ∧
  (∀ (raw : List Byte) (c : Item), raw.length = Region.items.size →
    c.title = (parseItem raw).title → c.cls = (parseItem raw).cls → c.home = (parseItem raw).home →
    c.circulates = (parseItem raw).circulates →
    (∀ k, c.loc = some k → k < Config.absent1) → c.renewals < 256 → c.accrued < 4294967296 →
    (∀ v ∈ [c.borrower, c.due, c.charged, c.aside], ∀ k, v = some k → k < Config.absent4) →
    parseItem (encodeItem raw c) = c ∧ (encodeItem raw c).length = Region.items.size ∧
      (encodeItem raw c).take 8 = raw.take 8) ∧
  (∀ (raw : List Byte) (p : Patron), raw.length = Region.patrons.size → p.expiry = (parsePatron raw).expiry →
    p.balance < 4294967296 → p.loans.length ≤ 40 → (∀ i ∈ p.loans, i < 4294967296) → p.activeHolds < 256 →
    p.noShow < 256 → (∀ k, p.ban = some k → k < Config.absent4) →
    parsePatron (encodePatron raw p) = p ∧ (encodePatron raw p).length = Region.patrons.size ∧
      (encodePatron raw p).take 84 = raw.take 84 ∧
      ∀ o : Nat, 96 + 4 * p.loans.length ≤ o → o < 256 → (encodePatron raw p)[o]? = some 0xFF) ∧
  (∀ (raw : List Byte) (t : Title), raw.length = Region.titles.size → t.copies = (parseTitle raw).copies →
    t.queueLen < 256 → (∀ v ∈ [t.first, t.last], ∀ k, v = some k → k < Config.absent4) →
    parseTitle (encodeTitle raw t) = t ∧ (encodeTitle raw t).length = Region.titles.size ∧
      (encodeTitle raw t).take 118 = raw.take 118 ∧ (encodeTitle raw t).drop 128 = raw.drop 128) ∧
  (∀ m : Summary, m.stamp.length = 8 → (∀ k, m.freeHead = some k → k < Config.absent4) → m.freeCount < 4294967296 →
    (∀ v ∈ [m.charged, m.paid, m.waived], v < 281474976710656) →
    (∀ v ∈ [m.placed, m.collected, m.expired, m.cancelled, m.lent, m.returned, m.renewed, m.position], v < 4294967296) →
    (∀ v ∈ [m.target, m.sweptThrough, m.skipped], v < 65536) →
    parseSummary (encodeSummary m) = m ∧ (encodeSummary m).length = 80)

/-! ## The reset pin and the start-up order -/

/-- COLD_RESET (R20): all on-chip state takes its reset values, every request in flight ends without a response, and memory keeps every byte
that no downstream write in flight covers. (The base and the two records the model keeps for itself stand until the release.) That those
three stand, and how far a write in flight got, is the model's (log 7). -/
def Obligations.ColdResetLosesAllOnChipState : Prop :=
  ∀ (landed : List Nat) (s : State), ∃ t : State, exec (.coldReset landed) s = .next t ∧
    t.inReset = true ∧ t.streams = State.reset.streams ∧ t.queue = [] ∧ t.engine = State.reset.engine ∧
    t.sweep = State.reset.sweep ∧ t.loader = State.reset.loader ∧
    t.path = { State.reset.path with returned := s.path.returned } ∧ t.base = s.base ∧ t.pending = s.pending ∧
    ∀ x : Nat, (∀ w ∈ writesInFlight s.path, x < w.1 ∨ w.1 + w.2.length ≤ x) → t.mem.read x = s.mem.read x

/-- COLD_RESET_RELEASE (R1, R178): the base is the pins' number times 1 GiB, the part is STARTING with every stream empty, and the first own
read is raised. That it is the read of the status word is the model's choice (log 16: R178 gives no order of the block's reads). Out of reset the pins
are not sampled again. -/
def Obligations.ReleaseSamplesThePins : Prop :=
  ∀ (n : Fin 16) (s : State),
    (s.inReset = true → ∃ t : State, exec (.coldResetRelease n) s = .next t ∧
      t.inReset = false ∧ t.base = n.val * 1073741824 ∧ t.mem = s.mem ∧ t.streams = State.reset.streams ∧
      t.engine = State.reset.engine ∧ t.sweep = State.reset.sweep ∧ t.queue = [] ∧ t.loader.part = .starting ∧
      t.loader.inForce = none ∧ Awaits t .startupRead Config.statusOff (.read 8) ∧ t.pending = s.pending) ∧
    (s.inReset = false → exec (.coldResetRelease n) s = .next s)

/-- STARTUP_READ_DONE on the setup block (R178 step 2): each content is read after the one before, the store-fault count is taken from the
status word; after the last, a block that fails leaves the part UNSET with the failure, and one that passes is put in force, with every
enabled stream VACANT, every other OFF, and today from the calendar word, before the format stamp is read. The
split of the block into these reads, and their order, is the model's (log 16); so are when a request left pending is begun (log 18) and the zeros in the
status word's spare bytes (log 48). -/
def Obligations.StartupReadsTheSetupBlock : Prop :=
  ∀ (s : State) (i : IssuedOwn) (st : Startup) (a : Answer) (data : List Byte) (p : SetupPart),
    AtStartup s startupReads i st → st.step = .readSetup p → s.ownData i a = some data →
    (∀ q : SetupPart, p.following = some q → ∃ t : State, exec (.startupReadDone a) s = .next t ∧
      OnlyParts s t [.issued, .raised, .loader] ∧
      t.loader =
        { s.loader with
          faults := if p = .status then blockFaults (addPart st.block p data) else s.loader.faults
          job := .startup
            { st with step := .readSetup q, retried := false, block := addPart st.block p data } } ∧
      Awaits t .startupRead q.off (.read q.len)) ∧
    (∀ r : SetupResult, p = .calendar → validate (addPart st.block p data) none = .error r →
      ∃ t : State, exec (.startupReadDone a) s = .next t ∧
        OnlyParts s t [.issued, .raised, .loader, .upstream, .streams] ∧
        t.loader = ({ s.loader with part := .unset, result := r, job := .idle } : Loader).begun ∧
        Awaits t .startupStatus Config.statusOff (.write (lanesOf (encodeStatus .unset r s.loader.faults)))) ∧
    (∀ u : Setup, p = .calendar → validate (addPart st.block p data) none = .ok u →
      ∃ t : State, exec (.startupReadDone a) s = .next t ∧
        OnlyParts s t [.issued, .raised, .loader, .streams] ∧ t.loader.part = s.loader.part ∧
        t.loader.inForce = some u ∧ t.loader.today = some (blockDay (addPart st.block p data)) ∧
        t.loader.result = ⟨.accepted, 0⟩ ∧ StatusShown s t ∧
        (∀ n : StreamId, (t.stream n).session = if (u.streams[n.val]).enable then .vacant else .off) ∧
        Awaits t .startupRead Config.summaryBase (.read 8))

/-- STARTUP_READ_DONE on the format stamp, the note and the desks (R178 step 3, R179, R180, R182): the constant goes on to the note state and any
other stamp leaves the part UNFORMATTED, with its status write; WRITTEN goes on to the note and any other state to the desk scan; an image count of 1
to 10 leads to the images, one after another, and then to the write of the first that passes its checks, each before it counted and passed over, or, when
none passes, to the write of CLEAR; the count is kept and the images are collected in the order
read; any other count, counted, leads to the write of CLEAR; a scanned desk that reads WAITING or WORKING is written FRESH
and CUT with guard-hit count 0, an unknown value is written EMPTY, each other value stands and the scan goes on, after the last desk to the session
words. When a request left pending is begun (log 18), that the note state and the four bytes behind it are read by one own request each (log 8), that the
CUT of the scan leaves the header's spare bytes, that those of the status and session words are zero (log 48), that no image is checked before all are
read (log 58), and that a desk image of no bytes passes up to run offset 272 (log 56), are the model's. -/
def Obligations.StartupReadsStampNoteAndDesks : Prop :=
  ∀ (s : State) (i : IssuedOwn) (st : Startup) (a : Answer) (data : List Byte),
    AtStartup s startupReads i st → s.ownData i a = some data →
    (st.step = .readStamp → data = Config.formatStamp → ∃ t : State, exec (.startupReadDone a) s = .next t ∧
      OnlyParts s t [.issued, .raised, .loader] ∧ Awaits t .startupRead Config.noteBase (.read 1)) ∧
    (st.step = .readStamp → data ≠ Config.formatStamp → ∃ t : State, exec (.startupReadDone a) s = .next t ∧
      OnlyParts s t [.issued, .raised, .loader, .upstream, .streams] ∧
      t.loader = ({ s.loader with part := .unformatted, job := .idle } : Loader).begun ∧
      Awaits t .startupStatus Config.statusOff
        (.write (lanesOf (encodeStatus .unformatted s.loader.result s.loader.faults)))) ∧
    (st.step = .readNoteState → data = [0x5A] → ∃ t : State, exec (.startupReadDone a) s = .next t ∧
      OnlyParts s t [.issued, .raised, .loader] ∧ Awaits t .startupRead (Config.noteBase + 1) (.read 4)) ∧
    (st.step = .readNoteState → data ≠ [0x5A] → ∃ t : State, exec (.startupReadDone a) s = .next t ∧
      OnlyParts s t [.issued, .raised, .loader] ∧
      Awaits t .startupRead (deskAddr 0 Config.answerOff) (.read 1)) ∧
    (∀ n : StreamId, st.step = .scanDesk n → (leNat data = 1 ∨ leNat data = 2) →
      ∃ t : State, exec (.startupReadDone a) s = .next t ∧
        OnlyParts s t [.issued, .raised, .loader, .streams] ∧ OnlyStreams s t [n] ∧
        (t.stream n).answer = .fresh ∧
        Awaits t (.startupWrite (some n)) (deskAddr n Config.answerOff)
          (.write (lanesOf [3, 12] ++ [noLane, noLane] ++ lanesOf [0, 0]))) ∧
    (∀ (n : StreamId) (x : AnswerState), st.step = .scanDesk n → leNat data = x.code →
      (x = .empty ∨ x = .fresh ∨ x = .seen) →
      ∃ t : State, exec (.startupReadDone a) s = .next t ∧
        OnlyParts s t [.issued, .raised, .loader, .streams] ∧ OnlyStreams s t [n] ∧
        (t.stream n).answer = x ∧
        (∀ m : StreamId, n.val + 1 = m.val →
          Awaits t .startupRead (deskAddr m Config.answerOff) (.read 1)) ∧
        (n.val = 31 → Awaits t (.startupWrite none) (deskAddr 0 Config.sessionOff) (.write (lanesOf (s.sessionWord 0))))) ∧
    (∀ n : StreamId, st.step = .scanDesk n → 4 < leNat data →
      ∃ t : State, exec (.startupReadDone a) s = .next t ∧
        OnlyParts s t [.issued, .raised, .loader, .streams] ∧ OnlyStreams s t [n] ∧
        (t.stream n).answer = .empty ∧
        Awaits t (.startupWrite (some n)) (deskAddr n Config.answerOff) (.write (lanesOf [0]))) ∧
    (st.step = .readNoteHead → 1 ≤ fieldAt data 3 1 → fieldAt data 3 1 ≤ 10 →
      ∃ t : State, exec (.startupReadDone a) s = .next t ∧ OnlyParts s t [.issued, .raised, .loader] ∧
        t.loader =
          { s.loader with job := .startup { st with step := .readImage 0, retried := false, count := fieldAt data 3 1 } } ∧
        Awaits t .startupRead (Config.noteBase + 64) (.read 384)) ∧
    (st.step = .readNoteHead → (fieldAt data 3 1 = 0 ∨ 10 < fieldAt data 3 1) →
      ∃ t : State, exec (.startupReadDone a) s = .next t ∧ OnlyParts s t [.issued, .raised, .loader] ∧
        t.loader = { oneMoreFault s.loader with job := t.loader.job } ∧ StatusShown s t ∧
        Awaits t (.startupWrite none) Config.noteBase (.write (lanesOf [0]))) ∧
    (∀ k : Nat, st.step = .readImage k → k + 1 < st.count →
      ∃ t : State, exec (.startupReadDone a) s = .next t ∧ OnlyParts s t [.issued, .raised, .loader] ∧
        t.loader =
          { s.loader with
            job := .startup
              { st with step := .readImage (k + 1), retried := false, images := st.images ++ [parseImage data] } } ∧
        Awaits t .startupRead (Config.noteBase + 64 + (k + 1) * 384) (.read 384)) ∧
    (∀ d : List Byte, (parseImage d).kind = fieldAt d 0 1 ∧ (parseImage d).run = fieldAt d 2 2 ∧
      (parseImage d).index = fieldAt d 4 4 ∧ (parseImage d).length = fieldAt d 8 2 ∧ (parseImage d).bytes = d.drop 16) ∧
    (∀ k : Nat, st.step = .readImage k → st.count ≤ k + 1 → s.loader.faults ≤ 65535 →
      (∀ (pre : List RawImage) (g : RawImage) (gs : List RawImage) (x : Target),
        st.images ++ [parseImage data] = pre ++ g :: gs → (∀ z ∈ pre, s.imageTarget z = none) → s.imageTarget g = some x →
        ∃ t : State, exec (.startupReadDone a) s = .next t ∧ ReplayWrites s t (pre.length) g x ∧
          t.loader.faults = min (s.loader.faults + pre.length) 65535 ∧ StatusShown s t ∧
          OnlyParts s t [.issued, .raised, .loader, .streams]) ∧
      ((∀ z ∈ st.images ++ [parseImage data], s.imageTarget z = none) →
        ∃ t : State, exec (.startupReadDone a) s = .next t ∧ OnlyParts s t [.issued, .raised, .loader] ∧
          t.loader.faults = min (s.loader.faults + (st.images.length + 1)) 65535 ∧ StatusShown s t ∧
          Awaits t (.startupWrite none) Config.noteBase (.write (lanesOf [0]))))

/-- STARTUP_READ_TIMEOUT (R178 to R180), and an answer of error alike: a failed read of the block leaves the part UNSET with READ_FAULT,
counted (from 0 when it is the status word); of the stamp, UNFORMATTED; a note read is tried once more and a second failure halts the engine
and stops the sweep, start-up going on to the desk scan; a failed scan is counted, leaves the on-chip answer EMPTY and memory as it was, and the scan goes
on, after the last desk to the session words. That no note read is counted (log 31), that at a halt no image read is yet checked and counted (log 58) and
a desk image of no bytes names its target up to run offset 272 (log 56), when a request left pending is begun (log 18), and the zeros in the spare bytes
of the status and session words (log 48), are the model's. -/
def Obligations.StartupReadFailures : Prop :=
  ∀ (s : State) (i : IssuedOwn) (st : Startup), AtStartup s startupReads i st →
    (∀ k : Nat, exec (.startupReadDone (.error k)) s = exec .startupReadTimeout s) ∧
    (∀ p : SetupPart, st.step = .readSetup p → ∃ t : State, exec .startupReadTimeout s = .next t ∧
      OnlyParts s t [.issued, .raised, .loader, .upstream, .streams] ∧
      t.loader =
        ({ s.loader with
          part := .unset, result := ⟨.readFault, 0⟩, job := .idle
          faults := if p = .status then 1 else satSucc s.loader.faults } : Loader).begun ∧
      Awaits t .startupStatus Config.statusOff (.write (lanesOf (encodeStatus .unset ⟨.readFault, 0⟩
        (if p = .status then 1 else satSucc s.loader.faults))))) ∧
    (st.step = .readStamp → ∃ t : State, exec .startupReadTimeout s = .next t ∧
      OnlyParts s t [.issued, .raised, .loader, .upstream, .streams] ∧
      t.loader =
        ({ s.loader with part := .unformatted, job := .idle, faults := satSucc s.loader.faults } : Loader).begun ∧
      Awaits t .startupStatus Config.statusOff
        (.write (lanesOf (encodeStatus .unformatted s.loader.result (satSucc s.loader.faults))))) ∧
    (∀ off len : Nat, noteReadOf st.step = some (off, len) → st.retried = false →
      ∃ t : State, exec .startupReadTimeout s = .next t ∧ OnlyParts s t [.issued, .raised, .loader] ∧
        t.loader = { s.loader with job := .startup { st with retried := true } } ∧
        Awaits t .startupRead off (.read len)) ∧
    (∀ off len : Nat, noteReadOf st.step = some (off, len) → st.retried = true →
      ∃ t : State, exec .startupReadTimeout s = .next t ∧
        OnlyParts s t [.issued, .raised, .loader, .engine, .sweep, .upstream] ∧ t.engine.running = false ∧
        t.engine.inFlight = st.images.filterMap s.imageTarget ∧ t.sweep.stopped = true ∧
        t.path.upIssued = s.path.upIssued.map
          (fun r => { r with touched := r.touched ++ st.images.filterMap s.imageTarget }) ∧
        t.loader.faults = s.loader.faults ∧ Awaits t .startupRead (deskAddr 0 Config.answerOff) (.read 1)) ∧
    (∀ n : StreamId, st.step = .scanDesk n → ∃ t : State, exec .startupReadTimeout s = .next t ∧
      OnlyParts s t [.issued, .raised, .loader, .streams] ∧ OnlyStreams s t [n] ∧ (t.stream n).answer = .empty ∧
      t.loader.faults = (oneMoreFault s.loader).faults ∧
      (s.loader.faults < 65535 → StatusRaised t s.loader.part s.loader.result (s.loader.faults + 1)) ∧
      (∀ m : StreamId, n.val + 1 = m.val → Awaits t .startupRead (deskAddr m Config.answerOff) (.read 1)) ∧
      (n.val = 31 → Awaits t (.startupWrite none) (deskAddr 0 Config.sessionOff) (.write (lanesOf (s.sessionWord 0)))))

/-- STARTUP_WRITE_DONE (R159, R160, R179, R180, R182): the write lands; after a replay write the next image that passes is written, each before it
counted and passed over, after the last the note state CLEAR; what is counted is shown in the status word; after CLEAR and after each answer of the scan comes the next scan; each session word is
written after the one before, and after the last the sweep is loaded from the summary against today, the part is READY and the sweep goes on. A replay
write or CLEAR answered error is raised once more, uncounted, and a second error halts the engine; another start-up write answered error is counted and
passed, the status word's neither. Last, which target an image names, and how it is written. That a replay write answered error leaves a first part
(log 6), that it is not counted and that the CLEAR of a note not replayed is treated alike (log 31), that an image whose turn has not come at a halt is
neither checked nor counted (log 58), that a desk image of no bytes passes up to run offset 272 (log 56), that an image of a card is
written with no strobe set (log 62), when the summary is read (log 32), and the zeros
in the spare bytes of the session and status words (log 48) are the model's. -/
def Obligations.StartupWritesInOrder : Prop :=
  (∀ (s : State) (i : IssuedOwn) (st : Startup) (desk : Option StreamId) (lanes : List Lane),
    AtStartup s startupWrites i st → i.req.tag = .startupWrite desk → i.req.body = .write lanes →
    (∀ k : Nat, st.step = .writeImage k → s.loader.faults ≤ 65535 →
      (∀ (pre : List RawImage) (g : RawImage) (gs : List RawImage) (x : Target),
        st.images.drop (k + 1) = pre ++ g :: gs → (∀ z ∈ pre, s.imageTarget z = none) → s.imageTarget g = some x →
        ∃ t : State, exec (.startupWriteDone .done) s = .next t ∧ ReplayWrites s t (k + 1 + pre.length) g x ∧
          t.loader.faults = min (s.loader.faults + pre.length) 65535 ∧ StatusShown s t ∧ t.mem = s.mem.writeLanes i.req.addr lanes ∧
          OnlyParts s t [.memory, .issued, .raised, .loader, .streams]) ∧
      ((∀ z ∈ st.images.drop (k + 1), s.imageTarget z = none) →
        ∃ t : State, exec (.startupWriteDone .done) s = .next t ∧
          OnlyParts s t [.memory, .issued, .raised, .loader] ∧ t.mem = s.mem.writeLanes i.req.addr lanes ∧
          t.loader.faults = min (s.loader.faults + (st.images.drop (k + 1)).length) 65535 ∧ StatusShown s t ∧
          Awaits t (.startupWrite none) Config.noteBase (.write (lanesOf [0])))) ∧
    (st.step = .clearNote → ∃ t : State, exec (.startupWriteDone .done) s = .next t ∧
      OnlyParts s t [.memory, .issued, .raised, .loader] ∧ t.mem = s.mem.writeLanes i.req.addr lanes ∧
      Awaits t .startupRead (deskAddr 0 Config.answerOff) (.read 1)) ∧
    (∀ k : Nat, (∃ j, st.step = .writeImage j) ∨ st.step = .clearNote →
      (st.retried = false → ∃ t : State, exec (.startupWriteDone (.error k)) s = .next t ∧
        t.loader = { s.loader with job := .startup { st with retried := true } } ∧
        Awaits t (.startupWrite desk) (i.req.addr - s.base) (.write lanes) ∧
        t.mem = (if st.step = .clearNote then s.mem else s.mem.land i.req.addr lanes (.error k)) ∧
        OnlyParts s t [.memory, .issued, .raised, .loader, .streams] ∧ (StreamsSettled s → SameStreams s t)) ∧
      (st.retried = true → ∃ t : State, exec (.startupWriteDone (.error k)) s = .next t ∧
        t.engine = { s.engine with running := false, inFlight := st.images.filterMap s.imageTarget } ∧
        t.sweep = { s.sweep with stopped := true, offer := none, reading := none } ∧
        t.loader = { s.loader with job := .startup { st with step := .scanDesk 0, retried := false } } ∧
        Awaits t .startupRead (deskAddr 0 Config.answerOff) (.read 1) ∧
        t.mem = (if st.step = .clearNote then s.mem else s.mem.land i.req.addr lanes (.error k)) ∧
        OnlyParts s t [.memory, .issued, .raised, .loader, .engine, .sweep, .upstream])) ∧
    (∀ n m : StreamId, st.step = .answerDesk n ∨ st.step = .writeSession n → n.val + 1 = m.val →
      (∃ t : State, exec (.startupWriteDone .done) s = .next t ∧ NextStartup t st.step s m ∧
        OnlyParts s t [.memory, .issued, .raised, .loader] ∧ t.mem = s.mem.writeLanes i.req.addr lanes ∧
        t.loader.faults = s.loader.faults) ∧
      ∀ k : Nat, ∃ t : State, exec (.startupWriteDone (.error k)) s = .next t ∧ NextStartup t st.step s m ∧
        OnlyParts s t [.issued, .raised, .loader] ∧ t.loader.faults = (oneMoreFault s.loader).faults ∧ StatusShown s t) ∧
    (st.step = .answerDesk 31 →
      (∃ t : State, exec (.startupWriteDone .done) s = .next t ∧
        Awaits t (.startupWrite none) (deskAddr 0 Config.sessionOff) (.write (lanesOf (s.sessionWord 0))) ∧
        OnlyParts s t [.memory, .issued, .raised, .loader] ∧ t.mem = s.mem.writeLanes i.req.addr lanes) ∧
      ∀ k : Nat, ∃ t : State, exec (.startupWriteDone (.error k)) s = .next t ∧
        Awaits t (.startupWrite none) (deskAddr 0 Config.sessionOff) (.write (lanesOf (s.sessionWord 0))) ∧
        OnlyParts s t [.issued, .raised, .loader] ∧ t.loader.faults = (oneMoreFault s.loader).faults ∧ StatusShown s t) ∧
    (st.step = .writeSession 31 →
      (∃ v : State, exec (.startupWriteDone .done) s = .next v.drain.sweepExamine ∧
        OnlyParts s v [.memory, .issued, .raised, .loader, .sweep] ∧ v.mem = s.mem.writeLanes i.req.addr lanes ∧
        v.loader = { s.loader with part := .ready, job := .idle } ∧ SweepLoaded s v ∧
        Awaits v .startupStatus Config.statusOff (.write (lanesOf (encodeStatus .ready s.loader.result s.loader.faults)))) ∧
      ∀ k : Nat, ∃ v : State, exec (.startupWriteDone (.error k)) s = .next v.drain.sweepExamine ∧
        OnlyParts s v [.issued, .raised, .loader, .sweep] ∧ SweepLoaded s v ∧
        v.loader = { oneMoreFault s.loader with part := .ready, job := .idle } ∧
        Awaits v .startupStatus Config.statusOff
          (.write (lanesOf (encodeStatus .ready s.loader.result (oneMoreFault s.loader).faults))) ∧
        (s.loader.faults < 65535 → StatusRaised v s.loader.part s.loader.result (s.loader.faults + 1)))) ∧
  (∀ (s : State) (i : IssuedOwn) (lanes : List Lane) (a : Answer), s.inReset = false →
    s.pullOwn startupWrites = some i → i.req.tag = .startupStatus → i.req.body = .write lanes →
    ∃ t : State, exec (.startupWriteDone a) s = .next t ∧ OnlyParts s t [.memory, .issued] ∧
      t.mem = (if answeredDone a then s.mem.writeLanes i.req.addr lanes else s.mem)) ∧
  (∀ (s : State) (g : RawImage),
    (g.kind = 6 → s.imageTarget g = some .summary) ∧
    (∀ n : StreamId, g.kind = 7 → g.index = n.val → g.run + g.length ≤ 272 → s.imageTarget g = some (.desk n)) ∧
    (∀ r : Region, g.kind = r.code → g.index < s.regionCount r → s.imageTarget g = some (.record r g.index)) ∧
    ((g.kind = 0 ∨ 7 < g.kind ∨ (g.kind = 7 ∧ (31 < g.index ∨ 272 < g.run + g.length)) ∨
      ∃ r : Region, g.kind = r.code ∧ s.regionCount r ≤ g.index) → s.imageTarget g = none) ∧
    s.replayWrite g .summary = (8192, lanesOf (g.bytes.take 80)) ∧
    (∀ n : StreamId, s.replayWrite g (.desk n) = (deskAddr n 528 + g.run, lanesOf (g.bytes.take g.length))) ∧
    (∀ (r : Region) (k : Nat), (s.replayWrite g (.record r k)).1 = s.targetOff (.record r k) ∧
      (s.replayWrite g (.record r k)).2.length = (g.bytes.take r.size).length ∧
      ∀ (o : Nat) (l : Lane), (s.replayWrite g (.record r k)).2[o]? = some l →
        g.bytes[o]? = some l.value ∧ (l.strobe = true ↔ r.fieldKind o = .guarded)))

/-! ## Requests in (chapter 1) -/

/-- UPSTREAM_REQUEST (R4, R6, R46): every accepted request, whatever becomes of it, restarts its stream's running idle timer and touches no other
stream; one whose burst would cross a 4 KiB boundary is answered error at once, reaches neither the slot nor memory and is no guard hit; while the part
is STARTING an aperture request joins the tail of the start-up hold list as it is, and the list is full with its 32nd. The data beside the error answer
of a read are free (log 33); that a request the port does not accept now changes nothing, and that after STARTING an aperture request waits for the hold list to be empty (log 11, 63), that a
burst starts at the word that holds its address (log 12), that a close or cancel in the hold list holds nothing aside yet (log 45), and that a crossing burst is answered at once also behind a close or cancel of its stream whose
response is pending (log 53), are the model's choices. And when a burst crosses (R4, section 1.1), and when the port accepts (R6, section 1.2; R17, R19,
section 1.5). -/
def Obligations.RequestsAnsweredOrHeldAtOnce : Prop :=
  (∀ r : Request, (r.crosses = true ↔
      (r.addr / 8 * 8) / 4096 ≠ (r.addr / 8 * 8 + 8 * r.words - 1) / 4096) ∧
    (r.wf = true ↔ 1 ≤ r.words ∧ r.words ≤ 16 ∧ r.lanes.length = if r.write then 8 * r.words else 0)) ∧
  (∀ (s : State) (r : Request), s.accepts r = true ↔
    s.inReset = false ∧ r.wf = true ∧ s.path.upSlot = none ∧ s.path.holdFull = false ∧
      (∀ u ∈ s.path.aside, u.req.stream ≠ r.stream) ∧ (s.loader.part = .starting ∨ s.path.holdList = [] ∨ s.inAperture r = false)) ∧
  ∀ (s : State) (r : Request),
    (s.accepts r = true → ∃ t : State, exec (.upstreamRequest r) s = .next t ∧
      OnlyParts s t [.upstream, .streams] ∧ OnlyStreams s t [r.stream] ∧
      (StreamsSettled s → { t.stream r.stream with guardHits := 0 } =
        { s.stream r.stream with
          guardHits := 0, idleTimer := (s.stream r.stream).idleTimer.map (fun _ => 0) })) ∧
    (s.accepts r = true → r.crosses = true → ∃ t : State, exec (.upstreamRequest r) s = .next t ∧
      t = (s.enter r).complete s.serial ⟨false, errorData s.serial r⟩ ∧
      Answered t s.serial ⟨false, errorData s.serial r⟩ ∧ OnlyParts s t [.upstream, .streams] ∧
      t.path.upSlot = s.path.upSlot ∧ t.path.upIssued = s.path.upIssued ∧ t.path.holdList = s.path.holdList ∧
      t.path.holdFull = s.path.holdFull ∧ t.path.aside = s.path.aside ∧
      OnlyStreams s t [r.stream] ∧ (t.stream r.stream).guardHits = (s.stream r.stream).guardHits ∧
      (StreamsSettled s → t.stream r.stream = IdleRestarted (s.stream r.stream))) ∧
    (s.accepts r = true → r.crosses = false → s.inAperture r = true → s.loader.part = .starting →
      ∃ t : State, exec (.upstreamRequest r) s = .next t ∧
        t.path.holdList = s.path.holdList ++ [⟨s.serial, r⟩] ∧
        (31 ≤ s.path.holdList.length → t.path.holdFull = true) ∧
        (s.path.holdList.length < 31 → t.path.holdFull = s.path.holdFull) ∧
        t.path.upSlot = s.path.upSlot ∧ t.path.upIssued = s.path.upIssued ∧ t.path.aside = s.path.aside ∧
        t.path.outstanding = s.path.outstanding ++ [⟨s.serial, r.stream, false, false, none⟩] ∧
        OnlyParts s t [.upstream, .streams] ∧ OnlyStreams s t [r.stream] ∧
        (StreamsSettled s → t.stream r.stream = IdleRestarted (s.stream r.stream))) ∧
    (s.accepts r = false → exec (.upstreamRequest r) s = .next s)

/-- UPSTREAM_REQUEST of a request that goes on (R5, R8, R10, R11, R19, R46): an aperture write goes to the slot with its address and length unchanged and
the lanes the Guard leaves; with no strobe left it is answered done and never goes downstream; a write that lost at least one strobed byte adds one
guard hit, saturating at 65,535. A read or a pass-through request goes to the slot as received and is no guard hit. The stream's idle timer restarts and
nothing else of its entry changes. Behind an earlier close or cancel of its stream whose response is not yet returned, a request is held aside in place
of the slot; a write is such a close or cancel when a strobe left covers the count byte of its own close word or a byte of its own cancel word (R19). A request of the start-up hold list is treated the same as it goes on (R6). That a write with no strobe left is answered at once also
behind such a close or cancel (log 53), that a held request is judged by the Guard as it is accepted, one of the start-up hold list as it goes on (log 14),
and that a close or cancel in that list holds nothing aside before it goes on (log 45), are the model's. -/
def Obligations.AcceptedRequestsGoOn : Prop :=
  (∀ (s : State) (r : Request), Admitted s r → NoClosePending s r.stream →
    (r.write = true → s.inAperture r = true →
      ∃ t : State, exec (.upstreamRequest r) s = .next t ∧ OnlyParts s t [.upstream, .streams] ∧
        OnlyStreams s t [r.stream] ∧ t.path.upIssued = s.path.upIssued ∧
        (t.stream r.stream).guardHits =
          (if s.losesByte r then min ((s.stream r.stream).guardHits + 1) 65535
            else (s.stream r.stream).guardHits) ∧
        (StreamsSettled s → t.stream r.stream =
          { IdleRestarted (s.stream r.stream) with guardHits := (t.stream r.stream).guardHits }) ∧
        ((s.guardLanes r).any (·.strobe) = true →
          t.path.upSlot = some ⟨s.serial, { r with lanes := s.guardLanes r }⟩) ∧
        ((s.guardLanes r).any (·.strobe) = false →
          t.path.upSlot = none ∧ Answered t s.serial ⟨true, []⟩)) ∧
    ((r.write = false ∨ s.inAperture r = false) →
      ∃ t : State, exec (.upstreamRequest r) s = .next t ∧
        t.path.upSlot = some ⟨s.serial, r⟩ ∧ t.path.upIssued = s.path.upIssued ∧
        OnlyParts s t [.upstream, .streams] ∧ OnlyStreams s t [r.stream] ∧
        (t.stream r.stream).guardHits = (s.stream r.stream).guardHits ∧
        (StreamsSettled s → t.stream r.stream = IdleRestarted (s.stream r.stream)))) ∧
  (∀ (s : State) (r : Request), Admitted s r →
    exec (.upstreamRequest r) s = .next ((s.enter r).admitReq ⟨s.serial, r⟩)) ∧
  (∀ (s : State) (r : Request), (s.enter r).serial = s.serial + 1 ∧
    (s.enter r).path = { s.path with outstanding := s.path.outstanding ++ [⟨s.serial, r.stream, false, false, none⟩] }) ∧
  (∀ (s : State) (u : UpReq),
    (u.req.write = true → s.inAperture u.req = true → OnlyParts s (s.admitReq u) [.upstream, .streams] ∧
      OnlyStreams s (s.admitReq u) [u.req.stream] ∧
      ((s.admitReq u).stream u.req.stream).guardHits =
        (if s.losesByte u.req then min ((s.stream u.req.stream).guardHits + 1) 65535
          else (s.stream u.req.stream).guardHits) ∧
      ((s.guardLanes u.req).any (·.strobe) = true →
        (∀ c : Bool, (c = true ↔ ∃ (j a : Nat) (l : Lane), (s.guardLanes u.req)[j]? = some l ∧ l.strobe = true ∧
            s.base + a = u.req.start + j ∧ (a = deskAddr u.req.stream 512 ∨
              (deskAddr u.req.stream 520 ≤ a ∧ a < deskAddr u.req.stream 528))) →
          (s.admitReq u).path.outstanding =
            s.path.outstanding.map (fun o => if o.tag = u.tag then { o with closes := c } else o)) ∧
        (s.closePending u = false → (s.admitReq u).path.upSlot = some { u with req := { u.req with lanes := s.guardLanes u.req } } ∧
          (s.admitReq u).path.aside = s.path.aside) ∧
        (s.closePending u = true → (s.admitReq u).path.upSlot = s.path.upSlot ∧
          (s.admitReq u).path.aside = s.path.aside ++ [{ u with req := { u.req with lanes := s.guardLanes u.req } }])) ∧
      ((s.guardLanes u.req).any (·.strobe) = false → (s.admitReq u).path.upSlot = s.path.upSlot ∧
        (s.admitReq u).path.aside = s.path.aside ∧
        (∀ o ∈ (s.admitReq u).path.outstanding, o.closes = true →
          ∃ p ∈ s.path.outstanding, p.tag = o.tag ∧ p.stream = o.stream ∧ p.closes = true) ∧
        ((∃ o ∈ s.path.outstanding, o.tag = u.tag) → Answered (s.admitReq u) u.tag ⟨true, []⟩))) ∧
    ((u.req.write = false ∨ s.inAperture u.req = false) →
      (s.closePending u = false → s.admitReq u = { s with path := { s.path with upSlot := some u } }) ∧
      (s.closePending u = true → s.admitReq u = { s with path := { s.path with aside := s.path.aside ++ [u] } })) ∧
    (s.closePending u = true ↔
      ∃ o ∈ s.path.outstanding, o.stream = u.req.stream ∧ o.closes = true ∧ o.tag < u.tag))

/-- The classes of the aperture (R2, R3); the Guard's table (R7, R8) for one strobed byte, by class, by the stream's standing and by part state; and
what goes downstream (R9): a byte that passes goes as written, a lost byte loses its strobe, and a mark byte keeps its strobe with value zero exactly
when another strobed byte of the same record passes. Where records are writable a mark byte is never a lost byte (R11); that in UNSET and FORMATTING it is
lost like every byte of a record, R7 taken before R9, is the model's choice (log 52). For the Guard an OFF or BARRED stream has no grade (section 1.3); and
which bytes of each record are plain, guarded and mark (section 12.1). -/
def Obligations.GuardTable : Prop :=
  (∀ (s : State) (n : StreamId),
    (((s.stream n).session = .off ∨ (s.stream n).session = .barred) → s.guardGrade n = none) ∧
    ((s.stream n).session ≠ .off → (s.stream n).session ≠ .barred →
      s.guardGrade n = (s.cfg n).map (fun c => c.grade))) ∧
  (∀ o : Nat,
    (Region.patrons.fieldKind o = .mark ↔ o = 81) ∧ (Region.patrons.fieldKind o = .guarded ↔ 84 ≤ o) ∧
    (Region.cards.fieldKind o = .mark ↔ o = 5) ∧ Region.cards.fieldKind o ≠ .guarded ∧
    (Region.titles.fieldKind o = .mark ↔ o = 117) ∧ (Region.titles.fieldKind o = .guarded ↔ 118 ≤ o ∧ o < 128) ∧
    (Region.items.fieldKind o = .mark ↔ o = 7) ∧ (Region.items.fieldKind o = .guarded ↔ 8 ≤ o) ∧
    (Region.holds.fieldKind o = .mark ↔ o = 2) ∧ (Region.holds.fieldKind o = .guarded ↔ o ≠ 2)) ∧
  (∀ (t : Option RegionTable) (a : Nat),
    ((a < 3840 ∨ (3880 ≤ a ∧ a < 4096)) → classify t a = .setup .other) ∧
    (3840 ≤ a → a < 3848 → classify t a = .setup .calendar) ∧ (3848 ≤ a → a < 3856 → classify t a = .setup .apply) ∧
    (3856 ≤ a → a < 3864 → classify t a = .setup .format) ∧ (3864 ≤ a → a < 3872 → classify t a = .setup .warmReset) ∧
    (3872 ≤ a → a < 3880 → classify t a = .setup .status) ∧ (4096 ≤ a → a < 8192 → classify t a = .note) ∧
    (8192 ≤ a → a < 16384 → classify t a = .summary) ∧
    (∀ (n : StreamId) (d : Nat), a = 16384 + 1024 * n.val + d →
      (d < 512 → classify t a = .desk n (.slot (d / 32))) ∧ (512 ≤ d → d < 520 → classify t a = .desk n .closeWord) ∧
      (520 ≤ d → d < 528 → classify t a = .desk n .cancelWord) ∧ (528 ≤ d → d < 800 → classify t a = .desk n .answer) ∧
      (800 ≤ d → d < 808 → classify t a = .desk n .session) ∧ (808 ≤ d → d < 1024 → classify t a = .desk n .spare)) ∧
    (49152 ≤ a → t = none → classify t a = .spare) ∧
    (∀ u : RegionTable, 49152 ≤ a → t = some u →
      ((∀ r : Region, a < (u.entry r).offset ∨ (u.entry r).offset + (u.entry r).count * r.size ≤ a) →
        classify t a = .spare) ∧
      (TableFits u → ∀ (r : Region) (k o : Nat), k < (u.entry r).count → o < r.size →
        a = (u.entry r).offset + k * r.size + o → classify t a = .record r k o))) ∧
  (∀ (s : State) (n : StreamId) (a : Nat),
    (∀ w : SetupWord, classify s.regions a = .setup w → w ≠ .status →
      s.verdict n a = if s.loader.part = .unset ∨ s.guardGrade n = some .supervisor then .pass none else .lost) ∧
    ((classify s.regions a = .setup .status ∨ classify s.regions a = .note ∨ classify s.regions a = .summary ∨
      classify s.regions a = .spare) → s.verdict n a = .lost) ∧
    (∀ (m : StreamId) (p : DeskPart), classify s.regions a = .desk m p →
      (s.loader.part ≠ .unset → m = n → ((∃ k, p = .slot k) ∨ p = .closeWord ∨ p = .cancelWord) →
        s.verdict n a = .pass none) ∧
      ((s.loader.part = .unset ∨ m ≠ n ∨ p = .answer ∨ p = .session ∨ p = .spare) → s.verdict n a = .lost)) ∧
    (∀ (r : Region) (k o : Nat), classify s.regions a = .record r k o →
      (s.loader.part = .unset ∨ s.loader.part = .formatting → s.verdict n a = .lost) ∧
      (s.loader.part ≠ .unset → s.loader.part ≠ .formatting →
        (r.fieldKind o = .guarded → s.verdict n a = .lost) ∧
        (r.fieldKind o = .mark → s.verdict n a = .mark r k) ∧
        (r.fieldKind o = .plain → s.verdict n a =
          if s.guardGrade n = some .desk ∨ s.guardGrade n = some .supervisor then .pass (some (r, k))
          else .lost)))) ∧
  (∀ (s : State) (r : Request) (j : Nat) (l : Lane), r.lanes[j]? = some l →
    (∀ v, s.verdict r.stream (r.start - s.base + j) = .pass v → (s.guardLanes r)[j]? = some l) ∧
    (s.verdict r.stream (r.start - s.base + j) = .lost →
      (s.guardLanes r)[j]? = some { l with strobe := false }) ∧
    (∀ (q : Region) (k : Nat), s.verdict r.stream (r.start - s.base + j) = .mark q k →
      ((∃ (i : Nat) (x : Lane), r.lanes[i]? = some x ∧ x.strobe = true ∧
          s.verdict r.stream (r.start - s.base + i) = .pass (some (q, k))) →
        (s.guardLanes r)[j]? = some { strobe := l.strobe, value := 0 }) ∧
      ((∀ (i : Nat) (x : Lane), r.lanes[i]? = some x → x.strobe = true →
          s.verdict r.stream (r.start - s.base + i) ≠ .pass (some (q, k))) →
        (s.guardLanes r)[j]? = some { l with strobe := false }))) ∧
  (∀ (s : State) (r : Request), s.losesByte r = true ↔ ∃ (j : Nat) (l : Lane), r.lanes[j]? = some l ∧
    l.strobe = true ∧ s.verdict r.stream (r.start - s.base + j) = .lost)

/-! ## The downstream port -/

/-- ARBITER_GRANT (R17, R18): when only one slot holds a request it is issued; when both do, the kind not last granted; the request issued leaves its slot,
and the own slot takes the earliest-raised own request held. What waits for the upstream slot then goes on, which disturbs no response already given, no own
request and no other part: nothing while the slot is taken; then the first request held aside whose close or cancel has its response (R19), before the
start-up hold list; then, after STARTING, that list in its order, a request behind one of its stream held aside waiting with all after it (R6). That the kind
issued becomes the last granted without contention too (log 34), that memory as it stands at the issue is kept for the read's data (log 5), and that a
request held aside goes before the hold list (log 46) are the model's. At a read's issue are recorded whether an answer write of its stream is raised and
unanswered, and how many were raised (R67; the count is the model's form, log 39). -/
def Obligations.ArbiterAlternates : Prop :=
  (∀ s : State, s.inReset = false →
    (∀ u : UpReq, s.path.upSlot = some u → (s.path.ownSlot = none ∨ s.path.lastGranted = .own) →
      ∃ (v : State) (i : IssuedUp), exec .arbiterGrant s = .next v.drain ∧ v.path.upIssued = s.path.upIssued ++ [i] ∧
        i.up = u ∧ i.touched = s.engine.inFlight ∧
        i.answersAtIssue = (s.stream u.req.stream).answersRaised ∧
        (i.answerPending = true ↔ ∃ q ∈ s.ownWaiting, q.tag.answerOf = some u.req.stream) ∧
        (u.req.write = false → i.snapshot = s.mem.bytes u.req.start (8 * u.req.words)) ∧ v.path.upSlot = none ∧
        v.path.ownIssued = s.path.ownIssued ∧ v.path.lastGranted = .upstream ∧
        OnlyParts s v [.upstream, .issued, .raised]) ∧
    (∀ q : OwnReq, s.path.ownSlot = some q → (s.path.upSlot = none ∨ s.path.lastGranted = .upstream) →
      ∃ (v : State) (i : IssuedOwn), exec .arbiterGrant s = .next v.drain ∧ v.path.ownIssued = s.path.ownIssued ++ [i] ∧
        i.req = q ∧ i.touched = s.engine.inFlight ∧
        (∀ len : Nat, q.body = .read len → i.snapshot = s.mem.bytes q.addr len) ∧
        v.path.upIssued = s.path.upIssued ∧ v.path.lastGranted = .own ∧
        (∀ (p : OwnReq) (ps : List OwnReq), s.path.raised = p :: ps →
          v.path.ownSlot = some p ∧ v.path.raised = ps) ∧
        (s.path.raised = [] → v.path.ownSlot = none ∧ v.path.raised = []) ∧
        OnlyParts s v [.issued, .raised])) ∧
  (∀ (n : StreamId) (d : Option StreamId) (g : OwnTag),
    (g ∈ [OwnTag.answer n, .working n, .seen n, .haltAnswer n] → g.answerOf = some n) ∧
    (g ∈ [OwnTag.image d, .startupWrite d] → g.answerOf = d) ∧
    (g ∈ [OwnTag.note, .written, .clear, .sessionWord n, .status, .startupStatus, .calendar, .format] →
      g.answerOf = none)) ∧
  (∀ s : State, OnlyParts s s.drain [.upstream, .streams] ∧ s.drain.path.upIssued = s.path.upIssued ∧
    (∀ (tag : Nat) (a : UpAnswer), (∀ u ∈ s.path.holdList, u.tag ≠ tag) → Answered s tag a → Answered s.drain tag a) ∧
    (∀ n : StreamId, (s.drain.stream n).session = (s.stream n).session ∧
      (s.drain.stream n).batch = (s.stream n).batch ∧ (s.drain.stream n).answer = (s.stream n).answer) ∧
    (∀ u : UpReq, s.path.upSlot = some u → s.drain.path.upSlot = some u ∧ s.drain.path.aside = s.path.aside ∧
      s.drain.path.holdList = s.path.holdList) ∧
    (∀ u : UpReq, s.path.upSlot = none → s.path.aside.find? (fun v => !s.closePending v) = some u →
      s.drain.path.upSlot = some u ∧ s.drain.path.aside = s.path.aside.filter (fun v => decide (v.tag ≠ u.tag)) ∧
      s.drain.path.holdList = s.path.holdList) ∧
    (s.path.upSlot = none → (∀ v ∈ s.path.aside, s.closePending v = true) →
      (s.loader.part = .starting → s.drain = s) ∧
      (s.loader.part ≠ .starting →
        (s.path.holdList = [] → s.drain = { s with path := { s.path with holdFull := false } }) ∧
        (∀ (u : UpReq) (us : List UpReq), s.path.holdList = u :: us →
          ((∃ v ∈ s.path.aside, v.req.stream = u.req.stream) → s.drain = s) ∧
          (∀ v : State, (∀ x ∈ s.path.aside, x.req.stream ≠ u.req.stream) →
            v = { s.admitReq u with path := { (s.admitReq u).path with holdList := us } } →
            (∀ x ∈ v.path.aside, v.closePending x = true) → s.drain = v.drain)))))

/-- PASS_THROUGH_RESPONSE (R5): the response goes upstream as received, with the data as received; a write answered done stands in memory; the
blocks beside the path see nothing. What memory holds of a write answered error (log 6) and the data beside a read's error answer (log 33) are the
model's. What waited for the slot then goes on. And how every response is returned (R17): of each stream's requests, in the order accepted, those
before the first that has no response leave, their responses join what was returned in that order, and no other stream is waited for. -/
def Obligations.PassThroughReturnsAsReceived : Prop :=
  (∀ (s : State) (tag : Nat) (a : UpAnswer), s.complete tag a =
    (s.updOutstanding tag (fun o => { o with answer := some a })).flush) ∧
  (∀ s : State, OnlyParts s s.flush [.upstream] ∧ s.flush.path.upSlot = s.path.upSlot ∧
    s.flush.path.holdList = s.path.holdList ∧ s.flush.path.holdFull = s.path.holdFull ∧
    s.flush.path.aside = s.path.aside ∧ s.flush.path.upIssued = s.path.upIssued ∧
    ∀ n : StreamId, ∃ pre post : List Outstanding,
      s.path.outstanding.filter (fun o => decide (o.stream = n)) = pre ++ post ∧
      s.flush.path.outstanding.filter (fun o => decide (o.stream = n)) = post ∧
      (∀ o ∈ pre, o.answer.isSome = true) ∧ (∀ o : Outstanding, post.head? = some o → o.answer = none) ∧
      s.flush.path.returned.filter (fun x => decide (x.stream = n)) =
        s.path.returned.filter (fun x => decide (x.stream = n)) ++
          pre.filterMap (fun o => o.answer.map (fun a => (⟨o.tag, o.stream, a⟩ : Returned)))) ∧
  ∀ (s : State) (tag : Nat) (i : IssuedUp) (a : Answer), s.inReset = false → s.findUp tag = some i →
    s.inAperture i.up.req = false → i.up.tag = tag →
    ∃ v : State, exec (.passThroughResponse tag a) s = .next v.drain ∧ OnlyParts s v [.upstream, .memory] ∧
      (i.up.req.write = true → v.mem = s.mem.land i.up.req.start i.up.req.lanes a) ∧
      (i.up.req.write = false → v.mem = s.mem) ∧
      (∀ j ∈ v.path.upIssued, j.up.tag ≠ tag) ∧
      ((∃ o ∈ s.path.outstanding, o.tag = tag) →
        (i.up.req.write = true → Answered v tag ⟨answeredDone a, []⟩) ∧
        (i.up.req.write = false → ∀ d : List Byte,
          readData s.mem i.up.req.start (8 * i.up.req.words) i.snapshot a = some d → Answered v tag ⟨true, d⟩) ∧
        (i.up.req.write = false → ∀ k : Nat, a = .error k →
          Answered v tag ⟨false, errorData tag i.up.req⟩))

/-- APERTURE_WRITE_RESPONSE (R10, R12): a write to parts no block observes, answered done, stands in memory byte for byte as its lanes give and
is answered done; answered error, it is answered error. ENTRY_SLOT_WRITE, CLOSE and CANCEL answered error are handed to no block and answered error
alike. Nothing on chip changes. What memory holds of a write answered error is the model's (log 6). -/
def Obligations.ApertureWriteStandsInMemory : Prop :=
  (∀ (s : State) (tag : Nat) (i : IssuedUp) (a : Answer), WriteDownstream s tag i → i.up.tag = tag →
    s.observed i.up.req = false → NoOwnWriteHolds s tag → MemoryCanonical s →
    ∃ v : State, exec (.apertureWriteResponse tag a) s = .next v.drain ∧ OnlyParts s v [.upstream, .memory] ∧
      v.mem = s.mem.land i.up.req.start i.up.req.lanes a ∧
      SameMemoryOutside s v i.up.req.start i.up.req.lanes.length ∧
      (∀ (j : Nat) (l : Lane), answeredDone a = true → i.up.req.lanes[j]? = some l →
        v.mem.read (i.up.req.start + j) =
          if l.strobe then l.value else s.mem.read (i.up.req.start + j)) ∧
      ((∃ o ∈ s.path.outstanding, o.tag = tag) → Answered v tag ⟨answeredDone a, []⟩)) ∧
  (∀ (s : State) (tag k : Nat) (i : IssuedUp) (c : Instr) (about : State → Request → Bool), WriteDownstream s tag i →
    i.up.tag = tag →
    (c, about) ∈ [(Instr.entrySlotWrite tag (.error k), State.coversSlots), (.closeWord tag (.error k), State.coversClose),
      (.cancelWord tag (.error k), State.coversCancel)] →
    about s i.up.req = true →
    ∃ v : State, exec c s = .next v.drain ∧ OnlyParts s v [.upstream, .memory] ∧
      v.mem = s.mem.land i.up.req.start i.up.req.lanes (.error k) ∧
      ((∃ o ∈ s.path.outstanding, o.tag = tag) → Answered v tag ⟨false, []⟩))

/-! ## Reads of the aperture -/

/-- READ_DATA_ARRIVAL (R13, R14, R16): the data go upstream with the marks substituted and the fields masked, after the records whose mark byte they cover,
in ascending order and no others, were handed to the Watch Table, each with whether it was STALE; a read answered error returns error with every byte zero
and hands over nothing. Each byte returned answers the byte of memory at its own address: at a record's mark offset the code of the record's mark, in other
classes the byte itself. That the data are those memory holds at the arrival or held at the issue, as the answer says (log 5), and that the region
table is the one in force at the arrival (log 57), are the model's. -/
def Obligations.ReadIsMarkedAndMasked : Prop :=
  (∀ (s : State) (tag : Nat) (i : IssuedUp) (a : Answer), ReadDownstream s tag i → i.up.tag = tag →
    s.coversAnswerState i.up.req = false → (∃ o ∈ s.path.outstanding, o.tag = tag) →
    (∀ d : List Byte, readData s.mem i.up.req.start (8 * i.up.req.words) i.snapshot a = some d →
      ∃ v : State, exec (.readDataArrival tag a) s = .next v.drain ∧
        Answered v tag ⟨true, s.returnedFrom i.up.req.stream i.up.req.start d i.touched (i.up.req.start - s.base) d⟩ ∧
        OnlyParts s v [.upstream, .streams] ∧
        v.streams = ((s.markedRecords (i.up.req.start - s.base) d).foldl
          (fun u x => u.handOffRecord i.up.req.stream (u.isStale i.touched x.1 x.2) x) s).streams) ∧
    (∀ k : Nat, a = .error k → ∃ v : State, exec (.readDataArrival tag a) s = .next v.drain ∧
      Answered v tag ⟨false, zeros (8 * i.up.req.words)⟩ ∧ OnlyParts s v [.upstream])) ∧
  (∀ (m : Memory) (start len : Nat) (snap : List Byte) (k : Nat), readData m start len snap .done = some (m.bytes start len) ∧
    readData m start len snap .doneAsIssued = some snap ∧ readData m start len snap (.error k) = none) ∧
  (∀ (s : State) (n : StreamId) (start : Nat) (data : List Byte) (touched : List Target) (off : Nat) (bs : List Byte),
    (s.returnedFrom n start data touched off bs).length = bs.length ∧
    ∀ (j : Nat) (b : Byte), bs[j]? = some b →
      (s.returnedFrom n start data touched off bs)[j]? = some (s.returnedByte n start data touched (off + j) b)) ∧
  (∀ (s : State) (n : StreamId) (start : Nat) (data : List Byte) (touched : List Target) (a : Nat) (b : Byte),
    (∀ r k, classify s.regions a = .record r k r.markOff → s.returnedByte n start data touched a b =
      match s.markOf n start data touched r k with
      | .clear => 1
      | .stale => 2
      | .elsewhere => 3
      | .masked => 4) ∧
    ((∀ r k o, classify s.regions a ≠ .record r k o) → s.returnedByte n start data touched a b = b)) ∧
  (∀ r : Region, r.markOff = match r with | .patrons => 81 | .cards => 5 | .titles => 117 | .items => 7 | .holds => 2) ∧
  (∀ (s : State) (off : Nat) (bs : List Byte), s.markedRecords off bs =
    (List.range bs.length).filterMap (fun j =>
      match classify s.regions (off + j) with
      | .record r k o => if o = r.markOff then some (r, k) else none
      | _ => none)) ∧
  (∀ (s : State) (touched : List Target) (r : Region) (k : Nat),
    s.isStale touched r k = true ↔ (s.loader.part = .formatting ∨ Target.record r k ∈ touched))

/-- The mark of a record (R14): STALE, ELSEWHERE, MASKED, CLEAR, the first that holds; `touched` are the records the in-flight set held at some
moment from the read's issue to the arrival of its data. And when R15 replaces a field of the record. That a borrower or patron field the burst does not
cover is judged as memory holds it at the arrival (log 15), and that the record's place is by the region table in force then (log 57), are the
model's reading. -/
def Obligations.MarkOrder : Prop :=
  (∀ (s : State) (n : StreamId) (start : Nat) (data : List Byte) (r : Region) (k : Nat),
    s.replaces n start data r k = true ↔
      (((s.stream n).session = .off ∨ ∃ c, s.cfg n = some c ∧ c.grade = .kiosk) ∧
        ((r = .patrons ∧ (s.stream n).session ≠ .claimed k) ∨ r = .cards ∨
          ∃ f p : Nat, ((r = .items ∧ f = 12) ∨ (r = .holds ∧ f = 4)) ∧
            s.seenOpt start data (s.base + s.targetOff (.record r k) + f) = some p ∧
            (s.stream n).session ≠ .claimed p))) ∧
  ∀ (s : State) (n : StreamId) (start : Nat) (data : List Byte) (touched : List Target) (r : Region) (k : Nat),
    ((s.loader.part = .formatting ∨ .record r k ∈ touched) → s.markOf n start data touched r k = .stale) ∧
    (s.loader.part ≠ .formatting → .record r k ∉ touched →
      (r = .patrons → (∃ m : StreamId, m ≠ n ∧ (s.stream m).session = .claimed k) →
        s.markOf n start data touched r k = .elsewhere) ∧
      ((r ≠ .patrons ∨ ∀ m : StreamId, m ≠ n → (s.stream m).session ≠ .claimed k) →
        s.markOf n start data touched r k = if s.replaces n start data r k then .masked else .clear))

/-- Masking (R15): what is returned for each byte of a record, for a reader that is OFF or of grade KIOSK and for one that is not. That the region table
is the one in force at the arrival is the model's (log 57). -/
def Obligations.MaskedFields : Prop :=
  ∀ (s : State) (n : StreamId) (start : Nat) (data : List Byte) (touched : List Target) (a : Nat) (b : Byte)
    (r : Region) (k o : Nat), classify s.regions a = .record r k o → o ≠ r.markOff →
    ((s.stream n).session ≠ .off → (∀ c, s.cfg n = some c → c.grade ≠ .kiosk) →
      s.returnedByte n start data touched a b = b) ∧
    (((s.stream n).session = .off ∨ ∃ c, s.cfg n = some c ∧ c.grade = .kiosk) →
      (r = .cards → s.returnedByte n start data touched a b = 0) ∧
      (r = .titles → s.returnedByte n start data touched a b = b) ∧
      (r = .patrons → s.returnedByte n start data touched a b =
        if o < 80 ∧ (s.stream n).session ≠ .claimed k then 0 else b) ∧
      (∀ f : Nat, ((r = .items ∧ f = 12) ∨ (r = .holds ∧ f = 4)) →
        (∀ p : Nat, f ≤ o → o < f + 4 → s.seenOpt start data (s.base + s.targetOff (.record r k) + f) = some p →
          (s.stream n).session ≠ .claimed p → s.returnedByte n start data touched a b = 0xFF) ∧
        ((o < f ∨ f + 4 ≤ o ∨ s.seenOpt start data (s.base + s.targetOff (.record r k) + f) = none ∨
            ∃ p : Nat, s.seenOpt start data (s.base + s.targetOff (.record r k) + f) = some p ∧
              (s.stream n).session = .claimed p) →
          s.returnedByte n start data touched a b = b)))

/-- ANSWER_STATE_READ (R12, R67): the answer becomes SEEN, on chip and by an own write of the answer-state field alone, when Desk Capture acts (READY,
UNFORMATTED, FORMATTING), the data show FRESH, the on-chip answer is FRESH at the arrival, and no answer write of the stream was unanswered at the read's
issue or raised since; otherwise no answer state changes. Either way the read is answered with its data, which hold nothing marked or masked where the burst
covers no record; answered error, it returns error with every byte zero and changes nothing. And the attention line (R68): high in READY and FORMATTING while
an enabled stream with attention enabled has on-chip answer FRESH. -/
def Obligations.OwnersReadMakesSeen : Prop :=
  (∀ (s : State) (tag : Nat) (i : IssuedUp) (a : Answer), ReadDownstream s tag i → i.up.tag = tag →
    s.coversAnswerState i.up.req = true → (∃ o ∈ s.path.outstanding, o.tag = tag) →
    (∀ d : List Byte, readData s.mem i.up.req.start (8 * i.up.req.words) i.snapshot a = some d →
      ∃ v : State, exec (.answerStateRead tag a) s = .next v.drain ∧ OnlyParts s v [.upstream, .raised, .streams] ∧
        Answered v tag ⟨true, s.returnedFrom i.up.req.stream i.up.req.start d i.touched (i.up.req.start - s.base) d⟩ ∧
        ((∀ j < d.length, ∀ r k o, classify s.regions (i.up.req.start - s.base + j) ≠ .record r k o) →
          s.returnedFrom i.up.req.stream i.up.req.start d i.touched (i.up.req.start - s.base) d = d ∧
          OnlyStreams s v [i.up.req.stream] ∧
          (StreamsSettled s → { v.stream i.up.req.stream with answer := .empty, answersRaised := 0 } =
            { s.stream i.up.req.stream with answer := .empty, answersRaised := 0 })) ∧
        ((s.loader.part = .ready ∨ s.loader.part = .unformatted ∨ s.loader.part = .formatting) →
          (s.stream i.up.req.stream).answer = .fresh →
          d.getD (s.base + deskAddr i.up.req.stream Config.answerOff - i.up.req.start) 0 = 3 →
          i.answerPending = false → (s.stream i.up.req.stream).answersRaised = i.answersAtIssue →
          (v.stream i.up.req.stream).answer = .seen ∧
            Awaits v (.seen i.up.req.stream) (deskAddr i.up.req.stream Config.answerOff) (.write (lanesOf [4]))) ∧
        ((s.loader.part = .unset ∨ s.loader.part = .starting ∨ (s.stream i.up.req.stream).answer ≠ .fresh ∨
            d.getD (s.base + deskAddr i.up.req.stream Config.answerOff - i.up.req.start) 0 ≠ 3 ∨
            i.answerPending = true ∨ (s.stream i.up.req.stream).answersRaised ≠ i.answersAtIssue) →
          (∀ n : StreamId, (v.stream n).answer = (s.stream n).answer) ∧ OnlyParts s v [.upstream, .streams])) ∧
    (∀ k : Nat, a = .error k → ∃ v : State, exec (.answerStateRead tag a) s = .next v.drain ∧
      Answered v tag ⟨false, zeros (8 * i.up.req.words)⟩ ∧ OnlyParts s v [.upstream])) ∧
  (∀ s : State, s.attentionLine = true ↔ (s.loader.part = .ready ∨ s.loader.part = .formatting) ∧
    ∃ (n : StreamId) (c : StreamCfg), s.cfg n = some c ∧ c.enable = true ∧ c.attention = true ∧ (s.stream n).answer = .fresh)

/-! ## Watches (chapter 5) -/

/-- A hand-off of the Mark Unit (R72, R73): of an item, a title or the claimed patron to a CLAIMED stream, it moves the watch held on the record
to the newest end, or opens one there, the oldest removed first from a full list; its condition is SPOILED when the hand-off was STALE and
UNSPOILED otherwise. Any other hand-off does nothing. -/
def Obligations.HandOffOpensOrRefreshesAWatch : Prop :=
  ∀ (s : State) (n : StreamId) (stale : Bool) (r : Region) (k : Nat),
    (∀ p : Nat, (s.stream n).session = .claimed p → (r = .items ∨ r = .titles ∨ (r = .patrons ∧ k = p)) →
      OnlyParts s (s.handOffRecord n stale (r, k)) [.streams] ∧
      OnlyStreams s (s.handOffRecord n stale (r, k)) [n] ∧
      ((∃ w ∈ (s.stream n).watches, w.region = r ∧ w.index = k) →
        ((s.handOffRecord n stale (r, k)).stream n).watches =
          (s.stream n).watches.filter (fun w => decide (¬(w.region = r ∧ w.index = k))) ++
            [⟨r, k, if stale then .spoiled else .unspoiled⟩]) ∧
      ((∀ w ∈ (s.stream n).watches, ¬(w.region = r ∧ w.index = k)) →
        ((s.stream n).watches.length < 8 →
          ((s.handOffRecord n stale (r, k)).stream n).watches =
            (s.stream n).watches ++ [⟨r, k, if stale then .spoiled else .unspoiled⟩]) ∧
        ((s.stream n).watches.length = 8 →
          ((s.handOffRecord n stale (r, k)).stream n).watches =
            (s.stream n).watches.tail ++ [⟨r, k, if stale then .spoiled else .unspoiled⟩]))) ∧
    (((∀ p : Nat, (s.stream n).session ≠ .claimed p) ∨ r = .cards ∨ r = .holds ∨
        (r = .patrons ∧ (s.stream n).session ≠ .claimed k)) → s.handOffRecord n stale (r, k) = s)

/-! ## Desks (chapter 4) -/

/-- The check code (R60): a register of all ones takes the bytes in ascending address order and each byte's bits from the most significant; the
test of a slot's last two bytes is the same as running the computation over all 32 bytes to zero. -/
def Obligations.CheckCodeOfASlot : Prop :=
  checkCode [] = 0xFFFF#16 ∧
  (∀ (bs : List Byte) (b : Byte), checkCode (bs ++ [b]) =
    crcBit (crcBit (crcBit (crcBit (crcBit (crcBit (crcBit (crcBit (checkCode bs) (b.getLsbD 7)) (b.getLsbD 6))
      (b.getLsbD 5)) (b.getLsbD 4)) (b.getLsbD 3)) (b.getLsbD 2)) (b.getLsbD 1)) (b.getLsbD 0)) ∧
  (∀ (r : BitVec 16) (b : Bool), crcBit r b = if r.getLsbD 15 ^^ b then (r <<< 1) ^^^ 0x3D65#16 else r <<< 1) ∧
  (∀ bs : List Byte, bs.length = 32 →
    (checkCorrect bs = true ↔
      ∃ hi lo : Byte, bs[30]? = some hi ∧ bs[31]? = some lo ∧ (checkCode (bs.take 30)).toNat = 256 * hi.toNat + lo.toNat) ∧
    (checkCorrect bs = true ↔ checkCode bs = 0#16))

/-- The close checks (R57, R55), in order: the first that holds decides. -/
def Obligations.CloseChecksInOrder : Prop :=
  ∀ (s : State) (n : StreamId) (c : Nat),
    (s.loader.part ≠ .ready → s.closeVerdict n c = .refused .notReady) ∧
    (s.loader.part = .ready → (s.stream n).session = .barred → s.closeVerdict n c = .refused .barred) ∧
    (s.loader.part = .ready → (s.stream n).session ≠ .barred →
      (((s.stream n).batch = .queued ∨ (s.stream n).batch = .settling) → s.closeVerdict n c = .ignored) ∧
      (((s.stream n).batch = .idle ∨ (s.stream n).batch = .collecting) →
        ((c = 0 ∨ 16 < c) → s.closeVerdict n c = .refused .badClose) ∧
        (1 ≤ c → c ≤ 16 →
          ((∃ i < c, ∃ w : Nat, 4 * i ≤ w ∧ w < 4 * i + 4 ∧ flagAt (s.stream n).written w = false) →
            s.closeVerdict n c = .refused .short) ∧
          ((∀ w < 4 * c, flagAt (s.stream n).written w = true) →
            ((∃ w < 4 * c, flagAt (s.stream n).torn w = true) → s.closeVerdict n c = .refused .torn) ∧
            ((∀ w < 4 * c, flagAt (s.stream n).torn w = false) →
              ((∃ i < c, checkCorrect ((s.stream n).captured.bytes (32 * i) 32) = false) →
                s.closeVerdict n c = .refused .check) ∧
              ((∀ i < c, checkCorrect ((s.stream n).captured.bytes (32 * i) 32) = true) →
                s.closeVerdict n c = if s.engine.running then .taken else .refused .halted))))))

/-- ENTRY_SLOT_WRITE (R54): a write of entry slots answered done stands in memory and is answered done. On an IDLE batch it opens one with nothing
captured before it; on a COLLECTING one it adds to what was captured; the timer starts from zero; a slot word covered whole is written and not
torn, one covered in part is torn. On a QUEUED or SETTLING batch, and in UNSET and STARTING, nothing is taken. -/
def Obligations.SlotWriteIsCaptured : Prop :=
  ∀ (s : State) (tag : Nat) (i : IssuedUp), WriteDownstream s tag i → i.up.tag = tag →
    s.coversSlots i.up.req = true → s.coversClose i.up.req = false → s.coversCancel i.up.req = false →
    NoSetupWord s i.up.req → NoOwnWriteHolds s tag → (∃ o ∈ s.path.outstanding, o.tag = tag) →
    ∃ v : State, exec (.entrySlotWrite tag .done) s = .next v.drain ∧
      OnlyParts s v [.upstream, .memory, .streams] ∧ OnlyStreams s v [i.up.req.stream] ∧
      v.mem = s.mem.writeLanes i.up.req.start i.up.req.lanes ∧ Answered v tag ⟨true, []⟩ ∧
      ((s.loader.part = .unset ∨ s.loader.part = .starting ∨ (s.stream i.up.req.stream).batch = .queued ∨
          (s.stream i.up.req.stream).batch = .settling) → v.streams = s.streams) ∧
      (s.loader.part ≠ .unset → s.loader.part ≠ .starting →
        ((s.stream i.up.req.stream).batch = .idle ∨ (s.stream i.up.req.stream).batch = .collecting) →
        (v.stream i.up.req.stream).batch = .collecting ∧ (v.stream i.up.req.stream).collectTimer = some 0 ∧
        (v.stream i.up.req.stream).idleTimer = none ∧
        (v.stream i.up.req.stream).session = (s.stream i.up.req.stream).session ∧
        (v.stream i.up.req.stream).answer = (s.stream i.up.req.stream).answer ∧
        (v.stream i.up.req.stream).guardHits = (s.stream i.up.req.stream).guardHits ∧
        (v.stream i.up.req.stream).captured =
          (s.slotCells i.up.req).foldl (fun m c => Memory.write m c.1 c.2)
            (if (s.stream i.up.req.stream).batch = .idle then [] else (s.stream i.up.req.stream).captured) ∧
        ∀ w < 64,
          (coveredIn (s.slotCells i.up.req) w = 8 →
            flagAt (v.stream i.up.req.stream).written w = true ∧
              flagAt (v.stream i.up.req.stream).torn w = false) ∧
          (0 < coveredIn (s.slotCells i.up.req) w → coveredIn (s.slotCells i.up.req) w ≠ 8 →
            flagAt (v.stream i.up.req.stream).torn w = true) ∧
          (coveredIn (s.slotCells i.up.req) w ≠ 8 →
            flagAt (v.stream i.up.req.stream).written w =
              (if (s.stream i.up.req.stream).batch = .idle then false
                else flagAt (s.stream i.up.req.stream).written w)) ∧
          (coveredIn (s.slotCells i.up.req) w = 0 →
            flagAt (v.stream i.up.req.stream).torn w =
              (if (s.stream i.up.req.stream).batch = .idle then false
                else flagAt (s.stream i.up.req.stream).torn w)))

/-- CLOSE (R46, R48, R49, R58, R59), after the slot words the write carries were taken: a refused close discards the batch and answers FRESH with the
refusal; a CHECK refusal raises the check-failure count of a stream that is not OFF, and at the limit bars the stream; an ignored close adds a
guard hit; a close taken on joins the tail of the Commit Queue and answers WAITING. But for the ignored one, the response waits for the answer
write. In UNSET and STARTING nothing is taken and the write is answered done (R53). A write that covers other bytes of the close word but not the count byte
does nothing to the batch (R57). That an answer leaves the header's spare bytes, and that the session word's spare byte is zero, are the model's (log 48). -/
def Obligations.CloseIsDecided : Prop :=
  (∀ (s : State) (tag : Nat) (i : IssuedUp), WriteDownstream s tag i → i.up.tag = tag →
    (∃ c ∈ s.deskCells i.up.req.stream i.up.req, 512 < c.1 ∧ c.1 < 520) →
    countByte (s.deskCells i.up.req.stream i.up.req) = none → s.coversSlots i.up.req = false →
    s.coversCancel i.up.req = false → NoSetupWord s i.up.req → NoOwnWriteHolds s tag →
    (∃ o ∈ s.path.outstanding, o.tag = tag) →
    ∃ v : State, exec (.apertureWriteResponse tag .done) s = .next v.drain ∧ OnlyParts s v [.upstream, .memory] ∧
      v.mem = s.mem.writeLanes i.up.req.start i.up.req.lanes ∧ Answered v tag ⟨true, []⟩) ∧
  ∀ (s : State) (tag : Nat) (i : IssuedUp) (c : Nat), WriteDownstream s tag i → i.up.tag = tag →
    countByte (s.deskCells i.up.req.stream i.up.req) = some c → s.coversCancel i.up.req = false →
    NoSetupWord s i.up.req → NoOwnWriteHolds s tag → (∃ o ∈ s.path.outstanding, o.tag = tag) →
    ((s.loader.part = .unset ∨ s.loader.part = .starting) → ∃ v : State, exec (.closeWord tag .done) s = .next v.drain ∧
      OnlyParts s v [.upstream, .memory] ∧ v.mem = s.mem.writeLanes i.up.req.start i.up.req.lanes ∧
      Answered v tag ⟨true, []⟩) ∧
    (s.loader.part ≠ .unset → s.loader.part ≠ .starting →
    (∀ r : BatchResult, (s.slotsTaken i).closeVerdict i.up.req.stream c = .refused r →
      ∃ v : State, exec (.closeWord tag .done) s = .next v ∧ OnlyParts (s.slotsTaken i) v [.streams, .raised] ∧
        OnlyStreams s v [i.up.req.stream] ∧ v.mem = s.mem.writeLanes i.up.req.start i.up.req.lanes ∧
        ResponseWaits (s.slotsTaken i) v tag ∧ BatchIsIdle (v.stream i.up.req.stream) ∧
        AnswersFresh v i.up.req.stream r (s.stream i.up.req.stream).guardHits ∧
        (∀ p : Nat, (v.stream i.up.req.stream).session = .claimed p → (v.stream i.up.req.stream).idleTimer = some 0) ∧
        ((r ≠ .check ∨ (s.stream i.up.req.stream).session = .off) →
          (v.stream i.up.req.stream).session = (s.stream i.up.req.stream).session ∧
          (StreamsSettled s →
            (v.stream i.up.req.stream).checkFails = (s.stream i.up.req.stream).checkFails)) ∧
        (r = .check → (s.stream i.up.req.stream).session ≠ .off →
          (v.stream i.up.req.stream).checkFails = min ((s.stream i.up.req.stream).checkFails + 1) 15 ∧
          ∀ x : Setup, s.loader.inForce = some x →
            (min ((s.stream i.up.req.stream).checkFails + 1) 15 < x.limits.checkLimit →
              (v.stream i.up.req.stream).session = (s.stream i.up.req.stream).session) ∧
            (x.limits.checkLimit ≤ min ((s.stream i.up.req.stream).checkFails + 1) 15 →
              (s.stream i.up.req.stream).session ≠ .barred →
              (v.stream i.up.req.stream).session = .barred ∧ (v.stream i.up.req.stream).watches = [] ∧
              (v.stream i.up.req.stream).idleTimer = none ∧ SessionWordRaised v i.up.req.stream))) ∧
    ((s.slotsTaken i).closeVerdict i.up.req.stream c = .ignored →
      ∃ v : State, exec (.closeWord tag .done) s = .next v.drain ∧
        OnlyParts (s.slotsTaken i) v [.streams, .upstream] ∧ OnlyStreams s v [i.up.req.stream] ∧
        v.mem = s.mem.writeLanes i.up.req.start i.up.req.lanes ∧ Answered v tag ⟨true, []⟩ ∧
        (v.stream i.up.req.stream).guardHits = min ((s.stream i.up.req.stream).guardHits + 1) 65535 ∧
        (v.stream i.up.req.stream).batch = (s.stream i.up.req.stream).batch ∧
        (v.stream i.up.req.stream).answer = (s.stream i.up.req.stream).answer) ∧
    ((s.slotsTaken i).closeVerdict i.up.req.stream c = .taken →
      ∃ v : State, exec (.closeWord tag .done) s = .next v ∧
        OnlyParts (s.slotsTaken i) v [.streams, .raised, .commitQueue] ∧ OnlyStreams s v [i.up.req.stream] ∧
        v.mem = s.mem.writeLanes i.up.req.start i.up.req.lanes ∧ ResponseWaits (s.slotsTaken i) v tag ∧
        v.queue = s.queue ++ [i.up.req.stream] ∧ (v.stream i.up.req.stream).batch = .queued ∧
        (v.stream i.up.req.stream).closedCount = c ∧ (v.stream i.up.req.stream).cancelAsked = false ∧
        (v.stream i.up.req.stream).collectTimer = none ∧ (v.stream i.up.req.stream).idleTimer = none ∧
        (v.stream i.up.req.stream).checkFails = 0 ∧
        (v.stream i.up.req.stream).captured = ((s.slotsTaken i).stream i.up.req.stream).captured ∧
        (v.stream i.up.req.stream).session = (s.stream i.up.req.stream).session ∧
        (v.stream i.up.req.stream).answer = .waiting ∧
        Awaits v (.answer i.up.req.stream) (deskAddr i.up.req.stream Config.answerOff)
          (.write (lanesOf [1] ++ [noLane] ++ lanesOf (leBytes 1 c) ++ [noLane] ++
            lanesOf (leBytes 2 (s.stream i.up.req.stream).guardHits)))))

/-- CANCEL (R61), after the slot words and the close word the write carries were taken: nothing on an IDLE batch; a COLLECTING or QUEUED batch is
discarded and answered FRESH, CANCELLED, a QUEUED one leaving the Commit Queue with those behind it in their order; a SETTLING one is asked to
end. The response waits for an answer write, if one is raised for the write. In UNSET and STARTING nothing is taken (R53). That an answer leaves the
header's spare bytes is the model's (log 48). -/
def Obligations.CancelIsDecided : Prop :=
  ∀ (s : State) (tag : Nat) (i : IssuedUp), WriteDownstream s tag i → i.up.tag = tag →
    s.coversCancel i.up.req = true → NoSetupWord s i.up.req → (∃ o ∈ s.path.outstanding, o.tag = tag) →
    ((s.loader.part = .unset ∨ s.loader.part = .starting) →
      (NoOwnWriteHolds s tag → ∃ v : State, exec (.cancelWord tag .done) s = .next v.drain ∧
        OnlyParts s v [.upstream, .memory] ∧ v.mem = s.mem.writeLanes i.up.req.start i.up.req.lanes ∧
        Answered v tag ⟨true, []⟩) ∧
      (¬NoOwnWriteHolds s tag → exec (.cancelWord tag .done) s = .next (s.handedOn i))) ∧
    (s.loader.part ≠ .unset → s.loader.part ≠ .starting →
    (((s.closeWordTaken i).stream i.up.req.stream).batch = .idle →
      (NoOwnWriteHolds (s.closeWordTaken i) tag → ∃ v : State, exec (.cancelWord tag .done) s = .next v.drain ∧
        OnlyParts (s.closeWordTaken i) v [.upstream] ∧ Answered v tag ⟨true, []⟩) ∧
      (¬NoOwnWriteHolds (s.closeWordTaken i) tag →
        exec (.cancelWord tag .done) s = .next (s.closeWordTaken i))) ∧
    ((((s.closeWordTaken i).stream i.up.req.stream).batch = .collecting ∨
        ((s.closeWordTaken i).stream i.up.req.stream).batch = .queued) →
      ∃ v : State, exec (.cancelWord tag .done) s = .next v ∧
        OnlyParts (s.closeWordTaken i) v [.streams, .raised, .commitQueue] ∧
        OnlyStreams (s.closeWordTaken i) v [i.up.req.stream] ∧ ResponseWaits (s.closeWordTaken i) v tag ∧
        BatchIsIdle (v.stream i.up.req.stream) ∧
        AnswersFresh v i.up.req.stream .cancelled ((s.closeWordTaken i).stream i.up.req.stream).guardHits ∧
        (∀ p : Nat, (v.stream i.up.req.stream).session = .claimed p → (v.stream i.up.req.stream).idleTimer = some 0) ∧
        (((s.closeWordTaken i).stream i.up.req.stream).batch = .queued →
          v.queue = (s.closeWordTaken i).queue.filter (fun m => decide (m ≠ i.up.req.stream))) ∧
        (((s.closeWordTaken i).stream i.up.req.stream).batch = .collecting →
          v.queue = (s.closeWordTaken i).queue)) ∧
    (((s.closeWordTaken i).stream i.up.req.stream).batch = .settling → NoOwnWriteHolds (s.closeWordTaken i) tag →
      ∃ v : State, exec (.cancelWord tag .done) s = .next v.drain ∧
        OnlyParts (s.closeWordTaken i) v [.upstream, .streams] ∧
        OnlyStreams (s.closeWordTaken i) v [i.up.req.stream] ∧ Answered v tag ⟨true, []⟩ ∧
        (v.stream i.up.req.stream).cancelAsked = true ∧ (v.stream i.up.req.stream).batch = .settling ∧
        (v.stream i.up.req.stream).answer = ((s.closeWordTaken i).stream i.up.req.stream).answer))

/-- OWN_WRITE_RESPONSE and ANSWER_WRITE_RESPONSE (R19, R39, R49, R65, R85, R158, R170): an own write of the desks (an answer, WORKING, SEEN, a session
word) or of the setup words (calendar, status) answered done stands in memory; answered error it leaves memory as it was (log 6) and is
counted, but for the status word. The upstream response that waited for it
is given when the last such write is answered: error when an answer write, this one or an earlier one, was answered error, done otherwise; while another
such write stands it waits. That the status word's spare bytes are written zero is the model's (log 48). -/
def Obligations.OwnWritesAreAnswered : Prop :=
  (∀ (s : State) (tag : Nat) (i : IssuedOwn) (lanes : List Lane), s.inReset = false →
    s.pullOwn (fun q => decide (q.serial = tag) && routineWrite q) = some i → i.req.body = .write lanes →
    i.req.holds = none →
    (∃ t : State, exec (.ownWriteResponse tag .done) s = .next t ∧ OnlyParts s t [.memory, .issued] ∧
      t.mem = s.mem.writeLanes i.req.addr lanes ∧ SameMemoryOutside s t i.req.addr lanes.length ∧
      ∀ j ∈ t.path.ownIssued, j.req.serial ≠ tag) ∧
    (∀ k : Nat, i.req.tag ≠ .status → ∃ t : State, exec (.ownWriteResponse tag (.error k)) s = .next t ∧
      OnlyParts s t [.issued, .raised, .loader] ∧ t.loader = oneMoreFault s.loader ∧
      (s.loader.faults < 65535 → Awaits t .status Config.statusOff
        (.write (lanesOf (encodeStatus s.loader.part s.loader.result (s.loader.faults + 1)))))) ∧
    (∀ k : Nat, i.req.tag = .status → ∃ t : State, exec (.ownWriteResponse tag (.error k)) s = .next t ∧
      OnlyParts s t [.issued] ∧ ∀ j ∈ t.path.ownIssued, j.req.serial ≠ tag)) ∧
  (∀ (s : State) (tag up : Nat) (i : IssuedOwn) (lanes : List Lane), s.inReset = false →
    s.pullOwn (fun q => decide (q.serial = tag) && routineWrite q) = some i → i.req.body = .write lanes →
    i.req.holds = some up → NoOwnWriteHolds (s.dropOwn i.req.serial) up →
    (∃ o ∈ s.path.outstanding, o.tag = up) → (∀ o ∈ s.path.outstanding, o.tag = up → o.failed = false) →
    ∀ a : Answer, ∃ v : State, exec (.ownWriteResponse tag a) s = .next v.drain ∧ Answered v up ⟨true, []⟩ ∧
      v.mem = (if answeredDone a then s.mem.writeLanes i.req.addr lanes else s.mem) ∧ WriteCounted s v i a ∧
      OnlyParts s v [.memory, .issued, .raised, .loader, .upstream]) ∧
  (∀ (s : State) (up : Nat) (i : IssuedOwn) (lanes : List Lane) (c : Answer → Instr), s.inReset = false →
    ((∃ n : StreamId, c = .answerWriteResponse n ∧
        s.pullOwn (fun q => decide (q.tag = .answer n) && q.holds.isSome) = some i) ∨
      ∃ tag : Nat, c = .ownWriteResponse tag ∧
        s.pullOwn (fun q => decide (q.serial = tag) && routineWrite q) = some i) →
    i.req.body = .write lanes → i.req.holds = some up → (∃ o ∈ s.path.outstanding, o.tag = up) →
    (NoOwnWriteHolds (s.dropOwn i.req.serial) up → (∀ o ∈ s.path.outstanding, o.tag = up → o.failed = true) →
      ∀ a : Answer, ∃ v : State, exec (c a) s = .next v.drain ∧ Answered v up ⟨false, []⟩ ∧
        v.mem = (if answeredDone a then s.mem.writeLanes i.req.addr lanes else s.mem) ∧ WriteCounted s v i a ∧
        OnlyParts s v [.memory, .issued, .raised, .loader, .upstream]) ∧
    (¬NoOwnWriteHolds (s.dropOwn i.req.serial) up →
      (∃ v : State, exec (c .done) s = .next v ∧ ResponseWaits s v up ∧ v.mem = s.mem.writeLanes i.req.addr lanes ∧
        OnlyParts s v [.memory, .issued]) ∧
      ∀ k : Nat, i.req.tag ≠ .status → ∃ v : State, exec (c (.error k)) s = .next v ∧
        (∃ q ∈ v.ownWaiting, q.holds = some up) ∧
        v.path.returned = s.path.returned ∧ v.mem = s.mem ∧ v.loader = oneMoreFault s.loader ∧ StatusShown s v ∧
        (∀ n : StreamId, c = .answerWriteResponse n → v.path.outstanding =
          s.path.outstanding.map (fun o => if o.tag = up then { o with failed := true } else o)) ∧
        (∀ tag : Nat, c = .ownWriteResponse tag → v.path.outstanding = s.path.outstanding) ∧
        OnlyParts s v [.issued, .raised, .loader, .upstream])) ∧
  (∀ (s : State) (n : StreamId) (up : Nat) (i : IssuedOwn) (lanes : List Lane), s.inReset = false →
    s.pullOwn (fun q => decide (q.tag = .answer n) && q.holds.isSome) = some i → i.req.body = .write lanes →
    i.req.holds = some up → NoOwnWriteHolds (s.dropOwn i.req.serial) up →
    (∃ o ∈ s.path.outstanding, o.tag = up) → (∀ o ∈ s.path.outstanding, o.tag = up → o.failed = false) →
    (∃ v : State, exec (.answerWriteResponse n .done) s = .next v.drain ∧ Answered v up ⟨true, []⟩ ∧
      OnlyParts s v [.memory, .issued, .upstream] ∧ v.mem = s.mem.writeLanes i.req.addr lanes ∧
      SameMemoryOutside s v i.req.addr lanes.length) ∧
    (∀ k : Nat, ∃ v : State, exec (.answerWriteResponse n (.error k)) s = .next v.drain ∧
      Answered v up ⟨false, []⟩ ∧ OnlyParts s v [.issued, .raised, .loader, .upstream] ∧
      v.loader = oneMoreFault s.loader ∧ StatusShown s v))

/-! ## Sessions and timers (chapters 3 and 4) -/

/-- IDLE_EXPIRY (R47) and COLLECT_TIMER_EXPIRY (R56): the claim ends, the watches are cleared, the session word is written and the answer is FRESH,
IDLE_RELEASE; the captured slots are discarded and the answer is FRESH, COLLECT_TIMEOUT, and a CLAIMED stream's idle timer starts from zero. That an
answer leaves the header's spare bytes, and that the session word's is zero, are the model's (log 48). -/
def Obligations.TimersExpire : Prop :=
  (∀ (s : State) (n : StreamId) (p e : Nat) (x : Setup), s.inReset = false → (s.stream n).session = .claimed p →
    (s.stream n).idleTimer = some e → s.loader.inForce = some x → x.limits.idleLimit ≤ e →
    ∃ t : State, exec (.idleExpiry n) s = .next t ∧ OnlyParts s t [.streams, .raised] ∧ OnlyStreams s t [n] ∧
      (t.stream n).session = .vacant ∧ (t.stream n).idleTimer = none ∧ (t.stream n).watches = [] ∧
      (t.stream n).checkFails = (s.stream n).checkFails ∧ (t.stream n).batch = (s.stream n).batch ∧
      SessionWordRaised t n ∧ AnswersFresh t n .idleRelease (s.stream n).guardHits) ∧
  (∀ (s : State) (n : StreamId) (e : Nat) (x : Setup), s.inReset = false → (s.stream n).batch = .collecting →
    (s.stream n).collectTimer = some e → s.loader.inForce = some x → x.limits.collectLimit ≤ e →
    ∃ t : State, exec (.collectTimerExpiry n) s = .next t ∧ OnlyParts s t [.streams, .raised] ∧
      OnlyStreams s t [n] ∧ BatchIsIdle (t.stream n) ∧ (t.stream n).session = (s.stream n).session ∧
      (StreamsSettled s → ∀ p : Nat, (s.stream n).session = .claimed p → (t.stream n).idleTimer = some 0) ∧
      AnswersFresh t n .collectTimeout (s.stream n).guardHits)

/-! ## The Settle Engine (chapter 6) -/

/-- The common check prefix (R63, R89), in its order: the kind, the grade, the session, the target; what it is asked of: the fields of an entry
(section 12.2, R62, R181), read from the captured bytes of its slot; and what a unit takes at its gather (R88). -/
def Obligations.CommonPrefixInOrder : Prop :=
  (∀ (bs : List Byte) (e : Entry), e = parseEntry bs →
    e.kind = fieldAt bs 0 1 ∧ (e.afterDone = true ↔ fieldAt bs 1 1 % 2 = 1) ∧ (e.bar = true ↔ fieldAt bs 1 1 / 2 % 2 = 1) ∧
    e.tag = fieldAt bs 2 2 ∧ e.target = fieldAt bs 4 4 ∧ e.amount = fieldAt bs 8 4 ∧ e.day = fieldAt bs 12 4 ∧
    e.until = (if e.day = 4294967295 then none else some e.day) ∧
    e.pickup = fieldAt bs 16 1 ∧ e.reason = fieldAt bs 17 1 % 16 ∧ e.first = fieldAt bs 18 1 ∧ e.last = fieldAt bs 19 1 ∧
    ∀ p : Nat, p ∈ e.excluded ↔ p ≠ 255 ∧ ∃ j < 4, p = fieldAt bs (20 + j) 1) ∧
  (∀ (s : State) (n : StreamId) (j : Nat) (o : Outcome),
    s.entryOf n j = parseEntry ((s.stream n).captured.bytes (32 * j) 32) ∧
    s.outcomeRec n j o = ⟨j, (s.entryOf n j).kind, o.code, (s.entryOf n j).tag, o.d1, o.d2⟩) ∧
  (∀ (s : State) (x : Setup) (u : WorkUnit) (n : StreamId), u.owner = some n →
    (s.ctx x u).day = u.day ∧ (s.ctx x u).setup = x ∧ (s.ctx x u).grade = s.grade n ∧
    (s.ctx x u).watches = (s.stream n).watches ∧
    (∀ c, s.cfg n = some c → (s.ctx x u).branch = c.branch ∧
      s.grade n = if (s.stream n).session = .off then none else some c.grade) ∧
    (∀ p, (s.stream n).session = .claimed p → (s.ctx x u).patron = p) ∧
    ∀ j, u.entry = some j → (s.ctx x u).entry = s.entryOf n j ∧ s.unitEntry u = s.entryOf n j) ∧
  ∀ (s : State) (n : StreamId) (e : Entry),
    ((e.kind = 0 ∨ 14 < e.kind) → s.commonChecks n e = .error .badKind) ∧
    ∀ k : EntryKind, e.kind = k.code →
      (((s.stream n).session = .off ∨ (∃ c, s.cfg n = some c ∧ c.grade = .kiosk ∧
          k ∈ [EntryKind.waive, .arrive, .patronBar, .streamReopen])) → s.commonChecks n e = .error .grade) ∧
      (∀ c, (s.stream n).session ≠ .off → s.cfg n = some c →
        (c.grade ≠ .kiosk ∨ k ∉ [EntryKind.waive, .arrive, .patronBar, .streamReopen]) →
        (k = .claim → (s.stream n).session ≠ .vacant → s.commonChecks n e = .error .outOfTurn) ∧
        (k ∉ [EntryKind.claim, .returnItem, .arrive, .patronBar, .streamReopen] →
          (∀ p, (s.stream n).session ≠ .claimed p) → s.commonChecks n e = .error .noPatron) ∧
        ((k = .claim → (s.stream n).session = .vacant) →
          (k ∉ [EntryKind.claim, .returnItem, .arrive, .patronBar, .streamReopen] →
            ∃ p, (s.stream n).session = .claimed p) →
          (∀ r : Region, (k, r) ∈ [(EntryKind.claim, Region.cards), (.lend, .items), (.returnItem, .items),
              (.renew, .items), (.arrive, .items), (.holdPlace, .titles), (.holdCancel, .titles),
              (.holdPause, .titles), (.patronBar, .patrons)] →
            (s.regionCount r ≤ e.target → s.commonChecks n e = .error .badTarget) ∧
            (e.target < s.regionCount r → s.commonChecks n e = .ok k)) ∧
          (k ∈ [EntryKind.release, .renewSet, .pay, .waive, .streamReopen] → s.commonChecks n e = .ok k)))

/-- UNIT_BOUNDARY (R84 to R89, R95, R172): first the pending requests, in their order; then the end unit of a batch that is cut; then a unit of the
kind opposite to the last turn when batch and sweep both have work, of the kind that has work otherwise. A batch turn takes the queue head when no
batch is current, and goes on to the entry or to the sub-units still to run. A unit begins with today captured and the read of its first record, an
entry that fails the prefix with no read (R88, R89). That an entry failing the common prefix is refused within the boundary's event
(log 25), that a warm reset is left to an event of its own (log 20), that a request leaves the list as it is begun (log 19), with the read of the region
table first (log 16), the kind 6 with which RENEW_SET's first unit is gathered and the 32 of a sweep's item unit until its decide (log 24), and the entry
index of an end unit (log 35) are the model's. -/
def Obligations.UnitBoundaryChooses : Prop :=
  ∀ (s : State) (x : Setup), AtBoundary s x →
    (∀ k rs, s.loader.requests = k :: rs → k ≠ .warmReset → ∃ t : State, exec .unitBoundary s = .next t ∧
      t.loader = { s.loader with requests := rs, job := .reading k .regions [] } ∧
      Awaits t .setupRead 0 (.read 40) ∧ OnlyParts s t [.loader, .raised]) ∧
    (∀ rs, s.loader.requests = .warmReset :: rs → exec .unitBoundary s = .next s) ∧
    (s.loader.requests = [] →
      (∀ b, s.engine.batch = some b → b.cut.isSome = true → ∃ t : State, exec .unitBoundary s = .next t ∧
        UnitBegins (s.setTurn .batch) t .endBatch (some b.stream) (some b.next) 20 none) ∧
      (∀ o, s.sweep.offer = some o → (∀ b, s.engine.batch = some b → b.cut = none) →
        (s.engine.lastTurn = .batch ∨ (s.engine.batch = none ∧ s.queue = [])) →
        ∃ t : State, exec .unitBoundary s = .next t ∧ UnitBegins (s.setTurn .sweep) t (.sweep o) none none
          (match o with | .item _ => 32 | .resume _ => 34 | .progress _ => 35) (some o.firstRead)) ∧
      ((s.sweep.offer = none ∨ s.engine.lastTurn = .sweep) →
        (∀ n q, s.engine.batch = none → s.queue = n :: q → ∃ s1 t : State, exec .unitBoundary s = .next t ∧
          TakesBatch (s.setTurn .batch) s1 n ∧ EntryBegins s1 t ⟨n, 0, false, .none, [], none⟩ x) ∧
        (∀ b, s.engine.batch = some b → b.cut = none →
          (b.sub = .none → ∃ t : State, exec .unitBoundary s = .next t ∧ EntryBegins (s.setTurn .batch) t b x) ∧
          (∀ p i is, b.sub = .claim p (i :: is) → ∃ t : State, exec .unitBoundary s = .next t ∧
            UnitBegins (s.setTurn .batch) t .freshenSub (some b.stream) (some b.next) 16
              (some (.record .patrons ((s.stream b.stream).session.patron.getD 0)))) ∧
          (∀ r, b.sub = .renew r → r.remaining ≠ [] → ∃ t : State, exec .unitBoundary s = .next t ∧
            UnitBegins (s.setTurn .batch) t .renewalSub (some b.stream) (some b.next) 17
              (some (.record .patrons ((s.stream b.stream).session.patron.getD 0)))) ∧
          (∀ r, b.sub = .renew r → r.remaining = [] → ∃ t : State, exec .unitBoundary s = .next t ∧
            UnitBegins (s.setTurn .batch) t .closing (some b.stream) (some b.next) 18 none))) ∧
      (s.sweep.offer = none → s.engine.batch = none → s.queue = [] → exec .unitBoundary s = .next s))

/-- GATHER_READ_RESPONSE and GATHER_READ_TIMEOUT (R88, R96): the contents are taken and the next record the unit needs is read, or the unit passes to
its decide. A read answered error, or not in time, is counted and abandons the unit: a fault unit in its place, which names the record, or, of the
sweep, the unit handed back and its record skipped; of a unit whose pass was dropped the skip is counted (the model's, log 42) and the new pass reads on. That the sweep's
own position is 0 after the last progress unit (log 29), how far a walk reads (log 26), and that the status word raised for a counted read carries zero
in its spare bytes (log 48), are the model's. And what each unit reads, link by link
(R41, R106, R117, R132, R136, R138, R140, R146, R148, R149, R154, R164); that an index out of range names no record to read is the model's where the rules
name only fields (log 28). -/
def Obligations.GatherReadsAreTaken : Prop :=
  (∀ (s : State) (i : IssuedOwn) (tg : Target) (u : WorkUnit) (x : Setup), GatherRead s i tg u x →
    (∀ (a : Answer) (d : List Byte) (u1 : WorkUnit) (w : Work), s.ownData i a = some d →
      u1 = { u with gathered := u.gathered ++ [(tg, d)] } → w = Work.start x u1.gathered →
      (∀ y, (unitNeeds u s.subUnits (s.ctx x u) w).find? (fun z => !w.has z) = some y →
        ∃ t : State, exec (.gatherReadResponse a) s = .next t ∧ t.engine = { s.engine with unit := some u1 } ∧
          Awaits t (.gather y) (s.targetOff y) (.read y.len) ∧ OnlyParts s t [.engine, .issued, .raised]) ∧
      ((∀ y ∈ unitNeeds u s.subUnits (s.ctx x u) w, w.has y = true) →
        ∃ t : State, exec (.gatherReadResponse a) s = .next t ∧
          t.engine = { s.engine with unit := some { u1 with phase := .decide } } ∧
          OnlyParts s t [.engine, .issued])) ∧
    (∀ k : Nat, exec (.gatherReadResponse (.error k)) s = exec .gatherReadTimeout s) ∧
    ((∀ o, u.kind ≠ .sweep o) → ∃ (t : State) (f : WorkUnit), exec .gatherReadTimeout s = .next t ∧
      t.engine = { s.engine with unit := some f } ∧ f.kind = .fault ∧ f.phase = .decide ∧ f.failed = some tg ∧
      f.owner = u.owner ∧ f.entry = u.entry ∧ f.code = 21 ∧ f.gathered = [] ∧ f.changes = [] ∧ f.spoil = [] ∧
      t.loader = oneMoreFault s.loader ∧ StatusShown s t ∧ OnlyParts s t [.engine, .issued, .raised, .loader]) ∧
    (∀ o, u.kind = .sweep o → u.reported = true → ∃ v : State,
      exec .gatherReadTimeout s = .next v.sweepExamine ∧
      v.engine = { s.engine with unit := none, inFlight := [] } ∧ v.loader = oneMoreFault s.loader ∧
      StatusShown s v ∧ OnlyParts s v [.engine, .issued, .raised, .loader, .sweep] ∧
      ((∃ r, o = .item r ∨ o = .resume r) →
        v.sweep = { s.sweep.past o with skipped := min (s.sweep.skipped + 1) 65535 }) ∧
      (∀ e, o = .progress e → v.sweep = s.sweep.past o)) ∧
    (∀ o, u.kind = .sweep o → u.reported = false → ∃ v : State, exec .gatherReadTimeout s = .next v.sweepExamine ∧
      v.engine = { s.engine with unit := none, inFlight := [] } ∧ v.loader = oneMoreFault s.loader ∧ StatusShown s v ∧
      ((∃ r, o = .item r ∨ o = .resume r) →
        v.sweep = { s.sweep.released with skipped := min (s.sweep.skipped + 1) 65535 }) ∧
      (∀ e, o = .progress e → v.sweep = s.sweep.released) ∧
      OnlyParts s v [.engine, .issued, .raised, .loader, .sweep])) ∧
  (∀ (u : WorkUnit) (sub : SubUnits) (k : Ctx) (w : Work), UnitReads u sub k w ∧ EntryReads k w) ∧
  (∀ (w : Work) (T i : Nat) (collects : Hold → Bool), TouchReads w T i collects) ∧
  (∀ (w : Work) (T i t : Nat), w.offerTargets T i t =
    if (w.item i).circulates then w.queueTargets t (fun x => readyHold T x.2) else []) ∧
  (∀ (w : Work) (t : Nat) (stop : Nat × Hold → Bool), w.queueTargets t stop =
    ((w.queue t).takeWhile (fun x => !stop x) ++ ((w.queue t).find? stop).toList).map
      (fun x => Target.record .holds x.1)) ∧
  (∀ (w : Work) (r : Region) (i : Option Nat) (x : Target), x ∈ w.targets r i ↔
    ∃ k, i = some k ∧ k < (w.setup.regions.entry r).count ∧ x = .record r k) ∧
  (∀ (w : Work) (t : Nat) (cs : List Nat), w.seekCopies t cs =
    cs.takeWhile (fun c => !w.idleCopy t c) ++ (cs.find? (w.idleCopy t)).toList) ∧
  (∀ (w : Work) (cs : List Nat), w.copyTargets cs =
    (cs.filter (fun c => decide (c < (w.setup.regions.entry .items).count))).map (Target.record .items))

/-- NOTE_WRITE_DONE and APPLY_WRITE_DONE, done (R90 to R93): the write stands in memory and the next of the phase is raised; after the last note write
the WRITTEN write, and at that moment the targets of the change list become the in-flight set, which every read downstream has met; after the last
apply write the CLEAR write. An apply write of a record strobes its guarded bytes alone. The change list holds the records changed, then the summary when
any of its fields changed, then the desk; the note's writes are the stream, the entry index, the unit kind, the image count and the images, each at its
place; and the bytes of an image and of a desk's run. The records stand in the list in the order first changed, several changes of one merged (R90).
Apply begins as the WRITTEN write is answered done. That bytes of an image (log 23) and of an answer header (log 48) that carry no field are zero, and the
order of changes within the shared steps (log 27), are the model's. -/
def Obligations.NoteThenApply : Prop :=
  (∀ (s : State) (i : IssuedOwn) (u : WorkUnit) (ls : List Lane),
    UnitWrite s .note (fun t => decide (t = .note)) i u ls →
    (∀ w ws, u.toWrite = w :: ws → ∃ t : State, exec (.noteWriteDone .done) s = .next t ∧
      t.mem = s.mem.writeLanes i.req.addr ls ∧ SameMemoryOutside s t i.req.addr ls.length ∧
      t.engine = { s.engine with unit := some { u with toWrite := ws } } ∧
      Awaits t w.tag w.off (.write w.lanes) ∧
      OnlyParts s t [.memory, .issued, .raised, .engine, .streams] ∧ (StreamsSettled s → SameStreams s t)) ∧
    (u.toWrite = [] → ∃ t : State, exec (.noteWriteDone .done) s = .next t ∧
      t.mem = s.mem.writeLanes i.req.addr ls ∧ SameMemoryOutside s t i.req.addr ls.length ∧
      t.engine =
        { s.engine with inFlight := u.changes.map Image.target, unit := some u } ∧
      Awaits t .written Config.noteBase (.write (lanesOf [0x5A])) ∧
      t.path.upIssued =
        s.path.upIssued.map (fun r => { r with touched := r.touched ++ u.changes.map Image.target }) ∧
      t.path.ownIssued = (s.path.ownIssued.filter (fun r => decide (r.req.serial ≠ i.req.serial))).map
        (fun r => { r with touched := r.touched ++ u.changes.map Image.target }) ∧
      t.path.lastGranted = s.path.lastGranted ∧
      OnlyParts s t [.memory, .issued, .raised, .engine, .upstream])) ∧
  (∀ (s : State) (i : IssuedOwn) (u : WorkUnit) (ls : List Lane) (g : Image) (gs : List Image),
    UnitWrite s .note (fun t => decide (t = .written)) i u ls → u.changes = g :: gs →
    ∃ t : State, exec (.applyWriteDone .done) s = .next t ∧
      t.mem = s.mem.writeLanes i.req.addr ls ∧ SameMemoryOutside s t i.req.addr ls.length ∧
      t.engine = { s.engine with unit := some { u with phase := .apply, toWrite := gs.map s.applyWrite } } ∧
      Awaits t (s.applyWrite g).tag (s.applyWrite g).off (.write (s.applyWrite g).lanes) ∧
      OnlyParts s t [.memory, .issued, .raised, .engine, .streams] ∧ (StreamsSettled s → SameStreams s t)) ∧
  (∀ (s : State) (i : IssuedOwn) (u : WorkUnit) (ls : List Lane), UnitWrite s .apply isApplyTag i u ls →
    (∀ w ws, u.toWrite = w :: ws → ∃ t : State, exec (.applyWriteDone .done) s = .next t ∧
      t.mem = s.mem.writeLanes i.req.addr ls ∧ SameMemoryOutside s t i.req.addr ls.length ∧
      t.engine = { s.engine with unit := some { u with toWrite := ws } } ∧
      Awaits t w.tag w.off (.write w.lanes) ∧
      OnlyParts s t [.memory, .issued, .raised, .engine, .streams] ∧ (StreamsSettled s → SameStreams s t)) ∧
    (u.toWrite = [] → ∃ t : State, exec (.applyWriteDone .done) s = .next t ∧
      t.mem = s.mem.writeLanes i.req.addr ls ∧ SameMemoryOutside s t i.req.addr ls.length ∧
      t.engine = { s.engine with unit := some { u with phase := .clear } } ∧
      Awaits t .clear Config.noteBase (.write (lanesOf [0])) ∧
      OnlyParts s t [.memory, .issued, .raised, .engine])) ∧
  (∀ (s : State) (g : Image),
    (∀ r k, g.target = .record r k → (s.applyWrite g).off = s.targetOff (.record r k) ∧
      (s.applyWrite g).lanes.length = g.contents.length ∧
      ∀ o l, (s.applyWrite g).lanes[o]? = some l →
        g.contents[o]? = some l.value ∧ (l.strobe = true ↔ r.fieldKind o = .guarded)) ∧
    (g.target = .summary → (s.applyWrite g).off = Config.summaryBase ∧ (s.applyWrite g).lanes = lanesOf g.contents) ∧
    (∀ n, g.target = .desk n → (s.applyWrite g).off = deskAddr n Config.answerOff + g.run ∧
      (s.applyWrite g).lanes = lanesOf g.contents)) ∧
  (∀ (w : Work) (desk : Option DeskImage), w.changes desk =
    w.images ++ (if w.sum = parseSummary (w.raw .summary) then [] else [.summary w.sum]) ++ (desk.map Image.desk).toList) ∧
  (∀ (w : Work) (g : Image), putImage w.images g =
    (if g.target ∈ w.images.map Image.target then w.images.map (fun x => if x.target = g.target then g else x)
      else w.images ++ [g])) ∧
  (∀ (w : Work) (k : Ctx) (T t h c i p : Nat) (pred : Option Nat),
    pred = (if (w.title t).first = some h then none else predecessor h (w.queue t)) →
    ChangesInOrder w (w.freshen T i) (.record .items i :: w.targets .patrons (w.item i).borrower) ∧
    ChangesInOrder w (w.unlink t h) (holdTarget pred ++ [.record .titles t]) ∧
    ChangesInOrder w (w.free h) [.record .holds h] ∧
    (∀ x, (w.queue t).find? (fun y => readyHold T y.2) = some x →
      ChangesInOrder w (w.offer T c t).1 [.record .items c, .record .holds x.1]) ∧
    ((w.hold h).title = some t → t < w.count .titles → ChangesInOrder w (w.expireHold T h)
      (holdTarget pred ++ [.record .titles t, .record .holds h] ++ w.targets .patrons (w.hold h).patron) ∧
      ChangesInOrder w (w.collect p h)
        (holdTarget pred ++ [.record .titles t, .record .holds h, .record .patrons p])) ∧
    ChangesInOrder w (w.lend k i p).1 [.record .items i, .record .patrons p] ∧
    ChangesInOrder w (w.endLoan i c) (.record .items i :: w.targets .patrons (w.item i).borrower) ∧
    ChangesInOrder w (w.placeHold k t h)
      ([.record .holds h] ++ w.targets .holds (w.title t).last ++ [.record .titles t, .record .patrons k.patron])) ∧
  (∀ u : WorkUnit, (noteWrites u).length = 4 + u.changes.length ∧
    (∀ m ∈ noteWrites u, m.tag = .note) ∧
    ((noteWrites u).take 4).map (fun m => (m.off, m.lanes)) =
      [(4097, lanesOf (put1 (u.owner.map Fin.val))), (4098, lanesOf (put1 u.entry)), (4099, lanesOf (leBytes 1 u.code)),
        (4100, lanesOf (leBytes 1 u.changes.length))] ∧
    ∀ (j : Nat) (g : Image), u.changes[j]? = some g → ∃ m, (noteWrites u)[4 + j]? = some m ∧
      m.off = 4096 + 64 + j * 384 ∧ m.lanes = lanesOf g.noteBytes) ∧
  (∀ g : Image, g.noteBytes.drop 16 = g.contents ∧
    (g.run < 65536 → fieldAt g.noteBytes 2 2 = g.run) ∧
    (g.contents.length < 65536 → fieldAt g.noteBytes 8 2 = g.contents.length) ∧
    (∀ r k, g.target = .record r k → fieldAt g.noteBytes 0 1 = r.code ∧ g.run = 0 ∧
      (k < 4294967296 → fieldAt g.noteBytes 4 4 = k)) ∧
    (g.target = .summary → fieldAt g.noteBytes 0 1 = 6 ∧ fieldAt g.noteBytes 4 4 = 0 ∧ g.run = 0) ∧
    (∀ n : StreamId, g.target = .desk n → fieldAt g.noteBytes 0 1 = 7 ∧ fieldAt g.noteBytes 4 4 = n.val)) ∧
  (∀ d : DeskImage, (d.header = none → (Image.desk d).run = 16 + 16 * d.first ∧
      (Image.desk d).contents = (d.records.map encodeOutcome).flatten) ∧
    (∀ h, d.header = some h → (Image.desk d).run = 0 ∧
      (Image.desk d).contents = leBytes 1 h.state.code ++ leBytes 1 h.result.code ++ leBytes 1 h.count ++ [0] ++
        leBytes 2 h.guardHits ++ zeros 10 ++ (d.records.map encodeOutcome).flatten)) ∧
  (∀ o : OutcomeRec, encodeOutcome o = leBytes 1 o.entry ++ leBytes 1 o.kind ++ leBytes 1 o.code.code ++ [0] ++
    leBytes 2 o.tag ++ [0, 0] ++ leBytes 4 o.d1 ++ leBytes 4 o.d2)

/-- UNIT_END, done (R75, R93, R164): the in-flight set empties and the engine stands at a boundary; the records marked spoiling spoil the watches of
every stream but the unit's own; a header in the desk image ends the batch, with its answer, and a CLAIMED stream's idle timer starts; a sweep
unit's end is reported to the sweep, which goes on past its record or phase, or, when its pass was dropped, begins reading for the new one (R164, R167). That the sweep's own position is 0 after the last progress unit is the
model's (log 29). -/
def Obligations.UnitEnds : Prop :=
  ∀ (s : State) (i : IssuedOwn) (u : WorkUnit) (ls : List Lane),
    UnitWrite s .clear (fun t => decide (t = .clear)) i u ls → StreamsSettled s →
    ((∀ o, u.kind ≠ .sweep o) → ∃ t : State, exec (.unitEnd .done) s = .next t ∧
      OnlyParts s t [.memory, .issued, .engine, .streams] ∧ t.mem = s.mem.writeLanes i.req.addr ls ∧
      t.engine.unit = none ∧ t.engine.inFlight = [] ∧ t.engine.running = true ∧
      t.engine.lastTurn = s.engine.lastTurn ∧
      (∀ n, (t.stream n).watches =
        if u.owner = some n then (s.stream n).watches
        else (s.stream n).watches.map (fun w =>
          if Target.record w.region w.index ∈ u.spoil then { w with condition := .spoiled } else w)) ∧
      (∀ n, (∀ h, headerOf u.changes ≠ some (n, h)) →
        { t.stream n with watches := [] } = { s.stream n with watches := [] }) ∧
      (headerOf u.changes = none → t.engine.batch = s.engine.batch) ∧
      (∀ n h, headerOf u.changes = some (n, h) → t.engine.batch = none ∧ BatchIsIdle (t.stream n) ∧
        (t.stream n).answer = h.state ∧ (t.stream n).session = (s.stream n).session ∧
        (t.stream n).guardHits = (s.stream n).guardHits ∧
        (∀ p, (s.stream n).session = .claimed p → (s.stream n).batch = .settling →
          (t.stream n).idleTimer = some 0))) ∧
    (∀ o, u.kind = .sweep o → headerOf u.changes = none → ∃ v : State,
      exec (.unitEnd .done) s = .next v.sweepExamine ∧
      OnlyParts s v [.memory, .issued, .engine, .streams, .sweep] ∧ v.mem = s.mem.writeLanes i.req.addr ls ∧
      v.engine = { s.engine with unit := none, inFlight := [] } ∧
      (∀ n, (v.stream n).watches =
        if u.owner = some n then (s.stream n).watches
        else (s.stream n).watches.map (fun w =>
          if Target.record w.region w.index ∈ u.spoil then { w with condition := .spoiled } else w)) ∧
      (u.reported = true → v.sweep = s.sweep.past o) ∧ (u.reported = false → v.sweep = s.sweep.released))

/-- NOTE_WRITE_DONE, APPLY_WRITE_DONE and UNIT_END answered error (R97, R98): the error is counted. The first in a unit makes the engine write the whole
note again when it struck before WRITTEN was answered done, and every image from the first when it struck after; a second halts the engine, which answers
the current batch and every batch queued, each HALTED: its entries not finished, but for the one whose unit halted, then its header, and the idle timer of
a CLAIMED stream so answered starts from zero. That a halt answers with two writes (log 30), how much of a write answered error memory holds (log 6), and
the zeros in the spare bytes of the header and of the status word (log 48) are the model's. -/
def Obligations.WriteErrorsRedoOnceThenHalt : Prop :=
  ∀ (s : State) (i : IssuedOwn) (u : WorkUnit) (ls : List Lane) (k : Nat) (c : Instr) (p : Phase) (want : OwnTag → Bool),
    (c, p, want) ∈ [(Instr.noteWriteDone (.error k), Phase.note, fun t : OwnTag => decide (t = .note)),
      (.applyWriteDone (.error k), .note, fun t : OwnTag => decide (t = .written)),
      (.applyWriteDone (.error k), .apply, isApplyTag),
      (.unitEnd (.error k), .clear, fun t : OwnTag => decide (t = .clear))] →
    UnitWrite s p want i u ls →
    (u.redoUsed = false → (i.req.tag = .note ∨ i.req.tag = .written) → ∃ t : State, exec c s = .next t ∧
      t.mem = s.mem.land i.req.addr ls (.error k) ∧ t.loader = oneMoreFault s.loader ∧ StatusShown s t ∧
      t.engine =
        { s.engine with
          unit := some { u with redoUsed := true, phase := .note, toWrite := (noteWrites u).tail } } ∧
      Awaits t .note (Config.noteBase + 1) (.write (lanesOf (put1 (u.owner.map Fin.val)))) ∧
      OnlyParts s t [.memory, .issued, .raised, .loader, .engine]) ∧
    (∀ g gs, u.redoUsed = false → i.req.tag ≠ .note → i.req.tag ≠ .written → u.changes = g :: gs →
      ∃ t : State, exec c s = .next t ∧ t.mem = s.mem.land i.req.addr ls (.error k) ∧
        t.loader = oneMoreFault s.loader ∧ StatusShown s t ∧
        t.engine =
          { s.engine with
            unit := some { u with redoUsed := true, phase := .apply, toWrite := gs.map s.applyWrite } } ∧
        Awaits t (s.applyWrite g).tag (s.applyWrite g).off (.write (s.applyWrite g).lanes) ∧
        OnlyParts s t [.memory, .issued, .raised, .loader, .engine, .streams] ∧
        (StreamsSettled s → SameStreams s t)) ∧
    (u.redoUsed = true → ∃ t : State, exec c s = .next t ∧ Halts s t u ∧ StatusShown s t ∧ t.mem = s.mem.land i.req.addr ls (.error k) ∧
      (∀ b : CurrentBatch, s.engine.batch = some b →
        haltFrom u b = (match u.entry with
          | none => b.next
          | some e => if u.kind = .endBatch then b.next else e + 1)) ∧
      ∀ (n : StreamId) (m : Nat), s.haltRecords n m =
        ((List.range (s.stream n).closedCount).filter (fun j => decide (m ≤ j))).map
          (fun j => s.outcomeRec n j ⟨.halted, 0, 0⟩))

/-! ## Steps that units share (chapters 7 to 9) -/

/-- Freshen of item `i` on day `T` (R144), and what the records changed by a unit mark spoiling: those that differ from what the unit's freshen steps left
(R74). That a borrower out of range is no borrower to charge (log 28), and that a balance above 9,999,999 has no room, so 0 is applied (log 47), are
the model's. -/
def Obligations.FreshenChargesTheDays : Prop :=
  (∀ (w : Work) (T i : Nat),
    ((w.item i).state ≠ .onLoan → w.freshen T i = w) ∧
    ∀ s due b : Nat, (w.item i).state = .onLoan → (w.item i).charged = some s → (w.item i).due = some due →
      w.ref .patrons (w.item i).borrower = some b →
      (T ≤ s → w.freshen T i = w) ∧
      (s < T → ∀ (e : ClassEntry) (days charge applied : Nat), e = w.setup.classOf (w.item i).cls →
        days = (if max s (due + e.grace) ≤ T then T - max s (due + e.grace) else 0) →
        charge = min (days * e.rate) (if (w.item i).accrued ≤ e.cap then e.cap - (w.item i).accrued else 0) →
        applied = min charge (9999999 - (w.patron b).balance) →
        (w.freshen T i).item i =
          { w.item i with accrued := (w.item i).accrued + applied, charged := some T, aside := none } ∧
        (w.freshen T i).patron b = { w.patron b with balance := (w.patron b).balance + applied } ∧
        (w.freshen T i).sum = { w.sum with charged := (w.sum.charged + applied) % 281474976710656 } ∧
        (w.freshen T i).fresh = [.item i [] ((w.freshen T i).item i), .patron b [] ((w.freshen T i).patron b)] ∧
        OnlyRecords { w with fresh := (w.freshen T i).fresh } (w.freshen T i)
          [.record .items i, .record .patrons b, .summary] ∧
        (applied = 0 → w.sum.charged < 281474976710656 →
          OnlyRecords { w with fresh := (w.freshen T i).fresh } (w.freshen T i) [.record .items i]))) ∧
  (∀ (w : Work) (x : Target), x ∈ w.spoilList ↔ ∃ g ∈ w.images, g.target = x ∧ g.spoilsIn w) ∧
  (∀ (w : Work) (r : Region) (i : Option Nat) (k : Nat), w.ref r i = some k ↔
    i = some k ∧ k < (w.setup.regions.entry r).count) ∧
  (∀ (x : Setup) (g : List (Target × List Byte)), (Work.start x g).images = [] ∧ (Work.start x g).fresh = [] ∧
    (Work.start x g).setup = x ∧ (Work.start x g).gathered = g ∧
    (Work.start x g).sum = parseSummary ((Work.start x g).raw .summary))

/-- Unlinking hold `h` from the queue of title `t` (R30), and freeing a hold to the head of the free list (R33). The queue is the walk from the first hold
along the next fields, over the queue's length (R121); that a link out of range ends it (log 28), that a length stored as 0 falls no further (log 47),
and what an unlink does when the queue does not reach the hold (log 61), are the model's. -/
def Obligations.HoldLeavesItsQueueAndIsFreed : Prop :=
  (∀ (w : Work) (t h : Nat) (pred : Option Nat),
    pred = (if (w.title t).first = some h then none else predecessor h (w.queue t)) →
    (w.unlink t h).title t =
      { w.title t with
        first := if (w.title t).first = some h then (w.hold h).next else (w.title t).first
        last := if (w.title t).last = some h then pred else (w.title t).last
        queueLen := (w.title t).queueLen - 1 } ∧
    (∀ p, pred = some p → (w.unlink t h).hold p = ({ w.hold p with next := (w.hold h).next } : Hold).written) ∧
    (w.unlink t h).sum = w.sum ∧
    OnlyRecords w (w.unlink t h) (.record .titles t :: holdTarget pred)) ∧
  (∀ (h p : Nat) (x y : Hold) (pre post : List (Nat × Hold)), (∀ z ∈ pre, z.1 ≠ h) → p ≠ h →
    predecessor h (pre ++ (p, x) :: (h, y) :: post) = some p) ∧
  (∀ (w : Work) (n h : Nat), w.walk 0 (some h) = [] ∧ w.walk n none = [] ∧
    (h < w.setup.regions.holds.count → w.walk (n + 1) (some h) = (h, w.hold h) :: w.walk n (w.hold h).next) ∧
    (w.setup.regions.holds.count ≤ h → w.walk (n + 1) (some h) = [])) ∧
  (∀ (w : Work) (t : Nat), w.queue t = w.walk (w.title t).queueLen (w.title t).first) ∧
  (∀ (w : Work) (h : Nat),
    (w.free h).hold h =
      { state := .free, pickup := 0, patron := none, title := none, placed := 0, suspend := none, copy := none,
        deadline := none, next := w.sum.freeHead } ∧
    (w.free h).sum = { w.sum with freeHead := some h, freeCount := w.sum.freeCount + 1 } ∧
    OnlyRecords w (w.free h) [.record .holds h, .summary])

/-- An offer of copy `c` to title `t` on day `T` (R121, R123, R124), and a seek (R125): a copy that circulates is trapped to the first ready hold of the
queue, resumed if suspended, ON_SHELF with a deadline when the copy stands at the pickup branch and IN_TRANSIT otherwise; without one it is left
AVAILABLE. A seek offers the first idle copy of the title's list, and without a ready hold changes nothing. -/
def Obligations.OfferTrapsTheOldestReadyHold : Prop :=
  (∀ (T : Nat) (x : Hold), readyHold T x = true ↔
    (x.state = .waiting ∨ (x.state = .suspended ∧ ∃ d, x.suspend = some d ∧ d ≤ T))) ∧
  (∀ (w : Work) (T c t : Nat),
    (((w.item c).circulates = false ∨ ∀ y ∈ w.queue t, readyHold T y.2 = false) →
      (w.offer T c t).2 = 0 ∧ OnlyRecords w (w.offer T c t).1 [.record .items c] ∧ (w.offer T c t).1.sum = w.sum ∧
      (w.offer T c t).1.item c =
        { w.item c with
          state := .available, borrower := none, due := none, charged := none, aside := none, renewals := 0
          accrued := 0 }) ∧
    (∀ (h : Nat) (x : Hold), (w.item c).circulates = true →
      (w.queue t).find? (fun y => readyHold T y.2) = some (h, x) →
      OnlyRecords w (w.offer T c t).1 [.record .items c, .record .holds h] ∧ (w.offer T c t).1.sum = w.sum ∧
      (w.offer T c t).1.item c =
        { w.item c with
          state := .setAside, borrower := none, due := none, charged := none, aside := some h, renewals := 0
          accrued := 0 } ∧
      ((w.item c).loc.getD (w.item c).home = (w.hold h).pickup →
        (w.offer T c t).2 = 2 ∧ (w.offer T c t).1.hold h =
          { w.hold h with
            state := .onShelf, suspend := none, copy := some c
            deadline := some (min (T + w.setup.limits.shelfDays) 65535) }) ∧
      ((w.item c).loc.getD (w.item c).home ≠ (w.hold h).pickup →
        (w.offer T c t).2 = 1 ∧ (w.offer T c t).1.hold h =
          { w.hold h with state := .inTransit, suspend := none, copy := some c, deadline := none }))) ∧
  (∀ (w : Work) (t c : Nat), w.idleCopy t c = true ↔
    (c < w.setup.regions.items.count ∧ (w.item c).title = t ∧ (w.item c).state = .available ∧
      (w.item c).circulates = true)) ∧
  (∀ (w : Work) (T t : Nat),
    ((∀ c ∈ (w.title t).copies, w.idleCopy t c = false) → w.seek T t = (w, 0)) ∧
    (∀ c, (w.title t).copies.find? (w.idleCopy t) = some c →
      ((∀ y ∈ w.queue t, readyHold T y.2 = false) → w.seek T t = (w, 0)) ∧
      ((∃ y ∈ w.queue t, readyHold T y.2 = true) → w.seek T t = w.offer T c t)))

/-- The expiry of hold `h` with copy `c` on day `T` (R129, R130), expire-on-touch (R103, R104), and the touch steps: freshen, then expire-on-touch
(R103). A title, holder or set-aside hold out of range is none (log 28), an active-hold count stored as 0 falls no further (log 47), and
the copy passed on is the item touched, whatever copy the hold names (log 61). -/
def Obligations.ExpiryFreesTheHoldAndPassesOn : Prop :=
  (∀ (w : Work) (T h c t p : Nat), w.ref .titles (w.hold h).title = some t →
    w.ref .patrons (w.hold h).patron = some p →
    ∃ v : Work, w.expire T h c = v.offer T c t ∧
      OnlyRecords ((w.unlink t h).free h) v [.record .patrons p, .summary] ∧
      v.sum = { ((w.unlink t h).free h).sum with expired := (w.sum.expired + 1) % 4294967296 } ∧
      ((w.setup.limits.noShowLimit = 0 ∨ min ((w.patron p).noShow + 1) 15 < w.setup.limits.noShowLimit) →
        v.patron p =
          { w.patron p with
            activeHolds := (w.patron p).activeHolds - 1, noShow := min ((w.patron p).noShow + 1) 15 }) ∧
      (w.setup.limits.noShowLimit ≠ 0 → w.setup.limits.noShowLimit ≤ min ((w.patron p).noShow + 1) 15 →
        v.patron p =
          { w.patron p with
            activeHolds := (w.patron p).activeHolds - 1, noShow := 0
            ban := some (min (T + w.setup.limits.banLength) 65535) })) ∧
  (∀ (T : Nat) (x : Hold), lapsed x T = true ↔ (x.state = .onShelf ∧ ∃ d, x.deadline = some d ∧ d < T)) ∧
  (∀ (w : Work) (T i : Nat),
    (∀ h, (w.item i).state = .setAside → w.ref .holds (w.item i).aside = some h → lapsed (w.hold h) T = true →
      w.expireOnTouch T i = (w.expire T h i).1) ∧
    (((w.item i).state ≠ .setAside ∨ w.ref .holds (w.item i).aside = none ∨
        ∃ h, (w.item i).aside = some h ∧ lapsed (w.hold h) T = false) → w.expireOnTouch T i = w) ∧
    w.touch T i = (w.freshen T i).expireOnTouch T i)

/-! ## Entries that act on the Session Table (chapter 3) -/

/-- CLAIM (R41 to R44): the card is judged, then who holds its patron. An unclaimed patron is claimed; a KIOSK's patron is taken over by a DESK or
SUPERVISOR, the victim's batch ended and its answer FRESH, CLAIM_TAKEN; any other holder gives IN_USE. A refusal changes no session and no record. That
the answer leaves the header's spare bytes, and that the session word's is zero, are the model's (log 48). -/
def Obligations.ClaimIsDecided : Prop :=
  ∀ (s : State) (u : WorkUnit) (b : CurrentBatch) (x : Setup) (w : Work) (card : Card),
    AtDecide s (.entry .claim) u b x → w = Work.start x u.gathered →
    card = parseCard (w.raw (.record .cards (s.unitEntry u).target)) →
    (x.regions.patrons.count ≤ card.patron → ∃ t : State, exec .claim s = .next t ∧
      Concludes s t u b w ⟨.cardUnknown, 0, 0⟩ .none) ∧
    (card.patron < x.regions.patrons.count →
      (card.state = .lost → ∃ t : State, exec .claim s = .next t ∧ Concludes s t u b w ⟨.cardLost, 0, 0⟩ .none) ∧
      (card.state = .withdrawn → ∃ t : State, exec .claim s = .next t ∧
        Concludes s t u b w ⟨.cardUnknown, 0, 0⟩ .none) ∧
      (card.state = .active →
        ((∀ m, (s.stream m).session ≠ .claimed card.patron) → (s.stream b.stream).session = .vacant →
          ∃ s1 t : State, exec .claim s = .next t ∧ OnlyParts s s1 [.streams, .raised] ∧
            OnlyStreams s s1 [b.stream] ∧ (s1.stream b.stream).session = .claimed card.patron ∧
            SessionWordRaised s1 b.stream ∧
            Concludes s1 t u b w ⟨.done, card.patron, (w.patron card.patron).balance⟩
              (if (w.patron card.patron).loans = [] then .none
                else .claim card.patron (w.patron card.patron).loans)) ∧
        (∀ v : StreamId, ClaimsUnique s → (s.stream v).session = .claimed card.patron →
          (s.grade b.stream = some .desk ∨ s.grade b.stream = some .supervisor) → s.grade v = some .kiosk →
          (s.stream b.stream).session = .vacant →
          ∃ s1 t : State, exec .claim s = .next t ∧ OnlyParts s s1 [.streams, .raised, .commitQueue] ∧
            OnlyStreams s s1 [b.stream, v] ∧ (s1.stream b.stream).session = .claimed card.patron ∧
            (s1.stream v).session = .vacant ∧ (s1.stream v).watches = [] ∧ (s1.stream v).idleTimer = none ∧
            (s1.stream v).checkFails = (s.stream v).checkFails ∧
            (((s.stream v).batch = .collecting ∨ (s.stream v).batch = .queued) → BatchIsIdle (s1.stream v)) ∧
            ((s.stream v).batch = .queued → s1.queue = s.queue.filter (fun m => decide (m ≠ v))) ∧
            ((s.stream v).batch ≠ .queued → s1.queue = s.queue) ∧
            SessionWordRaised s1 v ∧ SessionWordRaised s1 b.stream ∧
            AnswersFresh s1 v .claimTaken (s.stream v).guardHits ∧
            Concludes s1 t u b w ⟨.done, card.patron, (w.patron card.patron).balance⟩
              (if (w.patron card.patron).loans = [] then .none
                else .claim card.patron (w.patron card.patron).loans)) ∧
        (∀ v : StreamId, ClaimsUnique s → (s.stream v).session = .claimed card.patron →
          ((s.grade b.stream ≠ some .desk ∧ s.grade b.stream ≠ some .supervisor) ∨ s.grade v ≠ some .kiosk) →
          ∃ t : State, exec .claim s = .next t ∧ Concludes s t u b w ⟨.inUse, 0, 0⟩ .none)))

/-- RELEASE (R45) and STREAM_REOPEN (R50): the stream becomes VACANT, its watches cleared and its session word written; a BARRED stream named by
another one becomes VACANT with check-failure count 0, its batch and answer left as they stand. The session word's spare byte is zero: the model's
(log 48). -/
def Obligations.ReleaseAndReopenAreDecided : Prop :=
  (∀ (s : State) (u : WorkUnit) (b : CurrentBatch) (x : Setup) (p : Nat), AtDecide s (.entry .release) u b x →
    (s.stream b.stream).session = .claimed p → ∃ s1 t : State, exec .release s = .next t ∧
      OnlyParts s s1 [.streams, .raised] ∧ OnlyStreams s s1 [b.stream] ∧ (s1.stream b.stream).session = .vacant ∧
      (s1.stream b.stream).watches = [] ∧ (s1.stream b.stream).idleTimer = none ∧
      SessionWordRaised s1 b.stream ∧ Concludes s1 t u b (Work.start x u.gathered) ⟨.done, p, 0⟩ .none) ∧
  (∀ (s : State) (u : WorkUnit) (b : CurrentBatch) (x : Setup), AtDecide s (.entry .streamReopen) u b x →
    ((31 < (s.unitEntry u).target ∨ (s.unitEntry u).target = b.stream.val) →
      ∃ t : State, exec .streamReopen s = .next t ∧
        Concludes s t u b (Work.start x u.gathered) ⟨.badStream, 0, 0⟩ .none) ∧
    (∀ n : StreamId, (s.unitEntry u).target = n.val → n ≠ b.stream →
      ((s.stream n).session ≠ .barred → ∃ t : State, exec .streamReopen s = .next t ∧
        Concludes s t u b (Work.start x u.gathered) ⟨.notBarred, 0, 0⟩ .none) ∧
      ((s.stream n).session = .barred → ∃ s1 t : State, exec .streamReopen s = .next t ∧
        OnlyParts s s1 [.streams, .raised] ∧ OnlyStreams s s1 [n] ∧ (s1.stream n).session = .vacant ∧
        (s1.stream n).checkFails = 0 ∧ (s1.stream n).batch = (s.stream n).batch ∧
        (s1.stream n).answer = (s.stream n).answer ∧ SessionWordRaised s1 n ∧
        Concludes s1 t u b (Work.start x u.gathered) ⟨.done, n.val, (s.stream n).checkFails⟩ .none)))

/-! ## Loans and renewals (chapter 7) -/

/-- The standing checks (R151 to R153) and checks 1 to 5 of LEND (R107), in order. -/
def Obligations.LendChecksInOrder : Prop :=
  (∀ (k : Ctx) (p : Patron), standing k p =
    [if p.bar then some (plain .patronBarred) else none,
      if p.expiry < k.day then some ⟨.patronExpired, p.expiry, 0⟩ else none,
      if k.setup.limits.blockThreshold ≤ p.balance then
        some ⟨.fineBlock, p.balance, k.setup.limits.blockThreshold⟩ else none].findSome? id) ∧
  (∀ (k : Ctx) (w : Work), lendChecks k w =
    [if (w.item k.entry.target).circulates then none else some (plain .notCirculating),
      if (w.patron k.patron).bar then some (plain .patronBarred) else none,
      if (w.patron k.patron).expiry < k.day then some ⟨.patronExpired, (w.patron k.patron).expiry, 0⟩ else none,
      if k.setup.limits.blockThreshold ≤ (w.patron k.patron).balance then
        some ⟨.fineBlock, (w.patron k.patron).balance, k.setup.limits.blockThreshold⟩ else none,
      if k.setup.limits.loanLimit ≤ (w.patron k.patron).loans.length then
        some ⟨.loanLimit, (w.patron k.patron).loans.length, k.setup.limits.loanLimit⟩ else none].findSome? id)

/-- LEND (R107 to R110), on the records as the touch steps left them: a refusal writes what they changed; a loan makes the item ON_LOAN to the
claimed patron, due after the class's loan period, and appends it to the loan list; a copy set aside for the patron's own ON_SHELF hold at the
stream's branch is collected first. That a set-aside hold or a title out of range is none (log 28), that an absent due day shows 0 (log 47), and that a
set-aside hold neither IN_TRANSIT nor ON_SHELF shows 1 (log 61), are the model's. -/
def Obligations.LendIsDecided : Prop :=
  ∀ (s : State) (u : WorkUnit) (b : CurrentBatch) (x : Setup) (k : Ctx) (w : Work) (c : Item),
    AtDecide s (.entry .lend) u b x → k = s.ctx x u → w = (Work.start x u.gathered).touch k.day k.entry.target →
    c = w.item k.entry.target →
    (∀ o, lendChecks k w = some o → ∃ t : State, exec .lend s = .next t ∧ Concludes s t u b w o .none) ∧
    (lendChecks k w = none →
      (c.state = .onLoan → c.borrower = some k.patron → ∃ t : State, exec .lend s = .next t ∧
        Concludes s t u b w ⟨.alreadyYours, c.due.getD 0, 0⟩ .none) ∧
      (c.state = .onLoan → c.borrower ≠ some k.patron → ∃ t : State, exec .lend s = .next t ∧
        Concludes s t u b w ⟨.onLoan, c.due.getD 0, 0⟩ .none) ∧
      (c.state = .setAside → w.ref .holds c.aside = none → ∃ t : State, exec .lend s = .next t ∧
        Concludes s t u b w ⟨.reserved, 0, 0⟩ .none) ∧
      (∀ h, c.state = .setAside → w.ref .holds c.aside = some h →
        ¬((w.hold h).state = .onShelf ∧ (w.hold h).patron = some k.patron ∧ (w.hold h).pickup = k.branch) →
        ∃ t : State, exec .lend s = .next t ∧
          Concludes s t u b w ⟨.reserved, (w.hold h).pickup, if (w.hold h).state = .onShelf then 2 else 1⟩ .none) ∧
      (∀ v : Work,
        ((c.state = .available ∧ v = w) ∨
          (c.state = .setAside ∧ ∃ h, w.ref .holds c.aside = some h ∧ (w.hold h).state = .onShelf ∧
            (w.hold h).patron = some k.patron ∧ (w.hold h).pickup = k.branch ∧ v = w.collect k.patron h)) →
        ∃ (t : State) (z : Work) (due : Nat), exec .lend s = .next t ∧
          due = min (k.day + (k.setup.classOf c.cls).loanPeriod) 65535 ∧
          OnlyRecords v z [.record .items k.entry.target, .record .patrons k.patron, .summary] ∧
          z.item k.entry.target =
            { c with
              state := .onLoan, borrower := some k.patron, due := some due, renewals := 0, accrued := 0
              charged := some k.day, aside := none } ∧
          z.patron k.patron = { v.patron k.patron with loans := (v.patron k.patron).loans ++ [k.entry.target] } ∧
          z.sum = { v.sum with lent := (v.sum.lent + 1) % 4294967296 } ∧
          Concludes s t u b z ⟨.done, due, (v.patron k.patron).loans.length + 1⟩ .none)) ∧
    (∀ h tt, w.ref .titles (w.hold h).title = some tt → ∀ z : Work, z = (w.unlink tt h).free h →
      OnlyRecords z (w.collect k.patron h) [.record .patrons k.patron, .summary] ∧
      (w.collect k.patron h).patron k.patron =
        { w.patron k.patron with activeHolds := (w.patron k.patron).activeHolds - 1 } ∧
      (w.collect k.patron h).sum = { z.sum with collected := (w.sum.collected + 1) % 4294967296 })

/-- RETURN (R111, R112): an item ON_LOAN leaves its borrower's list, its loan fields are emptied, its location becomes the stream's branch and it is
offered to its title; anything else is NOT_ON_LOAN. That a borrower out of range has no list (log 28), and that every place of the list naming the item is
removed (log 61), are the model's. -/
def Obligations.ReturnIsDecided : Prop :=
  ∀ (s : State) (u : WorkUnit) (b : CurrentBatch) (x : Setup) (k : Ctx) (w : Work) (c : Item),
    AtDecide s (.entry .returnItem) u b x → k = s.ctx x u →
    w = (Work.start x u.gathered).touch k.day k.entry.target → c = w.item k.entry.target →
    (c.state ≠ .onLoan → ∃ t : State, exec .returnItem s = .next t ∧
      Concludes s t u b w ⟨.notOnLoan, 0, 0⟩ .none) ∧
    (c.state = .onLoan → ∃ (t : State) (v : Work) (r : Work × Nat), exec .returnItem s = .next t ∧
      OnlyRecords w v (.record .items k.entry.target :: w.targets .patrons c.borrower) ∧ v.sum = w.sum ∧
      v.item k.entry.target =
        { c with
          state := .available, borrower := none, due := none, charged := none, aside := none, renewals := 0
          accrued := 0, loc := some k.branch } ∧
      (∀ p, w.ref .patrons c.borrower = some p →
        v.patron p =
          { w.patron p with loans := (w.patron p).loans.filter (fun i => decide (i ≠ k.entry.target)) }) ∧
      (c.title < x.regions.titles.count → r = v.offer k.day k.entry.target c.title) ∧
      (x.regions.titles.count ≤ c.title → r = (v, 0)) ∧
      Concludes s t u b (r.1.setSum (fun m => { m with returned := (m.returned + 1) % 4294967296 }))
        ⟨.done, c.accrued, r.2⟩ .none)

/-- RENEW (R77, R113, R114): its checks in order, the watch of a KIOSK stream second, and the extension of the loan. A renewal sub-unit runs the
same without the watch (R117). -/
def Obligations.RenewIsDecided : Prop :=
  (∀ (s : State) (u : WorkUnit) (b : CurrentBatch) (x : Setup) (k : Ctx) (d : Work × Outcome),
    AtDecide s (.entry .renew) u b x → k = s.ctx x u →
    d = renewItem k (Work.start x u.gathered) k.entry.target true →
    ∃ t : State, exec .renew s = .next t ∧ Concludes s t u b d.1 d.2 .none) ∧
  (∀ (k : Ctx) (w0 w : Work) (i : Nat) (ask : Bool), w = w0.touch k.day i →
    (¬((w.item i).state = .onLoan ∧ (w.item i).borrower = some k.patron) →
      renewItem k w0 i ask = (w, ⟨.notYours, 0, 0⟩)) ∧
    ((w.item i).state = .onLoan → (w.item i).borrower = some k.patron →
      (ask = true → k.grade = some .kiosk → (∀ v ∈ k.watches, ¬(v.region = .items ∧ v.index = i)) →
        renewItem k w0 i ask = (w, ⟨.notShown, i, 0⟩)) ∧
      (∀ v, ask = true → k.grade = some .kiosk → findWatch k.watches .items i = some v → v.condition = .spoiled →
        renewItem k w0 i ask = (w, ⟨.changed, i, 0⟩)) ∧
      ((ask = false ∨ k.grade ≠ some .kiosk ∨
          ∃ v, findWatch k.watches .items i = some v ∧ v.condition = .unspoiled) →
        (∀ o, standing k (w.patron k.patron) = some o → renewItem k w0 i ask = (w, o)) ∧
        (standing k (w.patron k.patron) = none →
          ((k.setup.classOf (w.item i).cls).renewalLimit ≤ (w.item i).renewals →
            renewItem k w0 i ask =
              (w, ⟨.renewLimit, (w.item i).renewals, (k.setup.classOf (w.item i).cls).renewalLimit⟩)) ∧
          ((w.item i).renewals < (k.setup.classOf (w.item i).cls).renewalLimit →
            (∀ pos h y, (w.item i).title < w.setup.regions.titles.count →
              firstAt (fun z => readyHold k.day z.2) 1 (w.queue (w.item i).title) = some (pos, h, y) →
              renewItem k w0 i ask = (w, ⟨.holdsWaiting, pos, (w.title (w.item i).title).queueLen⟩)) ∧
            (∀ due old, (w.setup.regions.titles.count ≤ (w.item i).title ∨
                ∀ z ∈ w.queue (w.item i).title, readyHold k.day z.2 = false) →
              (w.item i).due = some old →
              due = min (max k.day old + (k.setup.classOf (w.item i).cls).loanPeriod) 65535 →
              (renewItem k w0 i ask).2 = ⟨.done, due, (w.item i).renewals + 1⟩ ∧
              OnlyRecords w (renewItem k w0 i ask).1 [.record .items i, .summary] ∧
              (renewItem k w0 i ask).1.item i =
                { w.item i with due := some due, renewals := (w.item i).renewals + 1, aside := none } ∧
              (renewItem k w0 i ask).1.sum = { w.sum with renewed := (w.sum.renewed + 1) % 4294967296 })))))) ∧
  (∀ (k : Ctx) (w : Work) (i : Nat), renewItem k w i false = renewItem { k with grade := some .desk } w i true)

/-- RENEW_SET, RENEWAL_SUB_UNIT and CLOSING_UNIT (R116 to R118): the range and the watch on the patron are checked, the selection is fixed in ascending order, each
position is renewed by a unit of its own that writes the provisional outcome CUT, and the closing unit sums them up. The first unit goes on as a renewal
sub-unit, kind 17, or on an empty selection as the closing unit, kind 18; a refused one keeps the kind 6 it was gathered with: these kinds are the model's
(DEDUCED, log 24). -/
def Obligations.RenewSetIsDecided : Prop :=
  (∀ (k : Ctx) (w : Work) (pos i : Nat), (pos, i) ∈ selection k w ↔
    (1 ≤ pos ∧ k.entry.first ≤ pos ∧ pos ≤ k.entry.last ∧ pos ∉ k.entry.excluded ∧
      (w.patron k.patron).loans[pos - 1]? = some i)) ∧
  (∀ (k : Ctx) (w : Work), (selection k w).Pairwise (fun x y => x.1 < y.1)) ∧
  (∀ (s : State) (u : WorkUnit) (b : CurrentBatch) (x : Setup) (k : Ctx) (w : Work),
    AtDecide s (.entry .renewSet) u b x → k = s.ctx x u → w = Work.start x u.gathered →
    (¬(1 ≤ k.entry.first ∧ k.entry.first ≤ k.entry.last ∧ k.entry.last ≤ 40) →
      ∃ t : State, exec .renewSet s = .next t ∧ Concludes s t u b w ⟨.badTarget, 0, 0⟩ .none) ∧
    (1 ≤ k.entry.first → k.entry.first ≤ k.entry.last → k.entry.last ≤ 40 →
      (k.grade = some .kiosk → findWatch k.watches .patrons k.patron = none →
        ∃ t : State, exec .renewSet s = .next t ∧ Concludes s t u b w ⟨.notShown, k.patron, 0⟩ .none) ∧
      (∀ v, k.grade = some .kiosk → findWatch k.watches .patrons k.patron = some v → v.condition = .spoiled →
        ∃ t : State, exec .renewSet s = .next t ∧ Concludes s t u b w ⟨.changed, k.patron, 0⟩ .none) ∧
      ((k.grade ≠ some .kiosk ∨
          ∃ v, findWatch k.watches .patrons k.patron = some v ∧ v.condition = .unspoiled) →
        (selection k w = [] →
          ∃ t : State, exec .renewSet s = .next t ∧
            Concludes s t { u with kind := .closing, code := 18 } b w ⟨.done, 0, 0⟩ .none) ∧
        (∀ pos i rest d, selection k w = (pos, i) :: rest → d = renewItem k w i false →
          (d.2.code = .done → ∃ t : State, exec .renewSet s = .next t ∧
            Concludes s t { u with kind := .renewalSub, code := 17 } b d.1 ⟨.cut, 1, 0⟩ (.renew ⟨rest, 1, 0, none⟩)) ∧
          (d.2.code ≠ .done → ∃ t : State, exec .renewSet s = .next t ∧
            Concludes s t { u with kind := .renewalSub, code := 17 } b d.1 ⟨.cut, 0, 0⟩ (.renew ⟨rest, 0, 1, some (pos, d.2.code)⟩)))))) ∧
  (∀ (s : State) (u : WorkUnit) (b : CurrentBatch) (x : Setup) (r : RenewProgress) (pos i : Nat)
      (rest : List (Nat × Nat)) (d : Work × Outcome),
    AtDecide s .renewalSub u b x → b.sub = .renew r → r.remaining = (pos, i) :: rest →
    d = renewItem (s.ctx x u) (Work.start x u.gathered) i false →
    (d.2.code = .done → ∃ t : State, exec .renewalSubUnit s = .next t ∧
      Concludes s t u b d.1 ⟨.cut, r.renewed + 1, 0⟩
        (.renew ⟨rest, r.renewed + 1, r.refused, r.firstRefusal⟩)) ∧
    (d.2.code ≠ .done → ∃ t : State, exec .renewalSubUnit s = .next t ∧
      Concludes s t u b d.1 ⟨.cut, r.renewed, 0⟩
        (.renew ⟨rest, r.renewed, r.refused + 1, some (r.firstRefusal.getD (pos, d.2.code))⟩))) ∧
  (∀ (s : State) (u : WorkUnit) (b : CurrentBatch) (x : Setup) (r : RenewProgress),
    AtDecide s .closing u b x → b.sub = .renew r →
    (r.firstRefusal = none → ∃ t : State, exec .closingUnit s = .next t ∧
      Concludes s t u b (Work.start x []) ⟨.done, r.renewed, r.refused * 256⟩ .none) ∧
    (∀ pos code, r.firstRefusal = some (pos, code) →
      (0 < r.renewed → ∃ t : State, exec .closingUnit s = .next t ∧
        Concludes s t u b (Work.start x []) ⟨.partially, r.renewed, r.refused * 256 + pos⟩ .none) ∧
      (r.renewed = 0 → ∃ t : State, exec .closingUnit s = .next t ∧
        Concludes s t u b (Work.start x []) ⟨code, 0, r.refused * 256 + pos⟩ .none)))

/-! ## Holds and fines (chapters 8 and 9) -/

/-- HOLD_PLACE (R133 to R135): the thirteen checks in order; the free-list head placed at the end of the title's queue, WAITING or SUSPENDED; the
patron's and the title's counts raised; then a seek for the title. A free count above 0 with no free-list head in range answers POOL_FULL: the model's choice
(log 47); a last hold out of range is none (log 28); a queue with one of its two ends absent is the model's too (log 61). -/
def Obligations.HoldPlaceIsDecided : Prop :=
  (∀ (k : Ctx) (w : Work) (p : Patron) (t : Title), w.setup = k.setup → p = w.patron k.patron →
    t = w.title k.entry.target → holdPlaceChecks k w =
      [if 63 < k.entry.pickup then some ⟨.badTarget, k.entry.pickup, 0⟩ else none,
        if p.bar then some ⟨.patronBarred, 0, 0⟩ else none,
        if p.expiry < k.day then some ⟨.patronExpired, p.expiry, 0⟩ else none,
        if k.setup.limits.blockThreshold ≤ p.balance then
          some ⟨.fineBlock, p.balance, k.setup.limits.blockThreshold⟩ else none,
        (p.ban.filter (fun d => decide (k.day < d))).map (fun d => ⟨.holdBan, d, 0⟩),
        if k.grade = some .kiosk ∧ findWatch k.watches .titles k.entry.target = none then
          some ⟨.notShown, k.entry.target, 0⟩ else none,
        if k.grade = some .kiosk ∧ (findWatch k.watches .titles k.entry.target).any
            (fun v => decide (v.condition = .spoiled)) then some ⟨.changed, k.entry.target, 0⟩ else none,
        (k.entry.until.filter (fun d => decide (d ≤ k.day ∨ 65535 < d))).map (fun d => ⟨.badDay, d, 0⟩),
        (firstAt (fun x => decide (x.2.patron = some k.patron)) 1 (w.queue k.entry.target)).map
          (fun x => ⟨.holdExists, x.1, 0⟩),
        (t.copies.find? (fun c => decide (c < k.setup.regions.items.count ∧
            (w.item c).title = k.entry.target ∧ (w.item c).state = .onLoan ∧
            (w.item c).borrower = some k.patron))).map (fun c => ⟨.haveCopy, c, 0⟩),
        if k.setup.limits.holdLimit ≤ p.activeHolds then
          some ⟨.holdLimit, p.activeHolds, k.setup.limits.holdLimit⟩ else none,
        if 255 ≤ t.queueLen then some ⟨.queueFull, t.queueLen, 0⟩ else none,
        if w.sum.freeCount = 0 then some ⟨.poolFull, 0, 0⟩ else none,
        (t.copies.find? (fun c => decide (c < k.setup.regions.items.count ∧
            (w.item c).title = k.entry.target ∧ (w.item c).state = .available ∧ (w.item c).circulates = true ∧
            (w.item c).loc.getD (w.item c).home = k.entry.pickup))).map
          (fun c => ⟨.copyHere, c, 0⟩)].findSome? id) ∧
  (∀ (s : State) (u : WorkUnit) (b : CurrentBatch) (x : Setup) (k : Ctx) (w : Work),
    AtDecide s (.entry .holdPlace) u b x → k = s.ctx x u → w = Work.start x u.gathered →
    (∀ o, holdPlaceChecks k w = some o → ∃ t : State, exec .holdPlace s = .next t ∧ Concludes s t u b w o .none) ∧
    (holdPlaceChecks k w = none → w.ref .holds w.sum.freeHead = none → ∃ t : State, exec .holdPlace s = .next t ∧
      Concludes s t u b w ⟨.poolFull, 0, 0⟩ .none) ∧
    (∀ h, holdPlaceChecks k w = none → w.ref .holds w.sum.freeHead = some h → (w.title k.entry.target).last ≠ some h →
      ∃ (t : State) (v : Work), exec .holdPlace s = .next t ∧
        OnlyRecords w v ([.record .holds h, .record .titles k.entry.target, .record .patrons k.patron, .summary] ++
          w.targets .holds (w.title k.entry.target).last) ∧
        v.hold h =
          { state := if k.entry.until = none then .waiting else .suspended, pickup := k.entry.pickup
            patron := some k.patron, title := some k.entry.target, placed := k.day, suspend := k.entry.until
            copy := none, deadline := none, next := none } ∧
        (∀ l, w.ref .holds (w.title k.entry.target).last = some l → v.hold l = ({ w.hold l with next := some h } : Hold).written) ∧
        v.title k.entry.target =
          { w.title k.entry.target with
            first := some ((w.title k.entry.target).first.getD h), last := some h
            queueLen := (w.title k.entry.target).queueLen + 1 } ∧
        v.patron k.patron = { w.patron k.patron with activeHolds := (w.patron k.patron).activeHolds + 1 } ∧
        v.sum =
          { w.sum with
            freeHead := (w.hold h).next, freeCount := w.sum.freeCount - 1
            placed := (w.sum.placed + 1) % 4294967296 } ∧
        Concludes s t u b (v.seek k.day k.entry.target).1
          ⟨.done, (w.title k.entry.target).queueLen + 1, (w.title k.entry.target).queueLen + 1⟩ .none))

/-- HOLD_CANCEL and HOLD_PAUSE (R136 to R139): the patron's hold in the title's queue is found; a lapsed one expires and is no hold; a cancel unlinks
and frees it and offers its copy; a pause refuses a hold with a copy and a day that cannot be taken, and otherwise resumes the hold, with a seek,
or suspends it. A copy out of range is none: its hold expires or is cancelled without a pass-on (log 28, 47). That a lapsed hold leaves the queue it was
found in, and its copy is offered to that queue, whatever title the hold names, is the model's (log 61); where the hold names that title, as every hold
that units wrote does, this is the expiry of R129. -/
def Obligations.HoldCancelAndPauseAreDecided : Prop :=
  (∀ (p : Nat × Hold → Bool) (l : List (Nat × Hold)) (j h : Nat) (y : Hold), firstAt p 1 l = some (j, h, y) ↔
    (1 ≤ j ∧ l[j - 1]? = some (h, y) ∧ p (h, y) = true ∧ ∀ z ∈ l.take (j - 1), p z = false)) ∧
  (∀ (s : State) (u : WorkUnit) (b : CurrentBatch) (x : Setup) (k : Ctx) (w : Work) (c : Instr) (e : EntryKind),
    (c, e) ∈ [(Instr.holdCancel, EntryKind.holdCancel), (.holdPause, .holdPause)] →
    AtDecide s (.entry e) u b x → k = s.ctx x u → w = Work.start x u.gathered →
    ((∀ z ∈ w.queue k.entry.target, z.2.patron ≠ some k.patron) → ∃ t : State, exec c s = .next t ∧
      Concludes s t u b w ⟨.noHold, 0, 0⟩ .none) ∧
    (∀ j h y v, firstAt (fun z => decide (z.2.patron = some k.patron)) 1 (w.queue k.entry.target) = some (j, h, y) →
      lapsed y k.day = true → v = w.expireFrom k.day (some k.entry.target) h →
      (∀ i, w.ref .items y.copy = some i → ∃ t : State, exec c s = .next t ∧
        Concludes s t u b (v.offer k.day i k.entry.target).1 ⟨.noHold, 0, 1⟩ .none) ∧
      (w.ref .items y.copy = none → ∃ t : State, exec c s = .next t ∧ Concludes s t u b v ⟨.noHold, 0, 1⟩ .none) ∧
      OnlyRecords ((w.unlink k.entry.target h).free h) v [.record .patrons k.patron, .summary] ∧
      v.sum = { ((w.unlink k.entry.target h).free h).sum with expired := (w.sum.expired + 1) % 4294967296 } ∧
      (k.patron < w.count .patrons → v.patron k.patron = (w.patron k.patron).expired k.setup.limits k.day) ∧
      (w.ref .titles (w.hold h).title = some k.entry.target →
        ∀ i, w.expire k.day h i = v.offer k.day i k.entry.target))) ∧
  (∀ (s : State) (u : WorkUnit) (b : CurrentBatch) (x : Setup) (k : Ctx) (w v : Work) (j h : Nat) (y : Hold),
    AtDecide s (.entry .holdCancel) u b x → k = s.ctx x u → w = Work.start x u.gathered →
    firstAt (fun z => decide (z.2.patron = some k.patron)) 1 (w.queue k.entry.target) = some (j, h, y) →
    lapsed y k.day = false → v = (w.unlink k.entry.target h).free h →
    ∃ (t : State) (z : Work) (r : Work × Nat), exec .holdCancel s = .next t ∧
      OnlyRecords v z [.record .patrons k.patron, .summary] ∧
      z.patron k.patron = { w.patron k.patron with activeHolds := (w.patron k.patron).activeHolds - 1 } ∧
      z.sum = { v.sum with cancelled := (w.sum.cancelled + 1) % 4294967296 } ∧
      (∀ i, (y.state = .inTransit ∨ y.state = .onShelf) → w.ref .items y.copy = some i →
        r = z.offer k.day i k.entry.target) ∧
      ((y.state = .waiting ∨ y.state = .suspended ∨ w.ref .items y.copy = none) → r = (z, 0)) ∧
      Concludes s t u b r.1 ⟨.done, j, r.2⟩ .none) ∧
  (∀ (s : State) (u : WorkUnit) (b : CurrentBatch) (x : Setup) (k : Ctx) (w : Work) (j h : Nat) (y : Hold),
    AtDecide s (.entry .holdPause) u b x → k = s.ctx x u → w = Work.start x u.gathered →
    firstAt (fun z => decide (z.2.patron = some k.patron)) 1 (w.queue k.entry.target) = some (j, h, y) →
    lapsed y k.day = false →
    (y.state = .inTransit → ∃ t : State, exec .holdPause s = .next t ∧ Concludes s t u b w ⟨.holdBusy, 1, 0⟩ .none) ∧
    (y.state = .onShelf → ∃ t : State, exec .holdPause s = .next t ∧ Concludes s t u b w ⟨.holdBusy, 2, 0⟩ .none) ∧
    ((y.state = .waiting ∨ y.state = .suspended) →
      (k.entry.until = none → ∃ t : State, exec .holdPause s = .next t ∧
        Concludes s t u b w ⟨.badDay, 0, 0⟩ .none) ∧
      (∀ d, k.entry.until = some d → ((1 ≤ d ∧ d ≤ k.day) ∨ 65535 < d) →
        ∃ t : State, exec .holdPause s = .next t ∧ Concludes s t u b w ⟨.badDay, d, 0⟩ .none) ∧
      (k.entry.until = some 0 → y.state = .waiting → ∃ t : State, exec .holdPause s = .next t ∧
        Concludes s t u b w ⟨.done, 0, 0⟩ .none) ∧
      (k.entry.until = some 0 → y.state = .suspended → ∃ (t : State) (v : Work), exec .holdPause s = .next t ∧
        OnlyRecords w v [.record .holds h] ∧ v.sum = w.sum ∧
        v.hold h = { w.hold h with state := .waiting, suspend := none, copy := none, deadline := none } ∧
        Concludes s t u b (v.seek k.day k.entry.target).1 ⟨.done, 0, (v.seek k.day k.entry.target).2⟩ .none) ∧
      (∀ d, k.entry.until = some d → k.day < d → d ≤ 65535 → ∃ (t : State) (v : Work),
        exec .holdPause s = .next t ∧ OnlyRecords w v [.record .holds h] ∧ v.sum = w.sum ∧
        v.hold h = { w.hold h with state := .suspended, suspend := some d, copy := none, deadline := none } ∧
        Concludes s t u b v ⟨.done, d, 0⟩ .none)))

/-- PAY and WAIVE (R148, R149), ARRIVE (R140) and PATRON_BAR (R154): their checks in order and what each changes. That a set-aside hold out of range is none
(log 28), and that an absent holder shows 0 (log 47), are the model's. -/
def Obligations.PayWaiveArriveBarAreDecided : Prop :=
  (∀ (s : State) (u : WorkUnit) (b : CurrentBatch) (x : Setup) (k : Ctx) (w : Work) (c : Instr) (e : EntryKind),
    (c, e) ∈ [(Instr.pay, EntryKind.pay), (.waive, .waive)] →
    AtDecide s (.entry e) u b x → k = s.ctx x u → w = Work.start x u.gathered →
    ((k.entry.amount = 0 ∨ 9999999 < k.entry.amount) → ∃ t : State, exec c s = .next t ∧
      Concludes s t u b w ⟨.badAmount, k.entry.amount, 0⟩ .none) ∧
    (1 ≤ k.entry.amount → k.entry.amount ≤ 9999999 →
      (e = .waive → k.grade = some .desk → x.limits.waiveLimit < k.entry.amount → ∃ t : State, exec c s = .next t ∧
        Concludes s t u b w ⟨.overWaiveLimit, k.entry.amount, x.limits.waiveLimit⟩ .none) ∧
      ((e = .pay ∨ k.grade ≠ some .desk ∨ k.entry.amount ≤ x.limits.waiveLimit) →
        ((w.patron k.patron).balance < k.entry.amount → ∃ t : State, exec c s = .next t ∧
          Concludes s t u b w ⟨.overBalance, (w.patron k.patron).balance, k.entry.amount⟩ .none) ∧
        (k.entry.amount ≤ (w.patron k.patron).balance → ∃ (t : State) (v : Work), exec c s = .next t ∧
          OnlyRecords w v [.record .patrons k.patron, .summary] ∧
          v.patron k.patron = { w.patron k.patron with balance := (w.patron k.patron).balance - k.entry.amount } ∧
          v.sum =
            (if e = .pay then { w.sum with paid := (w.sum.paid + k.entry.amount) % 281474976710656 }
              else { w.sum with waived := (w.sum.waived + k.entry.amount) % 281474976710656 }) ∧
          Concludes s t u b v
            ⟨.done, (w.patron k.patron).balance - k.entry.amount,
              if e = .pay then k.entry.amount else k.entry.reason⟩ .none)))) ∧
  (∀ (s : State) (u : WorkUnit) (b : CurrentBatch) (x : Setup) (k : Ctx) (w : Work) (c : Item),
    AtDecide s (.entry .arrive) u b x → k = s.ctx x u →
    w = (Work.start x u.gathered).expireOnTouch k.day k.entry.target → c = w.item k.entry.target →
    ((c.state ≠ .setAside ∨ w.ref .holds c.aside = none ∨ ∃ h, c.aside = some h ∧ (w.hold h).state ≠ .inTransit) →
      ∃ t : State, exec .arrive s = .next t ∧ Concludes s t u b w ⟨.notInTransit, 0, 0⟩ .none) ∧
    (∀ h, c.state = .setAside → w.ref .holds c.aside = some h → (w.hold h).state = .inTransit →
      ((w.hold h).pickup ≠ k.branch → ∃ t : State, exec .arrive s = .next t ∧
        Concludes s t u b w ⟨.wrongBranch, (w.hold h).pickup, 0⟩ .none) ∧
      ((w.hold h).pickup = k.branch → ∃ (t : State) (v : Work) (deadline : Nat), exec .arrive s = .next t ∧
        deadline = min (k.day + x.limits.shelfDays) 65535 ∧
        OnlyRecords w v [.record .holds h, .record .items k.entry.target] ∧ v.sum = w.sum ∧
        v.hold h = { w.hold h with state := .onShelf, deadline := some deadline, suspend := none } ∧
        v.item k.entry.target =
          { c with loc := some k.branch, borrower := none, due := none, charged := none } ∧
        Concludes s t u b v ⟨.done, deadline, (w.hold h).patron.getD 0⟩ .none))) ∧
  (∀ (s : State) (u : WorkUnit) (b : CurrentBatch) (x : Setup) (k : Ctx) (w : Work) (p : Patron),
    AtDecide s (.entry .patronBar) u b x → k = s.ctx x u → w = Work.start x u.gathered →
    p = w.patron k.entry.target → ∃ (t : State) (v : Work), exec .patronBar s = .next t ∧
      OnlyRecords w v [.record .patrons k.entry.target] ∧ v.sum = w.sum ∧
      v.patron k.entry.target =
        (if k.entry.bar then { p with bar := true } else { p with bar := false, ban := none, noShow := 0 }) ∧
      Concludes s t u b v ⟨.done, if p.bar then 1 else 0, p.noShow⟩ .none)

/-! ## Units beside the entry kinds (chapters 6 and 9) -/

/-- FRESHEN_SUB_UNIT (R146), SKIP_UNIT (R87), END_UNIT (R94, R95) and FAULT_UNIT (R96): what each writes. END_UNIT's image runs from
the header through every entry's record in order, and holds no other (R90, section 6.4). And what the end of every batch unit's decide makes of the batch: the
unit that finishes the last entry carries the header FRESH, COMPLETE, with the entry count, the guard-hit count and the records kept on chip; any other its own record
alone (R90); a finished entry gives way to the next, with whether it finished DONE, and one with sub-units still to run stands (R86, R87). -/
def Obligations.OtherBatchUnitsAreDecided : Prop :=
  (∀ (s : State) (b : CurrentBatch) (o : OutcomeRec),
    (∀ f : Bool, (f = false ∨ b.next + 1 ≠ (s.stream b.stream).closedCount) →
      s.deskImage b o f = ⟨b.stream, none, b.next, [o]⟩) ∧
    (b.next + 1 = (s.stream b.stream).closedCount → s.deskImage b o true =
      ⟨b.stream, some ⟨.fresh, .complete, (s.stream b.stream).closedCount, (s.stream b.stream).guardHits⟩, 0,
        putOutcome b.outcomes o⟩)) ∧
  (∀ (b : CurrentBatch) (o : OutcomeRec) (sub : SubUnits),
    b.after o .none =
      { b with
        next := b.next + 1, prevDone := decide (o.code = .done), sub := .none
        outcomes := putOutcome b.outcomes o } ∧
    (sub ≠ .none → b.after o sub = { b with sub := sub, outcomes := putOutcome b.outcomes o })) ∧
  (∀ (os : List OutcomeRec) (o : OutcomeRec),
    (o.entry ∈ os.map (fun x => x.entry) → putOutcome os o = os.map (fun x => if x.entry = o.entry then o else x)) ∧
    (o.entry ∉ os.map (fun x => x.entry) → putOutcome os o = os ++ [o])) ∧
  (∀ (s : State) (u : WorkUnit) (b : CurrentBatch) (x : Setup) (p i : Nat) (rest : List Nat) (w : Work),
    AtDecide s .freshenSub u b x → b.sub = .claim p (i :: rest) → w = (Work.start x u.gathered).freshen u.day i →
    ∃ t : State, exec .freshenSubUnit s = .next t ∧
      Concludes s t u b w ⟨.done, p, (w.patron p).balance⟩ (if rest = [] then .none else .claim p rest)) ∧
  (∀ (s : State) (u : WorkUnit) (b : CurrentBatch) (x : Setup), AtDecide s .skip u b x →
    ∃ t : State, exec .skipUnit s = .next t ∧ Concludes s t u b (Work.start x []) ⟨.skipped, 0, 0⟩ .none) ∧
  (∀ (s : State) (u : WorkUnit) (b : CurrentBatch) (x : Setup) (tg : Target), AtDecide s .fault u b x →
    u.failed = some tg → ∃ t : State, exec .faultUnit s = .next t ∧
      Concludes s t u b (Work.start x [])
        (match tg with
          | .record r i => ⟨.storeFault, i, r.code⟩
          | .summary => ⟨.storeFault, 0, 6⟩
          | .desk n => ⟨.storeFault, n.val, 7⟩) .none) ∧
  (∀ (s : State) (u : WorkUnit) (b : CurrentBatch) (x : Setup), AtDecide s .endBatch u b x →
    ∃ (t : State) (h : AnswerHeader) (os : List OutcomeRec), exec .endUnit s = .next t ∧
      NoteBegins s t u (Work.start x []) (some ⟨b.stream, some h, 0, os⟩) ∧ t.engine.batch = s.engine.batch ∧
      h.state = .fresh ∧ h.count = (s.stream b.stream).closedCount ∧
      h.result = (if b.cut = none then .complete else .cut) ∧
      h.guardHits = (if b.cut = some .warmReset then 0 else (s.stream b.stream).guardHits) ∧
      (b.next < (s.stream b.stream).closedCount →
        (b.outcomes.map (fun o => o.entry) = List.range b.next ∨ b.outcomes.map (fun o => o.entry) = List.range (b.next + 1)) →
        os.map (fun o => o.entry) = List.range (s.stream b.stream).closedCount) ∧
      ∀ i : Nat,
        (i < b.next → os.find? (fun o => decide (o.entry = i)) = b.outcomes.find? (fun o => decide (o.entry = i))) ∧
        (b.next ≤ i → i < (s.stream b.stream).closedCount →
          (b.cut = none → os.find? (fun o => decide (o.entry = i)) =
            some (s.outcomeRec b.stream i ⟨.cancelled, 0, 0⟩)) ∧
          (b.cut ≠ none → (b.next < i ∨ b.sub = .none) → os.find? (fun o => decide (o.entry = i)) =
            some (s.outcomeRec b.stream i ⟨.cut, 0, 0⟩)) ∧
          (∀ p is, b.cut ≠ none → i = b.next → b.sub = .claim p is → os.find? (fun o => decide (o.entry = i)) =
            some (s.outcomeRec b.stream i ⟨.cut, p, 0⟩)) ∧
          (∀ r, b.cut ≠ none → i = b.next → b.sub = .renew r → os.find? (fun o => decide (o.entry = i)) =
            some (s.outcomeRec b.stream i ⟨.cut, r.renewed, 0⟩))))

/-! ## The Day Sweep (chapter 10) -/

/-- SWEEP_FRESHEN, SWEEP_EXPIRY, SWEEP_RESUME and SWEEP_PROGRESS (R163 to R165): the record is judged against the day captured at the gather; work found
begins a note whose summary image, if any, carries the sweep fields; a unit without work is empty and ends at once; a progress unit always writes. That either
SWEEP_FRESHEN or SWEEP_EXPIRY ends an item unit without work (log 44), and that an index out of range names no record (log 28), are the model's. -/
def Obligations.SweepUnitsAreDecided : Prop :=
  (∀ (s : State) (u : WorkUnit) (x : Setup) (i : Nat) (w v : Work), AtSweepDecide s (.item i) u x →
    w = Work.start x u.gathered → v = w.freshen u.day i →
    (∀ c d p, (w.item i).state = .onLoan → (w.item i).charged = some c → c < u.day → (w.item i).due = some d →
      w.ref .patrons (w.item i).borrower = some p → ∃ (t : State) (z : Work), exec .sweepFreshen s = .next t ∧
        NoteBegins s t { u with code := 32 } z none ∧ OnlyRecords v z [.summary] ∧
        (v.sum = w.sum → z.sum = w.sum) ∧
        (v.sum ≠ w.sum → u.reported = true →
          z.sum = s.sweep.inSummary v.sum s.sweep.phase (i + 1) s.sweep.sweptThrough)) ∧
    ((w.item i).state ≠ .onLoan ∨ (w.item i).charged = none ∨ (∃ c, (w.item i).charged = some c ∧ u.day ≤ c) →
      ((w.item i).state ≠ .setAside ∨ w.ref .holds (w.item i).aside = none ∨
        ∃ h, (w.item i).aside = some h ∧ lapsed (w.hold h) u.day = false) →
      EmptySweepUnit s u (.item i) (exec .sweepFreshen s) ∧ EmptySweepUnit s u (.item i) (exec .sweepExpiry s)) ∧
    (∀ h, (w.item i).state = .setAside → w.ref .holds (w.item i).aside = some h → lapsed (w.hold h) u.day = true →
      ∃ (t : State) (z : Work), exec .sweepExpiry s = .next t ∧ NoteBegins s t { u with code := 33 } z none ∧
        OnlyRecords (w.expire u.day h i).1 z [.summary] ∧
        (u.reported = true →
          z.sum = s.sweep.inSummary (w.expire u.day h i).1.sum s.sweep.phase (i + 1) s.sweep.sweptThrough))) ∧
  (∀ (s : State) (u : WorkUnit) (x : Setup) (h : Nat) (w : Work), AtSweepDecide s (.resume h) u x →
    w = Work.start x u.gathered →
    (∀ d, (w.hold h).state = .suspended → (w.hold h).suspend = some d → d ≤ u.day →
      ∃ (t : State) (v : Work), exec .sweepResume s = .next t ∧ OnlyRecords w v [.record .holds h] ∧ v.sum = w.sum ∧
        v.hold h = { w.hold h with state := .waiting, suspend := none, copy := none, deadline := none } ∧
        (∀ tt, w.ref .titles (w.hold h).title = some tt →
          NoteBegins s t { u with code := 34 } (v.seek u.day tt).1 none) ∧
        (w.ref .titles (w.hold h).title = none → NoteBegins s t { u with code := 34 } v none)) ∧
    (((w.hold h).state ≠ .suspended ∨ (w.hold h).suspend = none ∨ ∃ d, (w.hold h).suspend = some d ∧ u.day < d) →
      EmptySweepUnit s u (.resume h) (exec .sweepResume s))) ∧
  (∀ (s : State) (u : WorkUnit) (x : Setup) (e : Bool), AtSweepDecide s (.progress e) u x →
    ∃ (t : State) (m : Summary) (y : WorkUnit), exec .sweepProgress s = .next t ∧
      (u.reported = true → m = s.sweep.inSummary (Work.start x u.gathered).sum (if e then .idle else .holds) 0
        (if e then s.sweep.target else s.sweep.sweptThrough)) ∧
      y = { u with code := 35, phase := .note, changes := [.summary m], spoil := [] } ∧
      t.engine = { s.engine with unit := some { y with toWrite := (noteWrites y).tail } } ∧
      Awaits t .note (Config.noteBase + 1) (.write (lanesOf (put1 (u.owner.map Fin.val)))) ∧
      OnlyParts s t [.engine, .raised])

/-- SWEEP_READ_DONE and SWEEP_READ_TIMEOUT (R161 to R163, R166): a record met in the in-flight set is read again; an item ON_LOAN and charged before
the target, or set aside for a hold lapsed against it, and a hold suspended until a day come are offered; any other record is passed; one that cannot be
read is counted and skipped. Going on, the sweep reads the next record, or offers a progress unit at the end of a phase. A read of a dropped pass or of
a stopped sweep is discarded, and its error counted (R166 to R168); that such an error skips no record, and that an error is judged before the in-flight
set, are the model's (log 42), as are that a set-aside hold out of range calls for no read (log 28) and the zeros in the status word's spare bytes
(log 48). -/
def Obligations.SweepExaminesRecords : Prop :=
  (∀ (s : State) (i : IssuedOwn) (e : Examined) (a : Answer) (d : List Byte), ExamRead s i e → s.ownData i a = some d →
    (e.target ∈ i.touched → ∃ t : State, exec (.sweepReadDone a) s = .next t ∧
      OnlyParts s t [.issued, .raised, .sweep] ∧ t.sweep = { s.sweep with reading := some (s.serial, e) } ∧
      Awaits t .sweepRead (s.targetOff e.target) (.read e.target.len)) ∧
    (e.target ∉ i.touched →
      (∀ j, e = .item j →
        ((∃ c, (parseItem d).state = .onLoan ∧ (parseItem d).charged = some c ∧ c < s.sweep.target) →
          OffersUnit s (.item j) (exec (.sweepReadDone a) s)) ∧
        (∀ h, (parseItem d).state = .setAside → (parseItem d).aside = some h → h < s.regionCount .holds →
          ∃ t : State, exec (.sweepReadDone a) s = .next t ∧ OnlyParts s t [.issued, .raised, .sweep] ∧
            t.sweep = { s.sweep with reading := some (s.serial, .asideHold j h) } ∧
            Awaits t .sweepRead (s.targetOff (.record .holds h)) (.read 64)) ∧
        (((parseItem d).state = .available ∨
            ((parseItem d).state = .onLoan ∧ ∀ c, (parseItem d).charged = some c → s.sweep.target ≤ c) ∨
            ((parseItem d).state = .setAside ∧ ∀ h, (parseItem d).aside = some h → s.regionCount .holds ≤ h)) →
          GoesPast s (exec (.sweepReadDone a) s))) ∧
      (∀ j h, e = .asideHold j h →
        (lapsed (parseHold d) s.sweep.target = true → OffersUnit s (.item j) (exec (.sweepReadDone a) s)) ∧
        (lapsed (parseHold d) s.sweep.target = false → GoesPast s (exec (.sweepReadDone a) s))) ∧
      (∀ h, e = .hold h →
        ((∃ c, (parseHold d).state = .suspended ∧ (parseHold d).suspend = some c ∧ c ≤ s.sweep.target) →
          OffersUnit s (.resume h) (exec (.sweepReadDone a) s)) ∧
        (((parseHold d).state ≠ .suspended ∨ ∀ c, (parseHold d).suspend = some c → s.sweep.target < c) →
          GoesPast s (exec (.sweepReadDone a) s))))) ∧
  (∀ (s : State) (i : IssuedOwn) (e : Examined), ExamRead s i e →
    (∀ k : Nat, exec (.sweepReadDone (.error k)) s = exec .sweepReadTimeout s) ∧
    ∃ v : State, exec .sweepReadTimeout s = .next v.sweepExamine ∧ v.loader = oneMoreFault s.loader ∧ StatusShown s v ∧
      v.sweep =
        { s.sweep with
          skipped := min (s.sweep.skipped + 1) 65535, position := s.sweep.position + 1, offer := none
          reading := none } ∧
      OnlyParts s v [.issued, .raised, .loader, .sweep]) ∧
  (∀ (s : State) (i : IssuedOwn), s.inReset = false → s.pullOwn (fun q => decide (q.tag = .sweepRead)) = some i →
    (∀ r, s.sweep.reading = some r → r.1 ≠ i.req.serial) →
    (∀ (a : Answer) (d : List Byte), s.ownData i a = some d →
      ∃ v : State, exec (.sweepReadDone a) s = .next v.sweepExamine ∧ OnlyParts s v [.issued]) ∧
    (∀ k : Nat, exec (.sweepReadDone (.error k)) s = exec .sweepReadTimeout s) ∧
    ∃ v : State, exec .sweepReadTimeout s = .next v.sweepExamine ∧ v.loader = oneMoreFault s.loader ∧
      (s.loader.faults < 65535 → StatusRaised v s.loader.part s.loader.result (s.loader.faults + 1)) ∧
      OnlyParts s v [.issued, .raised, .loader]) ∧
  (∀ s : State, s.loader.part = .ready → s.engine.running = true → s.sweep.stopped = false → s.sweep.offer = none →
    s.sweep.reading = none → s.sweepReading = false →
    (s.sweep.phase = .idle → s.sweepExamine = s) ∧
    (s.sweep.phase = .items →
      (s.sweep.position < s.regionCount .items →
        s.sweepExamine.sweep = { s.sweep with reading := some (s.serial, .item s.sweep.position) } ∧
        Awaits s.sweepExamine .sweepRead (s.targetOff (.record .items s.sweep.position)) (.read 64) ∧
        OnlyParts s s.sweepExamine [.sweep, .raised]) ∧
      (s.regionCount .items ≤ s.sweep.position → s.sweepExamine =
        { s with sweep := { s.sweep with phase := .holds, position := 0, offer := some (.progress false) } })) ∧
    (s.sweep.phase = .holds →
      (s.sweep.position < s.regionCount .holds →
        s.sweepExamine.sweep = { s.sweep with reading := some (s.serial, .hold s.sweep.position) } ∧
        Awaits s.sweepExamine .sweepRead (s.targetOff (.record .holds s.sweep.position)) (.read 64) ∧
        OnlyParts s s.sweepExamine [.sweep, .raised]) ∧
      (s.regionCount .holds ≤ s.sweep.position → s.sweepExamine =
        { s with sweep := { s.sweep with offer := some (.progress true) } }))) ∧
  (∀ s : State, (s.loader.part ≠ .ready ∨ s.engine.running = false ∨ s.sweep.stopped = true ∨ s.sweep.offer ≠ none ∨
    s.sweep.reading ≠ none) → s.sweepExamine = s)

/-! ## The calendar and the setup words (chapters 10 and 11) -/

/-- CALENDAR_WRITE (R157, R158, R160): a whole write of a later day moves today, and in READY begins a pass, at item 0 at once, or after the end of a
sweep unit already begun (R164, R167; a read raised is not taken back: the model's, log 59); an equal day, and a write of the word in part,
leave today; an earlier day is refused with CALENDAR_BACKWARD. The word is rewritten with today after each. In UNSET and STARTING nothing is taken. The
zeros in the status word's spare bytes are the model's (log 48). -/
def Obligations.CalendarWritesAreJudged : Prop :=
  (∀ (a k : Nat) (ls : List Lane), a + k = Config.calendarOff → k + 8 ≤ ls.length →
    ((∀ j < 8, (ls.getD (k + j) noLane).strobe = true) →
      calendarDay (strobedCells a ls) =
        some ((ls.getD k noLane).value.toNat + 256 * (ls.getD (k + 1) noLane).value.toNat)) ∧
    ((∃ j < 8, (ls.getD (k + j) noLane).strobe = false) → calendarDay (strobedCells a ls) = none)) ∧
  (∀ (s : State) (tag : Nat) (i : IssuedUp), SetupWrite s tag i Config.calendarOff →
    ∃ v : State, exec (.calendarWrite tag .done) s = .next v.drain ∧
      v.mem = s.mem.writeLanes i.up.req.start i.up.req.lanes ∧ Answered v tag ⟨true, []⟩ ∧
      ((s.loader.part = .unset ∨ s.loader.part = .starting) → OnlyParts s v [.memory, .upstream]) ∧
      (∀ now : Nat, s.loader.today = some now →
        (s.loader.part = .ready ∨ s.loader.part = .unformatted ∨ s.loader.part = .formatting) →
        (∀ d, calendarDay (s.cells i.up.req) = some d → now < d →
          v.loader = { s.loader with today := some d } ∧
          Awaits v .calendar Config.calendarOff (.write (lanesOf (leBytes 2 d ++ zeros 6))) ∧
          OnlyParts s v [.memory, .upstream, .raised, .loader, .sweep, .engine] ∧
          (s.loader.part ≠ .ready → v.sweep = s.sweep ∧ v.engine = s.engine) ∧
          (s.loader.part = .ready → 0 < s.regionCount .items →
            v.sweep.phase = .items ∧ v.sweep.target = d ∧ v.sweep.position = 0 ∧
            v.sweep.sweptThrough = s.sweep.sweptThrough ∧ v.sweep.skipped = s.sweep.skipped ∧
            v.engine = { s.engine with unit := s.engine.unit.map WorkUnit.unreported } ∧
            ((∀ u o, s.engine.unit = some u → u.kind ≠ .sweep o) → v.sweep.offer = none ∧
              (s.engine.running = true → s.sweep.stopped = false → s.sweepReading = false →
                Awaits v .sweepRead (s.targetOff (.record .items 0)) (.read 64))) ∧
            (∀ u o, s.engine.unit = some u → u.kind = .sweep o → s.sweep.offer ≠ none →
              v.sweep.offer = s.sweep.offer ∧ v.sweep.reading = none ∧
                ∀ q ∈ v.ownWaiting, q.tag = .sweepRead → q ∈ s.ownWaiting))) ∧
        (∀ d, calendarDay (s.cells i.up.req) = some d → d < now →
          v.loader = { s.loader with result := ⟨.calendarBackward, 0⟩ } ∧
          Awaits v .calendar Config.calendarOff (.write (lanesOf (leBytes 2 now ++ zeros 6))) ∧
          StatusRaised v s.loader.part ⟨.calendarBackward, 0⟩ s.loader.faults ∧
          OnlyParts s v [.memory, .upstream, .raised, .loader]) ∧
        ((calendarDay (s.cells i.up.req) = some now ∨ calendarDay (s.cells i.up.req) = none) →
          Awaits v .calendar Config.calendarOff (.write (lanesOf (leBytes 2 now ++ zeros 6))) ∧
          OnlyParts s v [.memory, .upstream, .raised])))

/-- APPLY_REQUEST, FORMAT_REQUEST and WARM_RESET_REQUEST (R172): in READY a request joins the pending list, once of each kind; in UNFORMATTED it is begun at
once when nothing is under way; in UNSET only an apply is taken; while FORMATTING an apply or a format is refused BUSY and a warm reset waits. A write of
a setup word answered error is handed to no block and is answered error. A write that covers several words is taken word by word, in ascending address
order, and any of the commands whose part a write covers answers it alike (log 43). That STARTING takes none (log 18), that a request leaves the list when it
is begun (log 19), that its first read is of the region table (log 16), that a warm reset in UNFORMATTED waits in the list for its own event (log 20), what
memory holds of a write answered error (log 6), and the zeros in the status word's spare bytes (log 48) are the model's. -/
def Obligations.SetupRequestsAreTaken : Prop :=
  (∀ (s : State) (tag : Nat) (i : IssuedUp) (c : Answer → Instr) (k : RequestKind) (w : Nat),
    (∀ a, (c a, k, w) ∈ [(Instr.applyRequest tag a, RequestKind.apply, Config.applyOff),
      (.formatRequest tag a, .format, Config.formatOff), (.warmResetRequest tag a, .warmReset, Config.warmOff)]) →
    SetupWrite s tag i w →
    ∃ v : State, exec (c .done) s = .next v.drain ∧
      v.mem = s.mem.writeLanes i.up.req.start i.up.req.lanes ∧ Answered v tag ⟨true, []⟩ ∧
      OnlyParts s v [.memory, .upstream, .loader, .raised] ∧
      (s.loader.part = .starting → v.loader = s.loader) ∧
      (s.loader.part = .unset → k ≠ .apply → v.loader = s.loader) ∧
      (s.loader.part = .formatting → k ≠ .warmReset →
        v.loader = { s.loader with result := ⟨.busy, 0⟩ } ∧
        (s.loader.result ≠ ⟨.busy, 0⟩ → StatusRaised v .formatting ⟨.busy, 0⟩ s.loader.faults)) ∧
      ((s.loader.part = .ready ∨ (s.loader.part = .formatting ∧ k = .warmReset) ∨
          (s.loader.part = .unformatted ∧ (k = .warmReset ∨ s.loader.job ≠ .idle)) ∨
          (s.loader.part = .unset ∧ k = .apply ∧ s.loader.job ≠ .idle)) →
        (k ∈ s.loader.requests → v.loader = s.loader) ∧
        (k ∉ s.loader.requests → (s.loader.part = .unformatted → s.loader.job = .idle → s.loader.requests = []) →
          v.loader = { s.loader with requests := s.loader.requests ++ [k] })) ∧
      ((s.loader.part = .unformatted ∧ k ≠ .warmReset ∨ s.loader.part = .unset ∧ k = .apply) →
        s.loader.job = .idle → s.loader.requests = [] →
        v.loader = { s.loader with job := .reading k .regions [] } ∧ Awaits v .setupRead 0 (.read 40))) ∧
  (∀ (s : State) (tag : Nat) (i : IssuedUp), WriteDownstream s tag i → i.up.tag = tag →
    (∀ (a : Answer), ∀ x ∈ writeCommands tag a, ∀ y ∈ writeCommands tag a, x.2 s i.up.req = true → y.2 s i.up.req = true →
      exec x.1 s = exec y.1 s) ∧
    (∀ x ∈ writeCommands tag .done, x.2 s i.up.req = true → NoOwnWriteHolds s tag →
      s.coversSlots i.up.req = false → s.coversClose i.up.req = false → s.coversCancel i.up.req = false →
      exec x.1 s = .next ((((s.handedOn i).setupWordsTaken i.up.req).complete tag ⟨true, []⟩).drain))) ∧
  (∀ (s : State) (k : RequestKind), OnlyParts s (s.takeRequest k) [.loader, .raised] ∧
    ((s.loader.part = .starting ∨ (s.loader.part = .unset ∧ k ≠ .apply)) → s.takeRequest k = s) ∧
    (s.loader.part = .formatting → k ≠ .warmReset →
      (s.takeRequest k).loader = { s.loader with result := ⟨.busy, 0⟩ }) ∧
    ((s.loader.part = .ready ∨ s.loader.part = .unformatted ∨ (s.loader.part = .unset ∧ k = .apply) ∨
        (s.loader.part = .formatting ∧ k = .warmReset)) →
      (k ∈ s.loader.requests → s.takeRequest k = s) ∧
      (k ∉ s.loader.requests → (s.takeRequest k).loader =
        if s.loader.part = .unset ∨ s.loader.part = .unformatted then
          ({ s.loader with requests := s.loader.requests ++ [k] } : Loader).begun
        else { s.loader with requests := s.loader.requests ++ [k] }))) ∧
  (∀ (s : State) (tag n : Nat) (i : IssuedUp) (c : Instr) (w : Nat),
    (c, w) ∈ [(Instr.calendarWrite tag (.error n), Config.calendarOff), (.applyRequest tag (.error n), Config.applyOff),
      (.formatRequest tag (.error n), Config.formatOff), (.warmResetRequest tag (.error n), Config.warmOff)] →
    SetupWrite s tag i w → ∃ v : State, exec c s = .next v.drain ∧ Answered v tag ⟨false, []⟩ ∧
      v.mem = s.mem.land i.up.req.start i.up.req.lanes (.error n) ∧ OnlyParts s v [.memory, .upstream])

/-- SETUP_READ_DONE and SETUP_READ_TIMEOUT (R173), and validation (R171): the contents are read one after another; a block that passes waits for its event, one
that fails ends the request with the first failure in the order of R171, and a read that fails ends it with READ_FAULT, counted. And where each field
stands in the block (section 12.3, R181). The split of the block into these reads is the model's (log 16), as are the first byte of OVERLAP's field, the
earlier region's code (log 49), and the zeros in the status word's spare bytes (log 48). -/
def Obligations.SetupBlockIsReadAndValidated : Prop :=
  (∀ (s : State) (i : IssuedOwn) (k : RequestKind) (p : SetupPart) (block : Memory), SetupRead s i k p block →
    (∀ (a : Answer) (d : List Byte), s.ownData i a = some d →
      (∀ q, p.following = some q → ∃ t : State, exec (.setupReadDone a) s = .next t ∧
        OnlyParts s t [.issued, .raised, .loader] ∧
        t.loader = { s.loader with job := .reading k q (addPart block p d) } ∧ Awaits t .setupRead q.off (.read q.len)) ∧
      (p = .calendar →
        (∀ u, validate (addPart block p d) (if k = .apply ∧ s.loader.part = .ready then s.regions else none) = .ok u →
          ∃ t : State, exec (.setupReadDone a) s = .next t ∧ OnlyParts s t [.issued, .loader] ∧
            t.loader = { s.loader with job := .validated k u }) ∧
        (∀ r, validate (addPart block p d) (if k = .apply ∧ s.loader.part = .ready then s.regions else none) = .error r →
          (s.loader.part = .ready ∨ s.loader.requests = []) → ∃ t : State, exec (.setupReadDone a) s = .next t ∧
            OnlyParts s t [.issued, .raised, .loader] ∧ t.loader = { s.loader with result := r, job := .idle } ∧
            (s.loader.result ≠ r → StatusRaised t s.loader.part r s.loader.faults)))) ∧
    (∀ n : Nat, exec (.setupReadDone (.error n)) s = exec .setupReadTimeout s) ∧
    ((s.loader.part = .ready ∨ s.loader.requests = []) → ∃ t : State, exec .setupReadTimeout s = .next t ∧
      OnlyParts s t [.issued, .raised, .loader] ∧
      t.loader = { oneMoreFault s.loader with result := ⟨.readFault, 0⟩, job := .idle } ∧ StatusShown s t)) ∧
  (∀ (b : Memory) (fixed : Option RegionTable),
    (∀ r : Region, (∀ q : Region, q.code < r.code → RegionFits (blockRegions b) q) →
      (¬(((blockRegions b).entry r).offset % 4096 = 0 ∧ 65536 ≤ ((blockRegions b).entry r).offset) →
        validate b fixed = .error ⟨.misaligned, r.code⟩) ∧
      (((blockRegions b).entry r).offset % 4096 = 0 → 65536 ≤ ((blockRegions b).entry r).offset →
        (¬(((blockRegions b).entry r).count % 1024 = 0 ∧ 1024 ≤ ((blockRegions b).entry r).count ∧
            ((blockRegions b).entry r).count ≤ r.maxCount) → validate b fixed = .error ⟨.badCount, r.code⟩) ∧
        (((blockRegions b).entry r).count % 1024 = 0 → 1024 ≤ ((blockRegions b).entry r).count →
          ((blockRegions b).entry r).count ≤ r.maxCount →
          1073741824 < ((blockRegions b).entry r).offset + ((blockRegions b).entry r).count * r.size →
          validate b fixed = .error ⟨.beyondAperture, r.code⟩))) ∧
    ((∀ r : Region, RegionFits (blockRegions b) r) → ∀ r q : Region, r.code < q.code →
      (∀ r' q' : Region, r'.code < q'.code → (r'.code < r.code ∨ (r' = r ∧ q'.code < q.code)) →
        RegionsApart (blockRegions b) r' q') →
      ¬RegionsApart (blockRegions b) r q → validate b fixed = .error ⟨.overlap, r.code + 256 * q.code⟩) ∧
    (TableFits (blockRegions b) →
      (∀ n < 32, (∀ m < n, StreamFits b m) →
        (¬(1 ≤ blockField b (65 + 4 * n) 1 ∧ blockField b (65 + 4 * n) 1 ≤ 3) →
          validate b fixed = .error ⟨.outOfRange, 65 + 4 * n⟩) ∧
        (1 ≤ blockField b (65 + 4 * n) 1 → blockField b (65 + 4 * n) 1 ≤ 3 → 63 < blockField b (66 + 4 * n) 1 →
          validate b fixed = .error ⟨.outOfRange, 66 + 4 * n⟩)) ∧
      ((∀ n < 32, StreamFits b n) →
        (∀ pre f post, fieldRanges = pre ++ f :: post → (∀ g ∈ pre, FieldFits b g) → ¬FieldFits b f →
          validate b fixed = .error ⟨.outOfRange, f.1⟩) ∧
        ((∀ f ∈ fieldRanges, FieldFits b f) →
          (fixed = none ∨ fixed = some (blockRegions b) → validate b fixed = .ok (blockSetup b)) ∧
          (∀ t, fixed = some t → t ≠ blockRegions b → validate b fixed = .error ⟨.regionsFixed, 0⟩))))) ∧
  (∀ (b : Memory) (off n : Nat), blockField b off n = leNat (b.bytes off n) ∧ (blockSetup b).regions = blockRegions b ∧
    blockDay b = blockField b 3840 2 ∧ blockFaults b = blockField b 3876 2) ∧
  (∀ (b : Memory) (p : SetupPart) (d : List Byte), d.length = p.len →
    (addPart b p d).bytes p.off p.len = d ∧
      ∀ a : Nat, (a < p.off ∨ p.off + p.len ≤ a) → (addPart b p d).read a = b.read a) ∧
  [SetupPart.status, .regions, .streams, .classes, .limits, .calendar].map (fun p => (p.off, p.len)) =
    [(3872, 8), (0, 40), (64, 128), (192, 64), (256, 20), (3840, 8)] ∧
  (∀ (b : Memory) (r : Region), (blockRegions b).entry r =
    ⟨blockField b (8 * (r.code - 1)) 4, blockField b (8 * (r.code - 1) + 4) 4⟩) ∧
  (∀ (b : Memory) (n : StreamId) (c : StreamCfg), c = (blockSetup b).streams[n.val] →
    (c.enable = true ↔ blockField b (64 + 4 * n.val) 1 % 2 = 1) ∧
    (∀ g : Grade, blockField b (65 + 4 * n.val) 1 = g.code → c.grade = g) ∧
    c.branch = blockField b (66 + 4 * n.val) 1 ∧ (c.attention = true ↔ blockField b (67 + 4 * n.val) 1 % 2 = 1)) ∧
  (∀ (b : Memory) (c : Nat), c < 8 → (blockSetup b).classOf c =
    ⟨blockField b (192 + 8 * c) 1, blockField b (193 + 8 * c) 1, blockField b (194 + 8 * c) 2,
      blockField b (196 + 8 * c) 2, blockField b (198 + 8 * c) 1⟩) ∧
  (∀ (b : Memory) (l : Limits), l = (blockSetup b).limits →
    l.loanLimit = blockField b 256 1 ∧ l.holdLimit = blockField b 257 1 ∧ l.blockThreshold = blockField b 260 4 ∧
    l.noShowLimit = blockField b 264 1 ∧ l.shelfDays = blockField b 265 1 ∧ l.banLength = blockField b 266 2 ∧
    l.waiveLimit = blockField b 268 4 ∧ l.idleLimit = blockField b 272 2 ∧ l.collectLimit = blockField b 274 1 ∧
    l.checkLimit = blockField b 275 1)

/-- APPLY (R51, R173) and FORMAT (R174, R70, R168): the block takes effect in one event. An enabled stream that was OFF becomes VACANT; a disabled one OFF, its
batch cut; any other stands. In UNSET the part returns to STARTING and reads the block again. A format is accepted in UNFORMATTED, and in READY when no stream
is CLAIMED and no batch is queued or current, else refused BUSY. A running timer that has reached its new limit expires at once (R46, R56). That the rerun
from UNSET takes no request (log 18), that an apply or a second format pending behind an accepted format stays in the list (log 51, 19), the order within the acceptance (log 22), that the sweep keeps its target and position (log 54), that an answer leaves
the header's spare bytes, and the zeros in those of the session and status words (log 48), are the model's. -/
def Obligations.ApplyAndFormatTakeEffect : Prop :=
  (∀ (s : State) (u : Setup), s.inReset = false → s.loader.job = .validated .apply u →
    (s.loader.part = .unset → ∃ t : State, exec .applySetup s = .next t ∧
      t.loader =
        { s.loader with part := .starting, job := .startup ⟨.readSetup .regions, false, [], 0, []⟩ } ∧
      StatusRaised t .starting s.loader.result s.loader.faults ∧ Awaits t .startupRead 0 (.read 40) ∧
      OnlyParts s t [.loader, .raised]) ∧
    ((s.loader.part = .ready ∨ (s.loader.part = .unformatted ∧ s.loader.requests = [])) → StreamsSettled s →
      ∃ t : State, exec .applySetup s = .next t ∧
        t.loader = { s.loader with inForce := some u, result := ⟨.accepted, 0⟩, job := .idle } ∧
        (s.loader.result ≠ ⟨.accepted, 0⟩ → StatusRaised t s.loader.part ⟨.accepted, 0⟩ s.loader.faults) ∧
        t.queue = s.queue.filter (fun n => decide (¬((s.stream n).session ≠ .off ∧
          (u.streams[n.val]).enable = false ∧ (s.stream n).batch = .queued))) ∧
        (∀ b, s.engine.batch = some b →
          ((∃ n : StreamId, (s.stream n).session ≠ .off ∧ (u.streams[n.val]).enable = false ∧
            (s.stream n).batch = .settling) → b.cut = none →
            t.engine = { s.engine with batch := some { b with cut := some .disabled } }) ∧
          ((∀ n : StreamId, (s.stream n).batch = .settling →
            ((s.stream n).session = .off ∨ (u.streams[n.val]).enable = true)) → t.engine = s.engine)) ∧
        (∀ n : StreamId, (u.streams[n.val]).enable = true →
          (¬IdleTimerDue (s.stream n) u → ¬CollectTimerDue (s.stream n) u → t.stream n =
            { s.stream n with
              session := if (s.stream n).session = .off then .vacant else (s.stream n).session }) ∧
          (IdleTimerDue (s.stream n) u → ¬CollectTimerDue (s.stream n) u →
            (t.stream n).session = .vacant ∧ (t.stream n).watches = [] ∧ (t.stream n).idleTimer = none ∧
            (t.stream n).batch = (s.stream n).batch ∧ (t.stream n).guardHits = (s.stream n).guardHits ∧
            (t.stream n).checkFails = (s.stream n).checkFails ∧ SessionWordRaised t n ∧
            AnswersFresh t n .idleRelease (s.stream n).guardHits) ∧
          (CollectTimerDue (s.stream n) u → (s.stream n).batch = .collecting →
            BatchIsIdle (t.stream n) ∧ AnswersFresh t n .collectTimeout (s.stream n).guardHits ∧
            (t.stream n).session = (if (s.stream n).session = .off then .vacant else (s.stream n).session) ∧
            (t.stream n).watches = (s.stream n).watches ∧ (t.stream n).guardHits = (s.stream n).guardHits ∧
            ∀ p : Nat, (s.stream n).session = .claimed p → (t.stream n).idleTimer = some 0)) ∧
        (∀ n : StreamId, (u.streams[n.val]).enable = false →
          (t.stream n).session = .off ∧ (t.stream n).checkFails = 0 ∧ (t.stream n).watches = [] ∧
          (t.stream n).idleTimer = none ∧ (t.stream n).guardHits = (s.stream n).guardHits ∧
          (((s.stream n).session = .off ∨ (s.stream n).batch = .idle ∨ (s.stream n).batch = .settling) →
            ¬CollectTimerDue (s.stream n) u →
            (t.stream n).batch = (s.stream n).batch ∧ (t.stream n).answer = (s.stream n).answer) ∧
          ((s.stream n).session = .off → (s.stream n).batch = .collecting → CollectTimerDue (s.stream n) u →
            BatchIsIdle (t.stream n) ∧ AnswersFresh t n .collectTimeout (s.stream n).guardHits) ∧
          ((s.stream n).session ≠ .off → ((s.stream n).batch = .collecting ∨ (s.stream n).batch = .queued) →
            BatchIsIdle (t.stream n) ∧ AnswersFresh t n .cut (s.stream n).guardHits)) ∧
        (∀ n : StreamId, t.sessionWord n ≠ s.sessionWord n → SessionWordRaised t n) ∧
        OnlyParts s t [.loader, .raised, .streams, .commitQueue, .engine])) ∧
  (∀ (s : State) (u : Setup), s.inReset = false → s.loader.job = .validated .format u →
    (s.loader.part = .ready →
      ((∃ (n : StreamId) (p : Nat), (s.stream n).session = .claimed p) ∨ s.queue ≠ [] ∨ s.engine.batch ≠ none) →
      ∃ t : State, exec .format s = .next t ∧ t.loader = { s.loader with result := ⟨.busy, 0⟩, job := .idle } ∧
        (s.loader.result ≠ ⟨.busy, 0⟩ → StatusRaised t .ready ⟨.busy, 0⟩ s.loader.faults) ∧
        OnlyParts s t [.loader, .raised]) ∧
    ((s.loader.part = .unformatted ∨ (s.loader.part = .ready ∧ s.queue = [] ∧ s.engine.batch = none)) →
      (∀ n : StreamId, (∀ p, (s.stream n).session ≠ .claimed p) ∧
        ((s.stream n).batch = .idle ∧ (s.stream n).collectTimer = none ∨ (s.stream n).batch = .collecting)) →
      StreamsSettled s → ∃ t : State, exec .format s = .next t ∧
        t.loader =
          { s.loader with
            inForce := some u, part := .formatting, result := ⟨.accepted, 0⟩
            job := .formatting ⟨.stampZero, false, s.loader.today.getD 0⟩ } ∧
        StatusRaised t .formatting ⟨.accepted, 0⟩ s.loader.faults ∧
        Awaits t .format Config.summaryBase (.write (lanesOf (zeros 8))) ∧
        t.sweep =
          { s.sweep with
            phase := .idle, offer := none, reading := none, skipped := 0
            sweptThrough := s.loader.today.getD 0 } ∧
        (∀ n : StreamId, (t.stream n).answer = .empty ∧ (t.stream n).batch = .idle ∧
          (t.stream n).guardHits = (s.stream n).guardHits ∧
          ((s.stream n).batch = .collecting → BatchIsIdle (t.stream n)) ∧
          (t.stream n).session =
            (if (u.streams[n.val]).enable then
              (if (s.stream n).session = .off then .vacant else (s.stream n).session) else .off)) ∧
        OnlyParts s t [.loader, .raised, .streams, .sweep]))

/-- FORMAT_WRITE_DONE (R175, R176): the write stands in memory and the next of the order is raised; after the last the part is READY, the answers held for
format go on, and a pass begins when today has moved on. A write answered error is counted and raised once more; a second error ends format with
FORMAT_FAULT, the stamp left zero. An answer write held for a desk goes on when format's write of that desk is answered. Every byte written is given, each
mark byte zero (R35), those the rules name no value for by the model's choices. How much one write covers, and that the places of an empty copy list are written absent (log 21, 40), what memory holds of a write
answered error (log 6), that the stamp's own write answered error leaves it zero while the zeroing of the stamp has landed at its second error (log 50),
that held answers go on at FORMAT_FAULT (log 55), and the zeros in the spare bytes of the session and status words and in the spare bytes 6 to 15 of each
card record (log 48) are the model's. -/
def Obligations.FormatWritesInOrder : Prop :=
  (∀ (s : State) (i : IssuedOwn) (ls : List Lane) (f : Formatting), FormatWritten s i ls f →
    (∀ p, s.formatNext f.step = some p → ∃ t : State, exec (.formatWriteDone .done) s = .next t ∧
      t.mem = s.mem.writeLanes i.req.addr ls ∧ SameMemoryOutside s t i.req.addr ls.length ∧
      t.loader = { s.loader with job := .formatting ⟨p, false, f.day⟩ } ∧
      Awaits t .format (s.formatBytes f.day p).1 (.write (lanesOf (s.formatBytes f.day p).2)) ∧
      (∀ (q : OwnReq) (n : StreamId), q ∈ s.path.formatHeld → q.tag.answerOf = some n →
        ((p = .note ∨ ∃ m : StreamId, p = .desk m ∧ m.val ≤ n.val) → q ∈ t.path.formatHeld) ∧
        (((∃ m : StreamId, p = .desk m ∧ n.val < m.val) ∨ p = .stamp ∨ p = .summaryRest ∨ p = .summaryFields ∨
            ∃ r k, p = .record r k) →
          q ∉ t.path.formatHeld ∧ (t.path.ownSlot = some q ∨ q ∈ t.path.raised))) ∧
      OnlyParts s t [.memory, .issued, .raised, .loader]) ∧
    (f.step = .stamp → ∃ v : State,
      exec (.formatWriteDone .done) s =
        .next (if s.sweep.sweptThrough < s.loader.today.getD 0 then v.beginPass (s.loader.today.getD 0) else v) ∧
      v.mem = s.mem.writeLanes i.req.addr ls ∧ SameMemoryOutside s v i.req.addr ls.length ∧
      v.loader = { s.loader with part := .ready, job := .idle } ∧
      (s.loader.part = .formatting → StatusRaised v .ready s.loader.result s.loader.faults) ∧
      v.path.formatHeld = [] ∧ (∀ q ∈ s.path.formatHeld, q ∈ v.ownWaiting) ∧
      (s.path.raised.Pairwise (fun p q => p.serial ≤ q.serial) →
        (∀ q ∈ s.path.raised ++ s.path.formatHeld, q.serial ≤ s.serial) →
        v.path.raised.Pairwise (fun p q => p.serial ≤ q.serial)) ∧
      OnlyParts s v [.memory, .issued, .raised, .loader]) ∧
    (∀ k : Nat, f.retried = false → ∃ t : State, exec (.formatWriteDone (.error k)) s = .next t ∧
      t.mem = (if f.step = .stamp then s.mem else s.mem.land i.req.addr ls (.error k)) ∧
      t.loader = { oneMoreFault s.loader with job := .formatting { f with retried := true } } ∧ StatusShown s t ∧
      Awaits t .format (s.formatBytes f.day f.step).1 (.write (lanesOf (s.formatBytes f.day f.step).2)) ∧
      OnlyParts s t [.memory, .issued, .raised, .loader]) ∧
    (∀ k : Nat, f.retried = true → (∀ r ∈ s.loader.requests, r = .warmReset) → s.loader.part = .formatting →
      ∃ t : State, exec (.formatWriteDone (.error k)) s = .next t ∧
        t.mem = (if f.step = .stamp then s.mem
          else if f.step = .stampZero then s.mem.writeLanes i.req.addr ls
          else s.mem.land i.req.addr ls (.error k)) ∧
        t.loader =
          { oneMoreFault s.loader with part := .unformatted, result := ⟨.formatFault, 0⟩, job := .idle } ∧
        StatusRaised t .unformatted ⟨.formatFault, 0⟩ (oneMoreFault s.loader).faults ∧
        t.path.formatHeld = [] ∧ (∀ q ∈ s.path.formatHeld, q ∈ t.ownWaiting) ∧
        OnlyParts s t [.memory, .issued, .raised, .loader])) ∧
  (∀ s : State, s.formatNext .stampZero = some .note ∧ s.formatNext .note = some (.desk 0) ∧
    (∀ n m : StreamId, n.val + 1 = m.val → s.formatNext (.desk n) = some (.desk m)) ∧
    s.formatNext (.desk 31) = some (.record .patrons 0) ∧
    (∀ r k, k + 1 < s.regionCount r → s.formatNext (.record r k) = some (.record r (k + 1))) ∧
    (∀ r q k, s.regionCount r ≤ k + 1 →
      (r, q) ∈ [(Region.patrons, Region.cards), (.cards, .titles), (.titles, .items), (.items, .holds)] →
      s.formatNext (.record r k) = some (.record q 0)) ∧
    (∀ k, s.regionCount .holds ≤ k + 1 → s.formatNext (.record .holds k) = some .summaryRest) ∧
    s.formatNext .summaryRest = some .summaryFields ∧ s.formatNext .summaryFields = some .stamp ∧
    s.formatNext .stamp = none) ∧
  (∀ (s : State) (day : Nat), s.formatBytes day .stampZero = (8192, zeros 8) ∧
    s.formatBytes day .note = (4096, zeros 4096) ∧
    (∀ n : StreamId, s.formatBytes day (.desk n) = (16384 + 1024 * n.val, zeros 800 ++ s.sessionWord n)) ∧
    (∀ r k, (s.formatBytes day (.record r k)).1 = s.targetOff (.record r k) ∧
      (s.formatBytes day (.record r k)).2.length = r.size) ∧
    (∀ k, parsePatron (s.formatBytes day (.record .patrons k)).2 = ⟨0, 0, [], 0, 0, false, none⟩ ∧
      parseTitle (s.formatBytes day (.record .titles k)).2 = ⟨[], 0, none, none⟩ ∧
      parseItem (s.formatBytes day (.record .items k)).2 =
        ⟨0, 0, 0, false, .available, none, 0, none, none, 0, none, none⟩ ∧
      (s.formatBytes day (.record .cards k)).2 = leBytes 4 Config.absent4 ++ zeros 12 ∧
      (k + 1 < Config.absent4 → parseHold (s.formatBytes day (.record .holds k)).2 =
        { state := .free, pickup := 0, patron := none, title := none, placed := 0, suspend := none, copy := none
          deadline := none, next := if k + 1 < s.regionCount .holds then some (k + 1) else none }) ∧
      (s.formatBytes day (.record .patrons k)).2 = zeros 92 ++ List.replicate 164 0xFF ∧
      (s.formatBytes day (.record .titles k)).2 = zeros 120 ++ List.replicate 136 0xFF ∧
      (s.formatBytes day (.record .items k)).2 =
        zeros 9 ++ [0xFF, 0, 0] ++ List.replicate 8 0xFF ++ zeros 4 ++ List.replicate 8 0xFF ++ zeros 32 ∧
      (s.formatBytes day (.record .holds k)).2 =
        zeros 4 ++ List.replicate 8 0xFF ++ zeros 4 ++ List.replicate 12 0xFF ++
          (if k + 1 < s.regionCount .holds then leBytes 4 (k + 1) else List.replicate 4 0xFF) ++ zeros 32 ∧
      ∀ r : Region, (s.formatBytes day (.record r k)).2[r.markOff]? = some 0) ∧
    s.formatBytes day .summaryRest = (8272, zeros 8112) ∧
    (s.formatBytes day .summaryFields).1 = 8200 ∧
    (s.formatBytes day .summaryFields).2.length = 72 ∧
    (day < 65536 → s.regionCount .holds < 4294967296 →
      parseSummary (Config.formatStamp ++ (s.formatBytes day .summaryFields).2) =
        { stamp := Config.formatStamp, freeHead := some 0, freeCount := s.regionCount .holds, charged := 0, paid := 0
          waived := 0, placed := 0, collected := 0, expired := 0, cancelled := 0, lent := 0, returned := 0
          renewed := 0, target := day, phase := .idle, position := 0, sweptThrough := day, skipped := 0 }) ∧
    s.formatBytes day .stamp = (8192, Config.formatStamp))

/-- WARM_RESET (R52, R70, R177): at a boundary in READY, or in UNFORMATTED, in one event every enabled stream becomes VACANT with its claim, counts, watches and
idle timer cleared; every COLLECTING and QUEUED batch is answered CUT with guard-hit count 0; the current batch is to be cut; every session word is rewritten;
in UNFORMATTED the next pending request is then begun. That the reset waits at the head of the list for this event (log 20), and that a batch already to be cut
for a disabled stream is then cut as by the reset (log 35), that an answer leaves the header's spare bytes, and the zero in the session word's (log 48), are
the model's. -/
def Obligations.WarmResetClearsSessions : Prop :=
  ∀ (s : State) (rs : List RequestKind), s.inReset = false → s.loader.requests = .warmReset :: rs →
    s.loader.job = .idle →
    ((s.loader.part = .ready ∧ s.engine.running = true ∧ s.engine.unit = none) ∨
      s.loader.part = .unformatted) →
    ∃ t : State, exec .warmReset s = .next t ∧
      (s.loader.part = .ready → t.loader = { s.loader with requests := rs }) ∧
      (s.loader.part = .unformatted → t.loader = ({ s.loader with requests := rs } : Loader).begun) ∧
      (∀ n : StreamId,
        (t.stream n).session = (if (s.stream n).session = .off then .off else .vacant) ∧
        (t.stream n).checkFails = 0 ∧ (t.stream n).idleTimer = none ∧ (t.stream n).watches = [] ∧
        (t.stream n).guardHits = 0 ∧ SessionWordRaised t n ∧
        (((s.stream n).batch = .collecting ∨ (s.stream n).batch = .queued) →
          BatchIsIdle (t.stream n) ∧ AnswersFresh t n .cut 0) ∧
        (((s.stream n).batch = .idle ∨ (s.stream n).batch = .settling) →
          (t.stream n).batch = (s.stream n).batch ∧ (t.stream n).answer = (s.stream n).answer)) ∧
      t.queue = s.queue.filter (fun n => decide ((s.stream n).batch ≠ .queued)) ∧
      (∀ b, s.engine.batch = some b → (s.stream b.stream).batch = .settling →
        t.engine = { s.engine with batch := some { b with cut := some .warmReset } }) ∧
      ((∀ n : StreamId, (s.stream n).batch ≠ .settling) → t.engine = s.engine) ∧
      OnlyParts s t [.loader, .raised, .streams, .commitQueue, .engine]
end

