-- ==== Sys2Proof/Laws/Memory.lean ====
section
/-! SUPPORT. Memory: what a read gives after a write, and that every operation keeps the canonical form. -/

namespace Sys2Proof.Machine

/-- The byte written reads back. -/
@[simp] theorem read_write_self (m : Memory) (x : Nat) (v : Byte) : m.wf → (m.write x v).read x = v := by
  intro h
  induction m with
  | nil => simp only [Memory.write]; split <;> simp_all [Memory.read]
  | cons c m ih =>
    obtain ⟨a, b⟩ := c
    have hm : Memory.wf m := ⟨(List.pairwise_cons.mp h.1).2, fun c hc => h.2 c (List.mem_cons_of_mem _ hc)⟩
    have hlt : ∀ c ∈ m, a < c.1 := (List.pairwise_cons.mp h.1).1
    have hnone : ∀ (l : Memory) (y : Nat), (∀ c ∈ l, y < c.1) → Memory.read l y = Memory.unlisted := by
      intro l y hl
      induction l with
      | nil => rfl
      | cons d l ihl =>
        obtain ⟨p, q⟩ := d
        have : p ≠ y := by have := hl (p, q) (by simp); simp at this; omega
        simp [Memory.read, this, ihl (fun c hc => hl c (List.mem_cons_of_mem _ hc))]
    simp only [Memory.write]
    split
    · rename_i hx
      split
      · rename_i hv
        rw [hv]
        have : a ≠ x := by omega
        simp only [Memory.read, this, if_false]
        exact hnone m x (fun c hc => lt_trans hx (hlt c hc))
      · simp [Memory.read]
    · split
      · rename_i hx
        subst hx
        split
        · rename_i hv
          rw [hv]; exact hnone m x hlt
        · simp [Memory.read]
      · rename_i h1 h2
        have : a ≠ x := fun e => h2 e.symm
        simp [Memory.read, this, ih hm]

/-- Every other byte reads as before. -/
theorem read_write_ne (m : Memory) {x y : Nat} (v : Byte) (h : y ≠ x) : (m.write x v).read y = m.read y := by
  induction m with
  | nil => simp only [Memory.write]; split <;> simp [Memory.read, Ne.symm h]
  | cons c m ih =>
    obtain ⟨a, b⟩ := c
    simp only [Memory.write]
    split
    · split <;> simp [Memory.read, Ne.symm h]
    · split
      · rename_i hx
        subst hx
        split <;> simp [Memory.read, Ne.symm h]
      · simp [Memory.read, ih]

/-- The cells of a write are above any bound that is below the written address and below the cells. -/
theorem write_above (m : Memory) (k x : Nat) (v : Byte) (hx : k < x) (hm : ∀ c ∈ m, k < c.1) :
    ∀ c ∈ m.write x v, k < c.1 := by
  induction m with
  | nil => simp only [Memory.write]; split <;> simp_all
  | cons c m ih =>
    obtain ⟨a, b⟩ := c
    have ha : k < a := hm (a, b) (by simp)
    have hm' : ∀ c ∈ m, k < c.1 := fun c hc => hm c (List.mem_cons_of_mem _ hc)
    simp only [Memory.write]
    intro c hc
    split at hc
    · split at hc <;> simp only [List.mem_cons] at hc <;> rcases hc with h | h
      · subst h; exact ha
      · exact hm' c h
      · subst h; exact hx
      · rcases h with h | h
        · subst h; exact ha
        · exact hm' c h
    · split at hc
      · split at hc
        · exact hm' c hc
        · simp only [List.mem_cons] at hc
          rcases hc with h | h
          · subst h; exact hx
          · exact hm' c h
      · simp only [List.mem_cons] at hc
        rcases hc with h | h
        · subst h; exact ha
        · exact ih hm' c h

/-- No write lists a byte at the unlisted value. -/
theorem write_listed (m : Memory) (x : Nat) (v : Byte) (hm : ∀ c ∈ m, c.2 ≠ Memory.unlisted) :
    ∀ c ∈ m.write x v, c.2 ≠ Memory.unlisted := by
  induction m with
  | nil => simp only [Memory.write]; split <;> simp_all
  | cons c m ih =>
    obtain ⟨a, b⟩ := c
    have hm' : ∀ c ∈ m, c.2 ≠ Memory.unlisted := fun c hc => hm c (List.mem_cons_of_mem _ hc)
    have hb : b ≠ Memory.unlisted := hm (a, b) (by simp)
    simp only [Memory.write]
    intro c hc
    split at hc
    · split at hc <;> simp only [List.mem_cons] at hc
      · rcases hc with h | h
        · subst h; exact hb
        · exact hm' c h
      · rcases hc with h | h | h
        · subst h; assumption
        · subst h; exact hb
        · exact hm' c h
    · split at hc
      · split at hc
        · exact hm' c hc
        · simp only [List.mem_cons] at hc
          rcases hc with h | h
          · subst h; assumption
          · exact hm' c h
      · simp only [List.mem_cons] at hc
        rcases hc with h | h
        · subst h; exact hb
        · exact ih hm' c h

/-- A write keeps the canonical form. -/
theorem write_wf (m : Memory) (x : Nat) (v : Byte) (h : m.wf) : (m.write x v).wf := by
  refine ⟨?_, write_listed m x v h.2⟩
  induction m with
  | nil => simp only [Memory.write]; split <;> simp
  | cons c m ih =>
    obtain ⟨a, b⟩ := c
    have hp := List.pairwise_cons.mp h.1
    have hm : Memory.wf m := ⟨hp.2, fun c hc => h.2 c (List.mem_cons_of_mem _ hc)⟩
    simp only [Memory.write]
    split
    · rename_i hx
      split
      · exact h.1
      · refine List.pairwise_cons.mpr ⟨?_, h.1⟩
        intro c hc
        rcases List.mem_cons.mp hc with e | e
        · subst e; exact hx
        · exact lt_trans hx (hp.1 c e)
    · split
      · rename_i hx
        subst hx
        split
        · exact hp.2
        · exact List.pairwise_cons.mpr ⟨hp.1, hp.2⟩
      · rename_i h1 h2
        refine List.pairwise_cons.mpr ⟨?_, ih hm⟩
        exact write_above m a x v (by omega) hp.1

/-- Strobed lanes keep the canonical form. -/
theorem writeLanes_wf (ls : List Lane) : ∀ (m : Memory) (a : Nat), m.wf → (m.writeLanes a ls).wf := by
  induction ls with
  | nil => intro m a h; exact h
  | cons l ls ih =>
    intro m a h
    refine ih _ _ ?_
    split
    · exact write_wf m a _ h
    · exact h

/-- Lanes change no byte outside their span. -/
theorem read_writeLanes_outside (ls : List Lane) : ∀ (m : Memory) (a x : Nat), (x < a ∨ a + ls.length ≤ x) →
    (m.writeLanes a ls).read x = m.read x := by
  induction ls with
  | nil => intro m a x _; rfl
  | cons l ls ih =>
    intro m a x hx
    simp only [List.length_cons] at hx
    simp only [Memory.writeLanes]
    rw [ih _ _ _ (by omega)]
    split
    · exact read_write_ne m _ (by omega)
    · rfl

/-- A lane with its strobe set gives its byte; a lane without leaves the byte as it was. -/
theorem read_writeLanes_inside (ls : List Lane) : ∀ (m : Memory) (a i : Nat) (h : i < ls.length), m.wf →
    (m.writeLanes a ls).read (a + i) = if ls[i].strobe then ls[i].value else m.read (a + i) := by
  induction ls with
  | nil => intro m a i h; simp at h
  | cons l ls ih =>
    intro m a i h hm
    simp only [Memory.writeLanes]
    cases i with
    | zero =>
      rw [read_writeLanes_outside _ _ _ _ (by omega)]
      by_cases hs : l.strobe <;> simp [hs, read_write_self m a l.value hm]
    | succ i =>
      have hw : Memory.wf (if l.strobe then m.write a l.value else m) := by
        split
        · exact write_wf m a _ hm
        · exact hm
      have := ih (if l.strobe then m.write a l.value else m) (a + 1) i (by simpa using h) hw
      rw [show a + (i + 1) = a + 1 + i by omega, this]
      simp only [List.getElem_cons_succ]
      split
      · rfl
      · split
        · exact read_write_ne m _ (by omega)
        · rfl

/-- An answered write keeps the canonical form. -/
theorem land_wf (m : Memory) (a : Nat) (ls : List Lane) (x : Answer) (h : m.wf) : (m.land a ls x).wf := by
  cases x <;> exact writeLanes_wf _ _ _ h

theorem landWhole_wf (m : Memory) (a : Nat) (ls : List Lane) (x : Answer) (h : m.wf) : (m.landWhole a ls x).wf := by
  unfold Memory.landWhole
  split
  · exact writeLanes_wf _ _ _ h
  · exact h

/-- Writes cut off by a cold reset keep the canonical form. -/
theorem landCut_wf (ws : List (Nat × List Lane)) : ∀ (m : Memory) (ks : List Nat), m.wf → (landCut m ws ks).wf := by
  induction ws with
  | nil => intro m ks h; simpa [landCut] using h
  | cons w ws ih =>
    intro m ks h
    cases ks with
    | nil => exact ih _ _ (writeLanes_wf _ _ _ h)
    | cons k ks => exact ih _ _ (writeLanes_wf _ _ _ h)

/-- The length of a run of bytes. -/
@[simp] theorem bytes_length (m : Memory) (n : Nat) : ∀ a, (m.bytes a n).length = n := by
  induction n with
  | zero => intro a; rfl
  | succ n ih => intro a; simp [Memory.bytes, ih]

/-- The empty memory is canonical. -/
theorem nil_wf : Memory.wf [] := ⟨List.Pairwise.nil, by simp⟩

end Sys2Proof.Machine
end

