-- ==== Sys2Proof/Laws/State.lean ====
section
/-! SUPPORT. Reading one field of the state after one named update: one lemma for each field an update leaves as it was. -/

namespace Sys2Proof.Machine

/-! `updStream` -/

@[simp] theorem updStream_inReset (s : State) (n : StreamId) (f : Stream → Stream) : (s.updStream n f).inReset = s.inReset := rfl
@[simp] theorem updStream_base (s : State) (n : StreamId) (f : Stream → Stream) : (s.updStream n f).base = s.base := rfl
@[simp] theorem updStream_mem (s : State) (n : StreamId) (f : Stream → Stream) : (s.updStream n f).mem = s.mem := rfl
@[simp] theorem updStream_path (s : State) (n : StreamId) (f : Stream → Stream) : (s.updStream n f).path = s.path := rfl
@[simp] theorem updStream_queue (s : State) (n : StreamId) (f : Stream → Stream) : (s.updStream n f).queue = s.queue := rfl
@[simp] theorem updStream_engine (s : State) (n : StreamId) (f : Stream → Stream) : (s.updStream n f).engine = s.engine := rfl
@[simp] theorem updStream_sweep (s : State) (n : StreamId) (f : Stream → Stream) : (s.updStream n f).sweep = s.sweep := rfl
@[simp] theorem updStream_loader (s : State) (n : StreamId) (f : Stream → Stream) : (s.updStream n f).loader = s.loader := rfl
@[simp] theorem updStream_serial (s : State) (n : StreamId) (f : Stream → Stream) : (s.updStream n f).serial = s.serial := rfl
@[simp] theorem updStream_pending (s : State) (n : StreamId) (f : Stream → Stream) : (s.updStream n f).pending = s.pending := rfl

/-! `setUnit` -/

@[simp] theorem setUnit_inReset (s : State) (u : WorkUnit) : (s.setUnit u).inReset = s.inReset := rfl
@[simp] theorem setUnit_base (s : State) (u : WorkUnit) : (s.setUnit u).base = s.base := rfl
@[simp] theorem setUnit_mem (s : State) (u : WorkUnit) : (s.setUnit u).mem = s.mem := rfl
@[simp] theorem setUnit_path (s : State) (u : WorkUnit) : (s.setUnit u).path = s.path := rfl
@[simp] theorem setUnit_streams (s : State) (u : WorkUnit) : (s.setUnit u).streams = s.streams := rfl
@[simp] theorem setUnit_queue (s : State) (u : WorkUnit) : (s.setUnit u).queue = s.queue := rfl
@[simp] theorem setUnit_sweep (s : State) (u : WorkUnit) : (s.setUnit u).sweep = s.sweep := rfl
@[simp] theorem setUnit_loader (s : State) (u : WorkUnit) : (s.setUnit u).loader = s.loader := rfl
@[simp] theorem setUnit_serial (s : State) (u : WorkUnit) : (s.setUnit u).serial = s.serial := rfl
@[simp] theorem setUnit_pending (s : State) (u : WorkUnit) : (s.setUnit u).pending = s.pending := rfl

/-! `setTurn` -/

@[simp] theorem setTurn_inReset (s : State) (t : Turn) : (s.setTurn t).inReset = s.inReset := rfl
@[simp] theorem setTurn_base (s : State) (t : Turn) : (s.setTurn t).base = s.base := rfl
@[simp] theorem setTurn_mem (s : State) (t : Turn) : (s.setTurn t).mem = s.mem := rfl
@[simp] theorem setTurn_path (s : State) (t : Turn) : (s.setTurn t).path = s.path := rfl
@[simp] theorem setTurn_streams (s : State) (t : Turn) : (s.setTurn t).streams = s.streams := rfl
@[simp] theorem setTurn_queue (s : State) (t : Turn) : (s.setTurn t).queue = s.queue := rfl
@[simp] theorem setTurn_sweep (s : State) (t : Turn) : (s.setTurn t).sweep = s.sweep := rfl
@[simp] theorem setTurn_loader (s : State) (t : Turn) : (s.setTurn t).loader = s.loader := rfl
@[simp] theorem setTurn_serial (s : State) (t : Turn) : (s.setTurn t).serial = s.serial := rfl
@[simp] theorem setTurn_pending (s : State) (t : Turn) : (s.setTurn t).pending = s.pending := rfl

/-! `setJob` -/

@[simp] theorem setJob_inReset (s : State) (j : Job) : (s.setJob j).inReset = s.inReset := rfl
@[simp] theorem setJob_base (s : State) (j : Job) : (s.setJob j).base = s.base := rfl
@[simp] theorem setJob_mem (s : State) (j : Job) : (s.setJob j).mem = s.mem := rfl
@[simp] theorem setJob_path (s : State) (j : Job) : (s.setJob j).path = s.path := rfl
@[simp] theorem setJob_streams (s : State) (j : Job) : (s.setJob j).streams = s.streams := rfl
@[simp] theorem setJob_queue (s : State) (j : Job) : (s.setJob j).queue = s.queue := rfl
@[simp] theorem setJob_engine (s : State) (j : Job) : (s.setJob j).engine = s.engine := rfl
@[simp] theorem setJob_sweep (s : State) (j : Job) : (s.setJob j).sweep = s.sweep := rfl
@[simp] theorem setJob_serial (s : State) (j : Job) : (s.setJob j).serial = s.serial := rfl
@[simp] theorem setJob_pending (s : State) (j : Job) : (s.setJob j).pending = s.pending := rfl

/-! `setStartup` -/

@[simp] theorem setStartup_inReset (s : State) (st : Startup) : (s.setStartup st).inReset = s.inReset := rfl
@[simp] theorem setStartup_base (s : State) (st : Startup) : (s.setStartup st).base = s.base := rfl
@[simp] theorem setStartup_mem (s : State) (st : Startup) : (s.setStartup st).mem = s.mem := rfl
@[simp] theorem setStartup_path (s : State) (st : Startup) : (s.setStartup st).path = s.path := rfl
@[simp] theorem setStartup_streams (s : State) (st : Startup) : (s.setStartup st).streams = s.streams := rfl
@[simp] theorem setStartup_queue (s : State) (st : Startup) : (s.setStartup st).queue = s.queue := rfl
@[simp] theorem setStartup_engine (s : State) (st : Startup) : (s.setStartup st).engine = s.engine := rfl
@[simp] theorem setStartup_sweep (s : State) (st : Startup) : (s.setStartup st).sweep = s.sweep := rfl
@[simp] theorem setStartup_serial (s : State) (st : Startup) : (s.setStartup st).serial = s.serial := rfl
@[simp] theorem setStartup_pending (s : State) (st : Startup) : (s.setStartup st).pending = s.pending := rfl

/-! `setAnswer` -/

@[simp] theorem setAnswer_inReset (s : State) (n : StreamId) (a : AnswerState) : (s.setAnswer n a).inReset = s.inReset := rfl
@[simp] theorem setAnswer_base (s : State) (n : StreamId) (a : AnswerState) : (s.setAnswer n a).base = s.base := rfl
@[simp] theorem setAnswer_mem (s : State) (n : StreamId) (a : AnswerState) : (s.setAnswer n a).mem = s.mem := rfl
@[simp] theorem setAnswer_path (s : State) (n : StreamId) (a : AnswerState) : (s.setAnswer n a).path = s.path := rfl
@[simp] theorem setAnswer_queue (s : State) (n : StreamId) (a : AnswerState) : (s.setAnswer n a).queue = s.queue := rfl
@[simp] theorem setAnswer_engine (s : State) (n : StreamId) (a : AnswerState) : (s.setAnswer n a).engine = s.engine := rfl
@[simp] theorem setAnswer_sweep (s : State) (n : StreamId) (a : AnswerState) : (s.setAnswer n a).sweep = s.sweep := rfl
@[simp] theorem setAnswer_loader (s : State) (n : StreamId) (a : AnswerState) : (s.setAnswer n a).loader = s.loader := rfl
@[simp] theorem setAnswer_serial (s : State) (n : StreamId) (a : AnswerState) : (s.setAnswer n a).serial = s.serial := rfl
@[simp] theorem setAnswer_pending (s : State) (n : StreamId) (a : AnswerState) : (s.setAnswer n a).pending = s.pending := rfl

/-! `endBatch` -/

@[simp] theorem endBatch_inReset (s : State) (n : StreamId) : (s.endBatch n).inReset = s.inReset := rfl
@[simp] theorem endBatch_base (s : State) (n : StreamId) : (s.endBatch n).base = s.base := rfl
@[simp] theorem endBatch_mem (s : State) (n : StreamId) : (s.endBatch n).mem = s.mem := rfl
@[simp] theorem endBatch_path (s : State) (n : StreamId) : (s.endBatch n).path = s.path := rfl
@[simp] theorem endBatch_queue (s : State) (n : StreamId) : (s.endBatch n).queue = s.queue := rfl
@[simp] theorem endBatch_engine (s : State) (n : StreamId) : (s.endBatch n).engine = s.engine := rfl
@[simp] theorem endBatch_sweep (s : State) (n : StreamId) : (s.endBatch n).sweep = s.sweep := rfl
@[simp] theorem endBatch_loader (s : State) (n : StreamId) : (s.endBatch n).loader = s.loader := rfl
@[simp] theorem endBatch_serial (s : State) (n : StreamId) : (s.endBatch n).serial = s.serial := rfl
@[simp] theorem endBatch_pending (s : State) (n : StreamId) : (s.endBatch n).pending = s.pending := rfl

/-! `guardHit` -/

@[simp] theorem guardHit_inReset (s : State) (n : StreamId) : (s.guardHit n).inReset = s.inReset := rfl
@[simp] theorem guardHit_base (s : State) (n : StreamId) : (s.guardHit n).base = s.base := rfl
@[simp] theorem guardHit_mem (s : State) (n : StreamId) : (s.guardHit n).mem = s.mem := rfl
@[simp] theorem guardHit_path (s : State) (n : StreamId) : (s.guardHit n).path = s.path := rfl
@[simp] theorem guardHit_queue (s : State) (n : StreamId) : (s.guardHit n).queue = s.queue := rfl
@[simp] theorem guardHit_engine (s : State) (n : StreamId) : (s.guardHit n).engine = s.engine := rfl
@[simp] theorem guardHit_sweep (s : State) (n : StreamId) : (s.guardHit n).sweep = s.sweep := rfl
@[simp] theorem guardHit_loader (s : State) (n : StreamId) : (s.guardHit n).loader = s.loader := rfl
@[simp] theorem guardHit_serial (s : State) (n : StreamId) : (s.guardHit n).serial = s.serial := rfl
@[simp] theorem guardHit_pending (s : State) (n : StreamId) : (s.guardHit n).pending = s.pending := rfl

/-! `activity` -/

@[simp] theorem activity_inReset (s : State) (n : StreamId) : (s.activity n).inReset = s.inReset := rfl
@[simp] theorem activity_base (s : State) (n : StreamId) : (s.activity n).base = s.base := rfl
@[simp] theorem activity_mem (s : State) (n : StreamId) : (s.activity n).mem = s.mem := rfl
@[simp] theorem activity_path (s : State) (n : StreamId) : (s.activity n).path = s.path := rfl
@[simp] theorem activity_queue (s : State) (n : StreamId) : (s.activity n).queue = s.queue := rfl
@[simp] theorem activity_engine (s : State) (n : StreamId) : (s.activity n).engine = s.engine := rfl
@[simp] theorem activity_sweep (s : State) (n : StreamId) : (s.activity n).sweep = s.sweep := rfl
@[simp] theorem activity_loader (s : State) (n : StreamId) : (s.activity n).loader = s.loader := rfl
@[simp] theorem activity_serial (s : State) (n : StreamId) : (s.activity n).serial = s.serial := rfl
@[simp] theorem activity_pending (s : State) (n : StreamId) : (s.activity n).pending = s.pending := rfl

/-! `leaveQueue` -/

@[simp] theorem leaveQueue_inReset (s : State) (n : StreamId) : (s.leaveQueue n).inReset = s.inReset := rfl
@[simp] theorem leaveQueue_base (s : State) (n : StreamId) : (s.leaveQueue n).base = s.base := rfl
@[simp] theorem leaveQueue_mem (s : State) (n : StreamId) : (s.leaveQueue n).mem = s.mem := rfl
@[simp] theorem leaveQueue_path (s : State) (n : StreamId) : (s.leaveQueue n).path = s.path := rfl
@[simp] theorem leaveQueue_streams (s : State) (n : StreamId) : (s.leaveQueue n).streams = s.streams := rfl
@[simp] theorem leaveQueue_engine (s : State) (n : StreamId) : (s.leaveQueue n).engine = s.engine := rfl
@[simp] theorem leaveQueue_sweep (s : State) (n : StreamId) : (s.leaveQueue n).sweep = s.sweep := rfl
@[simp] theorem leaveQueue_loader (s : State) (n : StreamId) : (s.leaveQueue n).loader = s.loader := rfl
@[simp] theorem leaveQueue_serial (s : State) (n : StreamId) : (s.leaveQueue n).serial = s.serial := rfl
@[simp] theorem leaveQueue_pending (s : State) (n : StreamId) : (s.leaveQueue n).pending = s.pending := rfl

/-! `clearUnit` -/

@[simp] theorem clearUnit_inReset (s : State) : (s.clearUnit).inReset = s.inReset := rfl
@[simp] theorem clearUnit_base (s : State) : (s.clearUnit).base = s.base := rfl
@[simp] theorem clearUnit_mem (s : State) : (s.clearUnit).mem = s.mem := rfl
@[simp] theorem clearUnit_path (s : State) : (s.clearUnit).path = s.path := rfl
@[simp] theorem clearUnit_streams (s : State) : (s.clearUnit).streams = s.streams := rfl
@[simp] theorem clearUnit_queue (s : State) : (s.clearUnit).queue = s.queue := rfl
@[simp] theorem clearUnit_sweep (s : State) : (s.clearUnit).sweep = s.sweep := rfl
@[simp] theorem clearUnit_loader (s : State) : (s.clearUnit).loader = s.loader := rfl
@[simp] theorem clearUnit_serial (s : State) : (s.clearUnit).serial = s.serial := rfl
@[simp] theorem clearUnit_pending (s : State) : (s.clearUnit).pending = s.pending := rfl

/-! `sweepOffer` -/

@[simp] theorem sweepOffer_inReset (s : State) (o : Offer) : (s.sweepOffer o).inReset = s.inReset := rfl
@[simp] theorem sweepOffer_base (s : State) (o : Offer) : (s.sweepOffer o).base = s.base := rfl
@[simp] theorem sweepOffer_mem (s : State) (o : Offer) : (s.sweepOffer o).mem = s.mem := rfl
@[simp] theorem sweepOffer_path (s : State) (o : Offer) : (s.sweepOffer o).path = s.path := rfl
@[simp] theorem sweepOffer_streams (s : State) (o : Offer) : (s.sweepOffer o).streams = s.streams := rfl
@[simp] theorem sweepOffer_queue (s : State) (o : Offer) : (s.sweepOffer o).queue = s.queue := rfl
@[simp] theorem sweepOffer_engine (s : State) (o : Offer) : (s.sweepOffer o).engine = s.engine := rfl
@[simp] theorem sweepOffer_loader (s : State) (o : Offer) : (s.sweepOffer o).loader = s.loader := rfl
@[simp] theorem sweepOffer_serial (s : State) (o : Offer) : (s.sweepOffer o).serial = s.serial := rfl
@[simp] theorem sweepOffer_pending (s : State) (o : Offer) : (s.sweepOffer o).pending = s.pending := rfl

/-! `sweepStop` -/

@[simp] theorem sweepStop_inReset (s : State) : (s.sweepStop).inReset = s.inReset := rfl
@[simp] theorem sweepStop_base (s : State) : (s.sweepStop).base = s.base := rfl
@[simp] theorem sweepStop_mem (s : State) : (s.sweepStop).mem = s.mem := rfl
@[simp] theorem sweepStop_path (s : State) : (s.sweepStop).path = s.path := rfl
@[simp] theorem sweepStop_streams (s : State) : (s.sweepStop).streams = s.streams := rfl
@[simp] theorem sweepStop_queue (s : State) : (s.sweepStop).queue = s.queue := rfl
@[simp] theorem sweepStop_engine (s : State) : (s.sweepStop).engine = s.engine := rfl
@[simp] theorem sweepStop_loader (s : State) : (s.sweepStop).loader = s.loader := rfl
@[simp] theorem sweepStop_serial (s : State) : (s.sweepStop).serial = s.serial := rfl
@[simp] theorem sweepStop_pending (s : State) : (s.sweepStop).pending = s.pending := rfl

/-! `cutCurrent` -/

@[simp] theorem cutCurrent_inReset (s : State) (c : CutCause) : (s.cutCurrent c).inReset = s.inReset := rfl
@[simp] theorem cutCurrent_base (s : State) (c : CutCause) : (s.cutCurrent c).base = s.base := rfl
@[simp] theorem cutCurrent_mem (s : State) (c : CutCause) : (s.cutCurrent c).mem = s.mem := rfl
@[simp] theorem cutCurrent_path (s : State) (c : CutCause) : (s.cutCurrent c).path = s.path := rfl
@[simp] theorem cutCurrent_streams (s : State) (c : CutCause) : (s.cutCurrent c).streams = s.streams := rfl
@[simp] theorem cutCurrent_queue (s : State) (c : CutCause) : (s.cutCurrent c).queue = s.queue := rfl
@[simp] theorem cutCurrent_sweep (s : State) (c : CutCause) : (s.cutCurrent c).sweep = s.sweep := rfl
@[simp] theorem cutCurrent_loader (s : State) (c : CutCause) : (s.cutCurrent c).loader = s.loader := rfl
@[simp] theorem cutCurrent_serial (s : State) (c : CutCause) : (s.cutCurrent c).serial = s.serial := rfl
@[simp] theorem cutCurrent_pending (s : State) (c : CutCause) : (s.cutCurrent c).pending = s.pending := rfl

/-! `dropOwn` -/

@[simp] theorem dropOwn_inReset (s : State) (k : Nat) : (s.dropOwn k).inReset = s.inReset := rfl
@[simp] theorem dropOwn_base (s : State) (k : Nat) : (s.dropOwn k).base = s.base := rfl
@[simp] theorem dropOwn_mem (s : State) (k : Nat) : (s.dropOwn k).mem = s.mem := rfl
@[simp] theorem dropOwn_streams (s : State) (k : Nat) : (s.dropOwn k).streams = s.streams := rfl
@[simp] theorem dropOwn_queue (s : State) (k : Nat) : (s.dropOwn k).queue = s.queue := rfl
@[simp] theorem dropOwn_engine (s : State) (k : Nat) : (s.dropOwn k).engine = s.engine := rfl
@[simp] theorem dropOwn_sweep (s : State) (k : Nat) : (s.dropOwn k).sweep = s.sweep := rfl
@[simp] theorem dropOwn_loader (s : State) (k : Nat) : (s.dropOwn k).loader = s.loader := rfl
@[simp] theorem dropOwn_serial (s : State) (k : Nat) : (s.dropOwn k).serial = s.serial := rfl
@[simp] theorem dropOwn_pending (s : State) (k : Nat) : (s.dropOwn k).pending = s.pending := rfl

/-! `dropUp` -/

@[simp] theorem dropUp_inReset (s : State) (k : Nat) : (s.dropUp k).inReset = s.inReset := rfl
@[simp] theorem dropUp_base (s : State) (k : Nat) : (s.dropUp k).base = s.base := rfl
@[simp] theorem dropUp_mem (s : State) (k : Nat) : (s.dropUp k).mem = s.mem := rfl
@[simp] theorem dropUp_streams (s : State) (k : Nat) : (s.dropUp k).streams = s.streams := rfl
@[simp] theorem dropUp_queue (s : State) (k : Nat) : (s.dropUp k).queue = s.queue := rfl
@[simp] theorem dropUp_engine (s : State) (k : Nat) : (s.dropUp k).engine = s.engine := rfl
@[simp] theorem dropUp_sweep (s : State) (k : Nat) : (s.dropUp k).sweep = s.sweep := rfl
@[simp] theorem dropUp_loader (s : State) (k : Nat) : (s.dropUp k).loader = s.loader := rfl
@[simp] theorem dropUp_serial (s : State) (k : Nat) : (s.dropUp k).serial = s.serial := rfl
@[simp] theorem dropUp_pending (s : State) (k : Nat) : (s.dropUp k).pending = s.pending := rfl

/-! `updOutstanding` -/

@[simp] theorem updOutstanding_inReset (s : State) (k : Nat) (f : Outstanding → Outstanding) : (s.updOutstanding k f).inReset = s.inReset := rfl
@[simp] theorem updOutstanding_base (s : State) (k : Nat) (f : Outstanding → Outstanding) : (s.updOutstanding k f).base = s.base := rfl
@[simp] theorem updOutstanding_mem (s : State) (k : Nat) (f : Outstanding → Outstanding) : (s.updOutstanding k f).mem = s.mem := rfl
@[simp] theorem updOutstanding_streams (s : State) (k : Nat) (f : Outstanding → Outstanding) : (s.updOutstanding k f).streams = s.streams := rfl
@[simp] theorem updOutstanding_queue (s : State) (k : Nat) (f : Outstanding → Outstanding) : (s.updOutstanding k f).queue = s.queue := rfl
@[simp] theorem updOutstanding_engine (s : State) (k : Nat) (f : Outstanding → Outstanding) : (s.updOutstanding k f).engine = s.engine := rfl
@[simp] theorem updOutstanding_sweep (s : State) (k : Nat) (f : Outstanding → Outstanding) : (s.updOutstanding k f).sweep = s.sweep := rfl
@[simp] theorem updOutstanding_loader (s : State) (k : Nat) (f : Outstanding → Outstanding) : (s.updOutstanding k f).loader = s.loader := rfl
@[simp] theorem updOutstanding_serial (s : State) (k : Nat) (f : Outstanding → Outstanding) : (s.updOutstanding k f).serial = s.serial := rfl
@[simp] theorem updOutstanding_pending (s : State) (k : Nat) (f : Outstanding → Outstanding) : (s.updOutstanding k f).pending = s.pending := rfl

/-! `flush` -/

@[simp] theorem flush_inReset (s : State) : (s.flush).inReset = s.inReset := rfl
@[simp] theorem flush_base (s : State) : (s.flush).base = s.base := rfl
@[simp] theorem flush_mem (s : State) : (s.flush).mem = s.mem := rfl
@[simp] theorem flush_streams (s : State) : (s.flush).streams = s.streams := rfl
@[simp] theorem flush_queue (s : State) : (s.flush).queue = s.queue := rfl
@[simp] theorem flush_engine (s : State) : (s.flush).engine = s.engine := rfl
@[simp] theorem flush_sweep (s : State) : (s.flush).sweep = s.sweep := rfl
@[simp] theorem flush_loader (s : State) : (s.flush).loader = s.loader := rfl
@[simp] theorem flush_serial (s : State) : (s.flush).serial = s.serial := rfl
@[simp] theorem flush_pending (s : State) : (s.flush).pending = s.pending := rfl

/-! `complete` -/

@[simp] theorem complete_inReset (s : State) (k : Nat) (a : UpAnswer) : (s.complete k a).inReset = s.inReset := rfl
@[simp] theorem complete_base (s : State) (k : Nat) (a : UpAnswer) : (s.complete k a).base = s.base := rfl
@[simp] theorem complete_mem (s : State) (k : Nat) (a : UpAnswer) : (s.complete k a).mem = s.mem := rfl
@[simp] theorem complete_streams (s : State) (k : Nat) (a : UpAnswer) : (s.complete k a).streams = s.streams := rfl
@[simp] theorem complete_queue (s : State) (k : Nat) (a : UpAnswer) : (s.complete k a).queue = s.queue := rfl
@[simp] theorem complete_engine (s : State) (k : Nat) (a : UpAnswer) : (s.complete k a).engine = s.engine := rfl
@[simp] theorem complete_sweep (s : State) (k : Nat) (a : UpAnswer) : (s.complete k a).sweep = s.sweep := rfl
@[simp] theorem complete_loader (s : State) (k : Nat) (a : UpAnswer) : (s.complete k a).loader = s.loader := rfl
@[simp] theorem complete_serial (s : State) (k : Nat) (a : UpAnswer) : (s.complete k a).serial = s.serial := rfl
@[simp] theorem complete_pending (s : State) (k : Nat) (a : UpAnswer) : (s.complete k a).pending = s.pending := rfl

/-! `holdStartup` -/

@[simp] theorem holdStartup_inReset (s : State) (u : UpReq) : (s.holdStartup u).inReset = s.inReset := rfl
@[simp] theorem holdStartup_base (s : State) (u : UpReq) : (s.holdStartup u).base = s.base := rfl
@[simp] theorem holdStartup_mem (s : State) (u : UpReq) : (s.holdStartup u).mem = s.mem := rfl
@[simp] theorem holdStartup_streams (s : State) (u : UpReq) : (s.holdStartup u).streams = s.streams := rfl
@[simp] theorem holdStartup_queue (s : State) (u : UpReq) : (s.holdStartup u).queue = s.queue := rfl
@[simp] theorem holdStartup_engine (s : State) (u : UpReq) : (s.holdStartup u).engine = s.engine := rfl
@[simp] theorem holdStartup_sweep (s : State) (u : UpReq) : (s.holdStartup u).sweep = s.sweep := rfl
@[simp] theorem holdStartup_loader (s : State) (u : UpReq) : (s.holdStartup u).loader = s.loader := rfl
@[simp] theorem holdStartup_serial (s : State) (u : UpReq) : (s.holdStartup u).serial = s.serial := rfl
@[simp] theorem holdStartup_pending (s : State) (u : UpReq) : (s.holdStartup u).pending = s.pending := rfl

/-! `issueUp` -/

@[simp] theorem issueUp_inReset (s : State) (u : UpReq) : (s.issueUp u).inReset = s.inReset := rfl
@[simp] theorem issueUp_base (s : State) (u : UpReq) : (s.issueUp u).base = s.base := rfl
@[simp] theorem issueUp_mem (s : State) (u : UpReq) : (s.issueUp u).mem = s.mem := rfl
@[simp] theorem issueUp_streams (s : State) (u : UpReq) : (s.issueUp u).streams = s.streams := rfl
@[simp] theorem issueUp_queue (s : State) (u : UpReq) : (s.issueUp u).queue = s.queue := rfl
@[simp] theorem issueUp_engine (s : State) (u : UpReq) : (s.issueUp u).engine = s.engine := rfl
@[simp] theorem issueUp_sweep (s : State) (u : UpReq) : (s.issueUp u).sweep = s.sweep := rfl
@[simp] theorem issueUp_loader (s : State) (u : UpReq) : (s.issueUp u).loader = s.loader := rfl
@[simp] theorem issueUp_serial (s : State) (u : UpReq) : (s.issueUp u).serial = s.serial := rfl
@[simp] theorem issueUp_pending (s : State) (u : UpReq) : (s.issueUp u).pending = s.pending := rfl

/-! `issueOwn` -/

@[simp] theorem issueOwn_inReset (s : State) (q : OwnReq) : (s.issueOwn q).inReset = s.inReset := rfl
@[simp] theorem issueOwn_base (s : State) (q : OwnReq) : (s.issueOwn q).base = s.base := rfl
@[simp] theorem issueOwn_mem (s : State) (q : OwnReq) : (s.issueOwn q).mem = s.mem := rfl
@[simp] theorem issueOwn_streams (s : State) (q : OwnReq) : (s.issueOwn q).streams = s.streams := rfl
@[simp] theorem issueOwn_queue (s : State) (q : OwnReq) : (s.issueOwn q).queue = s.queue := rfl
@[simp] theorem issueOwn_engine (s : State) (q : OwnReq) : (s.issueOwn q).engine = s.engine := rfl
@[simp] theorem issueOwn_sweep (s : State) (q : OwnReq) : (s.issueOwn q).sweep = s.sweep := rfl
@[simp] theorem issueOwn_loader (s : State) (q : OwnReq) : (s.issueOwn q).loader = s.loader := rfl
@[simp] theorem issueOwn_serial (s : State) (q : OwnReq) : (s.issueOwn q).serial = s.serial := rfl
@[simp] theorem issueOwn_pending (s : State) (q : OwnReq) : (s.issueOwn q).pending = s.pending := rfl

/-! `pushFront` -/

@[simp] theorem pushFront_inReset (s : State) (c : Instr) : (s.pushFront c).inReset = s.inReset := rfl
@[simp] theorem pushFront_base (s : State) (c : Instr) : (s.pushFront c).base = s.base := rfl
@[simp] theorem pushFront_mem (s : State) (c : Instr) : (s.pushFront c).mem = s.mem := rfl
@[simp] theorem pushFront_path (s : State) (c : Instr) : (s.pushFront c).path = s.path := rfl
@[simp] theorem pushFront_streams (s : State) (c : Instr) : (s.pushFront c).streams = s.streams := rfl
@[simp] theorem pushFront_queue (s : State) (c : Instr) : (s.pushFront c).queue = s.queue := rfl
@[simp] theorem pushFront_engine (s : State) (c : Instr) : (s.pushFront c).engine = s.engine := rfl
@[simp] theorem pushFront_sweep (s : State) (c : Instr) : (s.pushFront c).sweep = s.sweep := rfl
@[simp] theorem pushFront_loader (s : State) (c : Instr) : (s.pushFront c).loader = s.loader := rfl
@[simp] theorem pushFront_serial (s : State) (c : Instr) : (s.pushFront c).serial = s.serial := rfl

/-! ## The entry of a stream -/

/-- The updated stream reads as its new entry, settled. -/
@[simp] theorem stream_updStream_self (s : State) (n : StreamId) (f : Stream → Stream) :
    (s.updStream n f).stream n = (f (s.stream n)).settled := by
  simp [State.stream, State.updStream]

/-- Every other stream is as it was. -/
theorem stream_updStream_ne (s : State) {m n : StreamId} (h : m ≠ n) (f : Stream → Stream) :
    (s.updStream n f).stream m = s.stream m := by
  have hv : n.val ≠ m.val := fun e => h (Fin.ext e.symm)
  simp only [State.stream, State.updStream]
  exact Vector.getElem_set_ne n.isLt m.isLt hv

/-- A stream after an update of a stream. -/
theorem stream_updStream (s : State) (m n : StreamId) (f : Stream → Stream) :
    (s.updStream n f).stream m = if m = n then (f (s.stream n)).settled else s.stream m := by
  by_cases h : m = n
  · subst h; simp
  · simp [h, stream_updStream_ne s h f]

/-- Two states with the same streams have the same entry of every stream. -/
theorem stream_of_streams_eq {s t : State} (h : t.streams = s.streams) (n : StreamId) : t.stream n = s.stream n := by
  simp [State.stream, h]

/-- Settling twice is settling once. -/
@[simp] theorem settled_settled (t : Stream) : t.settled.settled = t.settled := by
  unfold Stream.settled
  split_ifs <;> simp_all

@[simp] theorem settled_session (t : Stream) : t.settled.session = t.session := rfl
@[simp] theorem settled_batch (t : Stream) : t.settled.batch = t.batch := rfl
@[simp] theorem settled_guardHits (t : Stream) : t.settled.guardHits = t.guardHits := rfl
@[simp] theorem settled_answer (t : Stream) : t.settled.answer = t.answer := rfl
@[simp] theorem settled_captured (t : Stream) : t.settled.captured = t.captured := rfl
@[simp] theorem settled_written (t : Stream) : t.settled.written = t.written := rfl
@[simp] theorem settled_torn (t : Stream) : t.settled.torn = t.torn := rfl
@[simp] theorem settled_collectTimer (t : Stream) : t.settled.collectTimer = t.collectTimer := rfl
@[simp] theorem settled_closedCount (t : Stream) : t.settled.closedCount = t.closedCount := rfl
@[simp] theorem settled_cancelAsked (t : Stream) : t.settled.cancelAsked = t.cancelAsked := rfl
@[simp] theorem settled_answersRaised (t : Stream) : t.settled.answersRaised = t.answersRaised := rfl

end Sys2Proof.Machine
end

