-- ==== Sys2Proof/Laws/Raise.lean ====
section
/-! SUPPORT. What raising an own request leaves as it was: everything but the path, the serial number and the count of answer writes. -/

namespace Sys2Proof.Machine

@[simp] theorem refillOwn_inReset (s : State) : s.refillOwn.inReset = s.inReset := by unfold State.refillOwn; split <;> rfl
@[simp] theorem refillOwn_base (s : State) : s.refillOwn.base = s.base := by unfold State.refillOwn; split <;> rfl
@[simp] theorem refillOwn_mem (s : State) : s.refillOwn.mem = s.mem := by unfold State.refillOwn; split <;> rfl
@[simp] theorem refillOwn_streams (s : State) : s.refillOwn.streams = s.streams := by unfold State.refillOwn; split <;> rfl
@[simp] theorem refillOwn_queue (s : State) : s.refillOwn.queue = s.queue := by unfold State.refillOwn; split <;> rfl
@[simp] theorem refillOwn_engine (s : State) : s.refillOwn.engine = s.engine := by unfold State.refillOwn; split <;> rfl
@[simp] theorem refillOwn_sweep (s : State) : s.refillOwn.sweep = s.sweep := by unfold State.refillOwn; split <;> rfl
@[simp] theorem refillOwn_loader (s : State) : s.refillOwn.loader = s.loader := by unfold State.refillOwn; split <;> rfl
@[simp] theorem refillOwn_serial (s : State) : s.refillOwn.serial = s.serial := by unfold State.refillOwn; split <;> rfl
@[simp] theorem refillOwn_pending (s : State) : s.refillOwn.pending = s.pending := by unfold State.refillOwn; split <;> rfl

@[simp] theorem countAnswer_inReset (s : State) (t : OwnTag) : (s.countAnswer t).inReset = s.inReset := by
  unfold State.countAnswer; split <;> rfl
@[simp] theorem countAnswer_base (s : State) (t : OwnTag) : (s.countAnswer t).base = s.base := by
  unfold State.countAnswer; split <;> rfl
@[simp] theorem countAnswer_mem (s : State) (t : OwnTag) : (s.countAnswer t).mem = s.mem := by
  unfold State.countAnswer; split <;> rfl
@[simp] theorem countAnswer_path (s : State) (t : OwnTag) : (s.countAnswer t).path = s.path := by
  unfold State.countAnswer; split <;> rfl
@[simp] theorem countAnswer_queue (s : State) (t : OwnTag) : (s.countAnswer t).queue = s.queue := by
  unfold State.countAnswer; split <;> rfl
@[simp] theorem countAnswer_engine (s : State) (t : OwnTag) : (s.countAnswer t).engine = s.engine := by
  unfold State.countAnswer; split <;> rfl
@[simp] theorem countAnswer_sweep (s : State) (t : OwnTag) : (s.countAnswer t).sweep = s.sweep := by
  unfold State.countAnswer; split <;> rfl
@[simp] theorem countAnswer_loader (s : State) (t : OwnTag) : (s.countAnswer t).loader = s.loader := by
  unfold State.countAnswer; split <;> rfl
@[simp] theorem countAnswer_serial (s : State) (t : OwnTag) : (s.countAnswer t).serial = s.serial := by
  unfold State.countAnswer; split <;> rfl
@[simp] theorem countAnswer_pending (s : State) (t : OwnTag) : (s.countAnswer t).pending = s.pending := by
  unfold State.countAnswer; split <;> rfl

@[simp] theorem raise_inReset (s : State) (t : OwnTag) (o : Nat) (b : OwnBody) (h : Option Nat) :
    (s.raise t o b h).inReset = s.inReset := by simp [State.raise]
@[simp] theorem raise_base (s : State) (t : OwnTag) (o : Nat) (b : OwnBody) (h : Option Nat) :
    (s.raise t o b h).base = s.base := by simp [State.raise]
@[simp] theorem raise_mem (s : State) (t : OwnTag) (o : Nat) (b : OwnBody) (h : Option Nat) :
    (s.raise t o b h).mem = s.mem := by simp [State.raise]
@[simp] theorem raise_queue (s : State) (t : OwnTag) (o : Nat) (b : OwnBody) (h : Option Nat) :
    (s.raise t o b h).queue = s.queue := by simp [State.raise]
@[simp] theorem raise_engine (s : State) (t : OwnTag) (o : Nat) (b : OwnBody) (h : Option Nat) :
    (s.raise t o b h).engine = s.engine := by simp [State.raise]
@[simp] theorem raise_sweep (s : State) (t : OwnTag) (o : Nat) (b : OwnBody) (h : Option Nat) :
    (s.raise t o b h).sweep = s.sweep := by simp [State.raise]
@[simp] theorem raise_loader (s : State) (t : OwnTag) (o : Nat) (b : OwnBody) (h : Option Nat) :
    (s.raise t o b h).loader = s.loader := by simp [State.raise]
@[simp] theorem raise_serial (s : State) (t : OwnTag) (o : Nat) (b : OwnBody) (h : Option Nat) :
    (s.raise t o b h).serial = s.serial + 1 := by simp [State.raise]
@[simp] theorem raise_pending (s : State) (t : OwnTag) (o : Nat) (b : OwnBody) (h : Option Nat) :
    (s.raise t o b h).pending = s.pending := by simp [State.raise]

@[simp] theorem raiseWrite_mem (s : State) (t : OwnTag) (o : Nat) (b : List Byte) (h : Option Nat) :
    (s.raiseWrite t o b h).mem = s.mem := raise_mem s t o _ h
@[simp] theorem raiseWrite_queue (s : State) (t : OwnTag) (o : Nat) (b : List Byte) (h : Option Nat) :
    (s.raiseWrite t o b h).queue = s.queue := raise_queue s t o _ h
@[simp] theorem raiseWrite_engine (s : State) (t : OwnTag) (o : Nat) (b : List Byte) (h : Option Nat) :
    (s.raiseWrite t o b h).engine = s.engine := raise_engine s t o _ h
@[simp] theorem raiseWrite_sweep (s : State) (t : OwnTag) (o : Nat) (b : List Byte) (h : Option Nat) :
    (s.raiseWrite t o b h).sweep = s.sweep := raise_sweep s t o _ h
@[simp] theorem raiseWrite_loader (s : State) (t : OwnTag) (o : Nat) (b : List Byte) (h : Option Nat) :
    (s.raiseWrite t o b h).loader = s.loader := raise_loader s t o _ h

/-- A write that changes no answer area leaves every stream's entry. -/
theorem raise_streams (s : State) (t : OwnTag) (o : Nat) (b : OwnBody) (h : Option Nat) (ht : t.answerOf = none) :
    (s.raise t o b h).streams = s.streams := by
  unfold State.raise State.countAnswer
  rw [refillOwn_streams, ht]

end Sys2Proof.Machine
end

