-- ==== Sys2Proof/Laws/Keeps.lean ====
section
/-! SUPPORT. What every operation keeps, said once: memory, the reset pin, the base and the queue of commands are as they were, and the
bounds and laws of the streams go on holding. Only the landing of an answered write changes memory. -/

namespace Sys2Proof.Machine

/-- What an operation keeps. -/
structure Keeps (s t : State) : Prop where
  mem : t.mem = s.mem
  inReset : t.inReset = s.inReset
  base : t.base = s.base
  pending : t.pending = s.pending
  settled : StreamsSettled s → StreamsSettled t
  bounded : StreamsBounded s → StreamsBounded t
  claims : ClaimsUnique s → ClaimsUnique t
  faults : FaultsBounded s → FaultsBounded t

theorem Keeps.refl (s : State) : Keeps s s := ⟨rfl, rfl, rfl, rfl, id, id, id, id⟩

theorem Keeps.trans {a b c : State} (h : Keeps a b) (k : Keeps b c) : Keeps a c :=
  ⟨k.mem.trans h.mem, k.inReset.trans h.inReset, k.base.trans h.base, k.pending.trans h.pending,
    k.settled ∘ h.settled, k.bounded ∘ h.bounded, k.claims ∘ h.claims, k.faults ∘ h.faults⟩

/-- An operation that leaves the streams, the count and the four kept fields. -/
theorem Keeps.of_eq {s t : State} (h1 : t.mem = s.mem) (h2 : t.inReset = s.inReset) (h3 : t.base = s.base)
    (h4 : t.pending = s.pending) (h5 : t.streams = s.streams) (h6 : t.loader.faults = s.loader.faults) :
    Keeps s t := by
  have hs : ∀ n, t.stream n = s.stream n := stream_of_streams_eq h5
  refine ⟨h1, h2, h3, h4, ?_, ?_, ?_, ?_⟩
  · intro h n; rw [hs]; exact h n
  · intro h n; rw [hs]; exact h n
  · intro h m n p hm hn; rw [hs] at hm hn; exact h m n p hm hn
  · intro h; simpa [FaultsBounded, h6] using h

/-- A fold of operations that keep. -/
theorem Keeps.foldl {α : Type} (f : State → α → State) (h : ∀ s a, Keeps s (f s a)) (l : List α) :
    ∀ s, Keeps s (l.foldl f s) := by
  induction l with
  | nil => intro s; exact Keeps.refl s
  | cons a l ih => intro s; exact (h s a).trans (ih _)

/-! ## Streams -/

/-- A change of a stream's entry that keeps its bounds and makes no claim. -/
structure Gentle (f : Stream → Stream) : Prop where
  bounded : ∀ t, t.bounded → (f t).bounded
  claims : ∀ t p, (f t).session = .claimed p → t.session = .claimed p

theorem settled_bounded {t : Stream} (h : t.bounded) : t.settled.bounded := by
  obtain ⟨h1, h2, h3⟩ := h
  refine ⟨?_, h2, ?_⟩
  · simp only [Stream.settled]; split
    · exact h1
    · simp
  · simp only [Stream.settled]; split
    · simp
    · exact h3

/-- Any change of one entry keeps the streams settled. -/
theorem updStream_settled (s : State) (n : StreamId) (f : Stream → Stream) (h : StreamsSettled s) :
    StreamsSettled (s.updStream n f) := by
  intro m
  rw [stream_updStream]
  split
  · simp
  · exact h m

theorem updStream_bounded (s : State) (n : StreamId) (f : Stream → Stream)
    (hf : (s.stream n).bounded → (f (s.stream n)).bounded) (h : StreamsBounded s) : StreamsBounded (s.updStream n f) := by
  intro m
  rw [stream_updStream]
  split
  · exact settled_bounded (hf (h n))
  · exact h m

theorem keeps_updStream (s : State) (n : StreamId) {f : Stream → Stream} (hf : Gentle f) :
    Keeps s (s.updStream n f) := by
  refine ⟨rfl, rfl, rfl, rfl, updStream_settled s n f, updStream_bounded s n f (hf.bounded _), ?_, id⟩
  intro h a b p ha hb
  have key : ∀ c, ((s.updStream n f).stream c).session = .claimed p → (s.stream c).session = .claimed p := by
    intro c hc
    rw [stream_updStream] at hc
    split at hc
    · rename_i e; rw [e]; exact hf.claims _ _ hc
    · exact hc
  exact h a b p (key a ha) (key b hb)

/-- A change of fields other than watches, counts and session. -/
theorem gentle_of_eq {f : Stream → Stream} (h1 : ∀ t, (f t).watches = t.watches) (h2 : ∀ t, (f t).guardHits = t.guardHits)
    (h3 : ∀ t, (f t).checkFails = t.checkFails) (h4 : ∀ t, (f t).session = t.session) : Gentle f :=
  ⟨fun t h => by simpa [Stream.bounded, h1, h2, h3] using h, fun t p h => by rwa [h4] at h⟩

theorem gentle_batchIdle : Gentle Stream.batchIdle :=
  gentle_of_eq (fun _ => rfl) (fun _ => rfl) (fun _ => rfl) (fun _ => rfl)

theorem satSucc_le (n : Nat) : satSucc n ≤ Config.countTop := Nat.min_le_right _ _

/-! ## Shared operations (Ops) -/

theorem keeps_activity (s : State) (n : StreamId) : Keeps s (s.activity n) :=
  keeps_updStream s n (gentle_of_eq (fun _ => rfl) (fun _ => rfl) (fun _ => rfl) (fun _ => rfl))

theorem keeps_guardHit (s : State) (n : StreamId) : Keeps s (s.guardHit n) :=
  keeps_updStream s n ⟨fun _ h => ⟨h.1, satSucc_le _, h.2.2⟩, fun _ _ h => h⟩

theorem keeps_endBatch (s : State) (n : StreamId) : Keeps s (s.endBatch n) := keeps_updStream s n gentle_batchIdle

theorem keeps_leaveQueue (s : State) (n : StreamId) : Keeps s (s.leaveQueue n) := Keeps.of_eq rfl rfl rfl rfl rfl rfl

theorem keeps_setAnswer (s : State) (n : StreamId) (a : AnswerState) : Keeps s (s.setAnswer n a) :=
  keeps_updStream s n (gentle_of_eq (fun _ => rfl) (fun _ => rfl) (fun _ => rfl) (fun _ => rfl))

theorem keeps_countAnswer (s : State) (t : OwnTag) : Keeps s (s.countAnswer t) := by
  unfold State.countAnswer
  split
  · exact keeps_updStream s _ (gentle_of_eq (fun _ => rfl) (fun _ => rfl) (fun _ => rfl) (fun _ => rfl))
  · exact Keeps.refl s

theorem keeps_refillOwn (s : State) : Keeps s s.refillOwn := by
  unfold State.refillOwn
  split
  · exact Keeps.of_eq rfl rfl rfl rfl rfl rfl
  · exact Keeps.refl s

theorem keeps_raise (s : State) (t : OwnTag) (off : Nat) (b : OwnBody) (h : Option Nat) :
    Keeps s (s.raise t off b h) := by
  unfold State.raise
  refine Keeps.trans (Keeps.trans ?_ (keeps_countAnswer _ t)) (keeps_refillOwn _)
  exact Keeps.of_eq rfl rfl rfl rfl rfl rfl

theorem keeps_raiseWrite (s : State) (t : OwnTag) (off : Nat) (bs : List Byte) (h : Option Nat) :
    Keeps s (s.raiseWrite t off bs h) := keeps_raise s t off _ h

theorem keeps_raiseStatus (s : State) (t : OwnTag) : Keeps s (s.raiseStatus t) := keeps_raiseWrite s _ _ _ _

/-- A change of the loader that keeps the count. -/
theorem keeps_loader (s : State) (l : Loader) (h : l.faults = s.loader.faults) : Keeps s { s with loader := l } :=
  Keeps.of_eq rfl rfl rfl rfl rfl h

/-- A change of the loader to a count within its bound. -/
theorem keeps_loader_bound (s : State) (l : Loader) (h : l.faults ≤ Config.countTop) : Keeps s { s with loader := l } :=
  ⟨rfl, rfl, rfl, rfl, id, id, id, fun _ => h⟩

theorem keeps_storeFault (s : State) : Keeps s s.storeFault := by
  unfold State.storeFault
  split
  · refine Keeps.trans ?_ (keeps_raiseStatus _ _)
    exact keeps_loader_bound s _ (by rename_i h; show s.loader.faults + 1 ≤ Config.countTop; omega)
  · exact Keeps.refl s

theorem keeps_setResult (s : State) (r : SetupResult) : Keeps s (s.setResult r) := by
  unfold State.setResult
  split
  · exact Keeps.refl s
  · refine Keeps.trans ?_ (keeps_raiseStatus _ _)
    exact keeps_loader s _ rfl

theorem keeps_raiseAnswer (s : State) (n : StreamId) (t : OwnTag) (ls : List Lane) (h : Option Nat) :
    Keeps s (s.raiseAnswer n t ls h) := by
  unfold State.raiseAnswer
  split
  · refine Keeps.trans ?_ (keeps_countAnswer _ t)
    exact Keeps.of_eq rfl rfl rfl rfl rfl rfl
  · exact keeps_raise s t _ _ h

theorem keeps_answerFresh (s : State) (n : StreamId) (r : BatchResult) (c : Nat) (h : Option Nat) :
    Keeps s (s.answerFresh n r c h) := by
  unfold State.answerFresh
  refine Keeps.trans ?_ (keeps_raiseAnswer _ _ _ _ _)
  exact keeps_setAnswer s n .fresh

theorem keeps_answerWaiting (s : State) (n : StreamId) (c : Nat) (h : Option Nat) :
    Keeps s (s.answerWaiting n c h) := by
  unfold State.answerWaiting
  refine Keeps.trans ?_ (keeps_raiseAnswer _ _ _ _ _)
  exact keeps_setAnswer s n .waiting

theorem keeps_raiseSession (s : State) (n : StreamId) (h : Option Nat) : Keeps s (s.raiseSession n h) :=
  keeps_raiseWrite s _ _ _ h

theorem keeps_changeSession (s : State) (n : StreamId) {f : Stream → Stream} (hf : Gentle f) (h : Option Nat) :
    Keeps s (s.changeSession n f h) := by
  unfold State.changeSession
  split
  · exact keeps_updStream s n hf
  · exact (keeps_updStream s n hf).trans (keeps_raiseSession _ n h)

/-! ## The inline path (Arbiter, Watches, MarkUnit) -/

theorem keeps_flush (s : State) : Keeps s s.flush := Keeps.of_eq rfl rfl rfl rfl rfl rfl
theorem keeps_updOutstanding (s : State) (k : Nat) (f : Outstanding → Outstanding) :
    Keeps s (s.updOutstanding k f) := Keeps.of_eq rfl rfl rfl rfl rfl rfl
theorem keeps_complete (s : State) (k : Nat) (a : UpAnswer) : Keeps s (s.complete k a) :=
  Keeps.of_eq rfl rfl rfl rfl rfl rfl
theorem keeps_dropOwn (s : State) (k : Nat) : Keeps s (s.dropOwn k) := Keeps.of_eq rfl rfl rfl rfl rfl rfl
theorem keeps_dropUp (s : State) (k : Nat) : Keeps s (s.dropUp k) := Keeps.of_eq rfl rfl rfl rfl rfl rfl
theorem keeps_issueUp (s : State) (u : UpReq) : Keeps s (s.issueUp u) := Keeps.of_eq rfl rfl rfl rfl rfl rfl
theorem keeps_issueOwn (s : State) (q : OwnReq) : Keeps s (s.issueOwn q) := Keeps.of_eq rfl rfl rfl rfl rfl rfl
theorem keeps_holdStartup (s : State) (u : UpReq) : Keeps s (s.holdStartup u) := Keeps.of_eq rfl rfl rfl rfl rfl rfl

theorem keeps_place (s : State) (u : UpReq) : Keeps s (s.place u) := by
  unfold State.place
  split <;> exact Keeps.of_eq rfl rfl rfl rfl rfl rfl

theorem keeps_admitReq (s : State) (u : UpReq) : Keeps s (s.admitReq u) := by
  unfold State.admitReq
  split
  · have h1 : Keeps s (if s.losesByte u.req then s.guardHit u.req.stream else s) := by
      split
      · exact keeps_guardHit s _
      · exact Keeps.refl s
    dsimp only
    split
    · exact h1.trans ((keeps_updOutstanding _ _ _).trans (keeps_place _ _))
    · exact h1.trans (keeps_complete _ _ _)
  · exact keeps_place s u

theorem keeps_drainHold (l : List UpReq) : ∀ s, Keeps s (drainHold l s).1 := by
  induction l with
  | nil => intro s; exact Keeps.refl s
  | cons u l ih =>
    intro s
    unfold drainHold
    split
    · exact Keeps.refl s
    · exact (keeps_admitReq s u).trans (ih _)

theorem keeps_releaseAside (s : State) : Keeps s s.releaseAside := by
  unfold State.releaseAside
  split
  · exact Keeps.of_eq rfl rfl rfl rfl rfl rfl
  · exact Keeps.refl s

theorem keeps_drain (s : State) : Keeps s s.drain := by
  unfold State.drain
  dsimp only
  split
  · exact keeps_releaseAside s
  · refine (keeps_releaseAside s).trans ((keeps_drainHold s.releaseAside.path.holdList _).trans ?_)
    exact Keeps.of_eq rfl rfl rfl rfl rfl rfl

theorem keeps_enter (s : State) (r : Request) : Keeps s (s.enter r) := by
  unfold State.enter
  refine (keeps_activity s r.stream).trans ?_
  exact Keeps.of_eq rfl rfl rfl rfl rfl rfl

theorem keeps_releaseHeld (s : State) (h : Option Nat) (f : Bool) : Keeps s (s.releaseHeld h f) := by
  unfold State.releaseHeld
  split
  · exact Keeps.refl s
  · cases f <;> dsimp only <;> simp only [if_true, Bool.false_eq_true, if_false] <;> split
    · exact Keeps.refl s
    · exact (keeps_updOutstanding _ _ _).trans ((keeps_flush _).trans (keeps_drain _))
    · exact keeps_updOutstanding _ _ _
    · exact (keeps_updOutstanding _ _ _).trans
        ((keeps_updOutstanding _ _ _).trans ((keeps_flush _).trans (keeps_drain _)))

theorem placeWatch_length (ws : List Watch) (w : Watch) (h : ws.length ≤ 8) : (placeWatch ws w).length ≤ 8 := by
  unfold placeWatch
  split
  · rename_i v hv
    have hmem := List.mem_of_find?_eq_some hv
    have hp := List.find?_some hv
    have hlt : (ws.filter (fun v => !(decide (v.region = w.region) && decide (v.index = w.index)))).length < ws.length := by
      refine List.length_filter_lt_length_iff_exists.mpr ⟨v, hmem, ?_⟩
      simpa using hp
    simp only [List.length_append, List.length_cons, List.length_nil]
    omega
  · simp only [List.length_append, List.length_drop, List.length_cons, List.length_nil]
    omega

theorem keeps_handOffRecord (s : State) (n : StreamId) (st : Bool) (x : Region × Nat) :
    Keeps s (s.handOffRecord n st x) := by
  unfold State.handOffRecord
  split
  · exact keeps_updStream s n
      ⟨fun t h => ⟨placeWatch_length _ _ h.1, h.2.1, h.2.2⟩, fun _ _ h => h⟩
  · exact Keeps.refl s

theorem keeps_spoil (s : State) (o : Option StreamId) (ts : List Target) : Keeps s (s.spoil o ts) := by
  unfold State.spoil
  refine Keeps.foldl _ ?_ _ s
  intro t n
  split
  · exact Keeps.refl t
  · exact keeps_updStream t n
      ⟨fun u h => ⟨by simpa [spoilWatches] using h.1, h.2.1, h.2.2⟩, fun _ _ h => h⟩

theorem keeps_readArrives (s : State) (i : IssuedUp) (a : Answer) : Keeps s (s.readArrives i a) := by
  unfold State.readArrives
  dsimp only
  split
  · exact (keeps_complete s _ _).trans (keeps_drain _)
  · refine Keeps.trans (Keeps.foldl _ ?_ _ s) ((keeps_complete _ _ _).trans (keeps_drain _))
    intro t x
    exact keeps_handOffRecord t _ _ x

/-! ## Sessions and timers -/

/-- A change to a session that is not CLAIMED. -/
theorem gentle_session (x : Session) (hx : ∀ p, x ≠ .claimed p) : Gentle (fun t => { t with session := x }) :=
  ⟨fun _ h => h, fun _ p h => absurd h (hx p)⟩

theorem keeps_makeVacant (s : State) (n : StreamId) : Keeps s (s.makeVacant n) :=
  keeps_changeSession s n (gentle_session .vacant (fun _ => by simp)) none

theorem keeps_reopen (s : State) (n : StreamId) : Keeps s (s.reopen n) :=
  keeps_changeSession s n (f := fun t => { t with session := .vacant, checkFails := 0 })
    ⟨fun _ h => ⟨h.1, h.2.1, Nat.zero_le _⟩, fun _ _ h => by simp at h⟩ none

theorem keeps_endVictim (s : State) (v : StreamId) : Keeps s (s.endVictim v) := by
  unfold State.endVictim
  refine Keeps.trans ?_ (keeps_answerFresh _ v _ _ _)
  split
  · exact keeps_endBatch s v
  · exact (keeps_leaveQueue s v).trans (keeps_endBatch _ v)
  · exact Keeps.refl s
  · exact Keeps.refl s

/-- Counting an answer write leaves every session. -/
theorem session_countAnswer (s : State) (t : OwnTag) (m : StreamId) :
    ((s.countAnswer t).stream m).session = (s.stream m).session := by
  unfold State.countAnswer
  split
  · rw [stream_updStream]; split
    · rename_i h; rw [h]; rfl
    · rfl
  · rfl

/-- Raising an own request leaves every session. -/
theorem session_raise (s : State) (t : OwnTag) (off : Nat) (b : OwnBody) (h : Option Nat) (m : StreamId) :
    ((s.raise t off b h).stream m).session = (s.stream m).session := by
  unfold State.raise
  rw [stream_of_streams_eq (refillOwn_streams _), session_countAnswer]
  rfl

/-- The sessions after a change of one stream's entry. -/
theorem session_changeSession (s : State) (n m : StreamId) (f : Stream → Stream) (h : Option Nat) :
    ((s.changeSession n f h).stream m).session =
      if m = n then (f (s.stream n)).session else (s.stream m).session := by
  have key : ((s.updStream n f).stream m).session =
      if m = n then (f (s.stream n)).session else (s.stream m).session := by
    rw [stream_updStream]; split <;> rfl
  unfold State.changeSession
  split
  · exact key
  · rw [State.raiseSession, State.raiseWrite, session_raise]; exact key

/-- Claims stay unique when a stream takes a claim no other stream holds. -/
theorem keeps_makeClaimed (s : State) (n : StreamId) (p : Nat) (free : ∀ m, m ≠ n → (s.stream m).session ≠ .claimed p) :
    Keeps s (s.makeClaimed n p) := by
  have h1 : Keeps (s.updStream n (fun t => { t with session := .claimed p })) (s.makeClaimed n p) := by
    unfold State.makeClaimed State.changeSession
    split
    · exact Keeps.refl _
    · exact keeps_raiseSession _ n none
  refine ⟨h1.mem, h1.inReset, h1.base, h1.pending, fun h => h1.settled (updStream_settled s n _ h),
    fun h => h1.bounded (updStream_bounded s n _ (fun hb => hb) h), ?_, fun h => h1.faults h⟩
  intro h a b q ha hb
  rw [State.makeClaimed, session_changeSession] at ha hb
  split at ha <;> split at hb
  · rename_i x y; rw [x, y]
  · rename_i x y
    have : q = p := by simpa using ha.symm
    exact absurd (this ▸ hb) (free b y)
  · rename_i x y
    have : q = p := by simpa using hb.symm
    exact absurd (this ▸ ha) (free a x)
  · exact h a b q ha hb

theorem find_allStreams_none {q : StreamId → Bool} (h : allStreams.find? q = none) (n : StreamId) : q n = false := by
  have := List.find?_eq_none.mp h n (List.mem_finRange n)
  simpa using this

/-- What any change of a session keeps, but for the uniqueness of claims. -/
theorem makeClaimed_parts (s : State) (n : StreamId) (p : Nat) :
    (s.makeClaimed n p).mem = s.mem ∧ (s.makeClaimed n p).inReset = s.inReset ∧
    (s.makeClaimed n p).base = s.base ∧ (s.makeClaimed n p).pending = s.pending ∧
    (StreamsSettled s → StreamsSettled (s.makeClaimed n p)) ∧
    (StreamsBounded s → StreamsBounded (s.makeClaimed n p)) ∧
    (FaultsBounded s → FaultsBounded (s.makeClaimed n p)) := by
  have h1 : Keeps (s.updStream n (fun t => { t with session := .claimed p })) (s.makeClaimed n p) := by
    unfold State.makeClaimed State.changeSession
    split
    · exact Keeps.refl _
    · exact keeps_raiseSession _ n none
  exact ⟨h1.mem, h1.inReset, h1.base, h1.pending, fun h => h1.settled (updStream_settled s n _ h),
    fun h => h1.bounded (updStream_bounded s n _ (fun hb => hb) h), fun h => h1.faults h⟩

/-- A takeover of patron `p` from stream `v` keeps claims unique. -/
theorem keeps_takeover (s : State) (n v : StreamId) (p : Nat) (hv : (s.stream v).session = .claimed p) :
    Keeps s ((s.makeVacant v).makeClaimed n p) := by
  have h1 := keeps_makeVacant s v
  by_cases hu : ClaimsUnique s
  · refine h1.trans (keeps_makeClaimed (s.makeVacant v) n p ?_)
    intro m _ hm
    rw [State.makeVacant, session_changeSession] at hm
    split at hm
    · simp at hm
    · rename_i hne; exact hne (hu m v p hm hv)
  · obtain ⟨a, b, c, d, e, f, g⟩ := makeClaimed_parts (s.makeVacant v) n p
    exact ⟨a.trans h1.mem, b.trans h1.inReset, c.trans h1.base, d.trans h1.pending, fun h => e (h1.settled h),
      fun h => f (h1.bounded h), fun h => absurd h hu, fun h => g (h1.faults h)⟩

theorem claimant_some {s : State} {p : Nat} {v : StreamId} (h : s.claimant p = some v) :
    (s.stream v).session = .claimed p := by
  have := List.find?_some (p := fun m => decide ((s.stream m).session = .claimed p)) h
  simpa using this

theorem keeps_claimRequest (s : State) (n : StreamId) (p : Nat) : Keeps s (s.claimRequest n p).1 := by
  unfold State.claimRequest
  split
  · rename_i h
    refine keeps_makeClaimed s n p ?_
    intro m _ hm
    have := find_allStreams_none h m
    simp [hm] at this
  · rename_i v hv
    split
    · exact (keeps_takeover s n v p (claimant_some hv)).trans (keeps_endVictim _ v)
    · exact Keeps.refl s

theorem keeps_idleExpire (s : State) (n : StreamId) : Keeps s (s.idleExpire n) :=
  (keeps_makeVacant s n).trans (keeps_answerFresh _ _ _ _ _)

theorem keeps_collectExpire (s : State) (n : StreamId) : Keeps s (s.collectExpire n) :=
  (keeps_endBatch s n).trans (keeps_answerFresh _ _ _ _ _)

theorem keeps_ite (c : Prop) [Decidable c] {s a b : State} (ha : Keeps s a) (hb : Keeps s b) :
    Keeps s (if c then a else b) := by
  split
  · exact ha
  · exact hb

theorem keeps_expireDue (s : State) : Keeps s s.expireDue := by
  unfold State.expireDue
  refine Keeps.foldl _ ?_ _ s
  intro t n
  have h1 : Keeps t (if t.idleDue n then t.idleExpire n else t) :=
    keeps_ite _ (keeps_idleExpire t n) (Keeps.refl t)
  exact h1.trans (keeps_ite _ (keeps_collectExpire _ n) (Keeps.refl _))

theorem keeps_checkRefusal (s : State) (n : StreamId) (h : Option Nat) : Keeps s (s.checkRefusal n h) := by
  unfold State.checkRefusal
  dsimp only
  split
  · exact Keeps.refl s
  · split
    · exact keeps_changeSession s n
        (f := fun t => { t with session := .barred, checkFails := min ((s.stream n).checkFails + 1) 15 })
        ⟨fun _ h => ⟨h.1, h.2.1, Nat.min_le_right _ _⟩, fun _ _ h => by simp at h⟩ h
    · exact keeps_updStream s n ⟨fun _ h => ⟨h.1, h.2.1, Nat.min_le_right _ _⟩, fun _ _ h => h⟩

end Sys2Proof.Machine
end

