-- ==== Sys2Proof/Laws/KeepsDesk.lean ====
section
/-! SUPPORT. What the operations of Desk Capture, the Day Sweep and the Settle Engine keep. -/

namespace Sys2Proof.Machine

/-! ## Desk Capture -/

theorem gentle_takeWords (cells : List (Nat × Byte)) (g : Stream → Stream) (hg : Gentle g) :
    Gentle (fun t => takeWords cells (g t)) := by
  have key : ∀ (l : List (Nat × Byte)) (u : Stream),
      (l.foldl (fun u c => markWord cells u (c.1 / 8)) u).watches = u.watches ∧
      (l.foldl (fun u c => markWord cells u (c.1 / 8)) u).guardHits = u.guardHits ∧
      (l.foldl (fun u c => markWord cells u (c.1 / 8)) u).checkFails = u.checkFails ∧
      (l.foldl (fun u c => markWord cells u (c.1 / 8)) u).session = u.session := by
    intro l
    induction l with
    | nil => intro u; exact ⟨rfl, rfl, rfl, rfl⟩
    | cons c l ih =>
      intro u
      have h1 := ih (markWord cells u (c.1 / 8))
      have h2 : (markWord cells u (c.1 / 8)).watches = u.watches ∧ (markWord cells u (c.1 / 8)).guardHits = u.guardHits ∧
          (markWord cells u (c.1 / 8)).checkFails = u.checkFails ∧ (markWord cells u (c.1 / 8)).session = u.session := by
        unfold markWord; split <;> exact ⟨rfl, rfl, rfl, rfl⟩
      exact ⟨h1.1.trans h2.1, h1.2.1.trans h2.2.1, h1.2.2.1.trans h2.2.2.1, h1.2.2.2.trans h2.2.2.2⟩
  constructor
  · intro t h
    have hk := key cells { g t with captured := cells.foldl (fun m c => Memory.write m c.1 c.2) (g t).captured }
    have hb := hg.bounded t h
    unfold takeWords
    exact ⟨by rw [hk.1]; exact hb.1, by rw [hk.2.1]; exact hb.2.1, by rw [hk.2.2.1]; exact hb.2.2⟩
  · intro t p h
    have hk := key cells { g t with captured := cells.foldl (fun m c => Memory.write m c.1 c.2) (g t).captured }
    unfold takeWords at h
    rw [hk.2.2.2] at h
    exact hg.claims t p h

theorem keeps_slotWrite (s : State) (n : StreamId) (cells : List (Nat × Byte)) : Keeps s (s.slotWrite n cells) := by
  unfold State.slotWrite
  split
  · exact keeps_updStream s n (gentle_takeWords cells
      (fun t => { t.batchIdle with batch := .collecting, collectTimer := some 0 })
      (gentle_of_eq (fun _ => rfl) (fun _ => rfl) (fun _ => rfl) (fun _ => rfl)))
  · exact keeps_updStream s n (gentle_takeWords cells (fun t => { t with collectTimer := some 0 })
      (gentle_of_eq (fun _ => rfl) (fun _ => rfl) (fun _ => rfl) (fun _ => rfl)))
  · exact Keeps.refl s
  · exact Keeps.refl s

theorem keeps_closeRefused (s : State) (n : StreamId) (r : BatchResult) (tag : Nat) :
    Keeps s (s.closeRefused n r tag) := by
  unfold State.closeRefused
  dsimp only
  exact (keeps_ite _ (keeps_checkRefusal s n _) (Keeps.refl s)).trans
    ((keeps_endBatch _ n).trans (keeps_answerFresh _ _ _ _ _))

theorem keeps_closeTaken (s : State) (n : StreamId) (c tag : Nat) : Keeps s (s.closeTaken n c tag) := by
  unfold State.closeTaken
  dsimp only
  refine Keeps.trans (keeps_updStream s n (f := fun t =>
      { t with checkFails := 0, collectTimer := none, closedCount := c, cancelAsked := false, batch := .queued })
      ⟨fun _ h => ⟨h.1, h.2.1, Nat.zero_le _⟩, fun _ _ h => h⟩) (Keeps.trans ?_ (keeps_answerWaiting _ _ _ _))
  exact Keeps.of_eq rfl rfl rfl rfl rfl rfl

theorem keeps_closeBatch (s : State) (n : StreamId) (c tag : Nat) : Keeps s (s.closeBatch n c tag) := by
  unfold State.closeBatch
  split
  · exact keeps_closeRefused s n _ tag
  · exact keeps_guardHit s n
  · exact keeps_closeTaken s n c tag

theorem keeps_cancelBatch (s : State) (n : StreamId) (tag : Nat) : Keeps s (s.cancelBatch n tag) := by
  unfold State.cancelBatch
  split
  · exact Keeps.refl s
  · exact (keeps_endBatch s n).trans (keeps_answerFresh _ _ _ _ _)
  · exact (keeps_leaveQueue s n).trans ((keeps_endBatch _ n).trans (keeps_answerFresh _ _ _ _ _))
  · exact keeps_updStream s n (gentle_of_eq (fun _ => rfl) (fun _ => rfl) (fun _ => rfl) (fun _ => rfl))

theorem keeps_closeOption (s : State) (n : StreamId) (o : Option Nat) (tag : Nat) :
    Keeps s (match o with
      | some c => s.closeBatch n c tag
      | none => s) := by
  cases o with
  | none => exact Keeps.refl s
  | some c => exact keeps_closeBatch s n c tag

theorem keeps_deskHandOn (s : State) (u : UpReq) : Keeps s (s.deskHandOn u) := by
  unfold State.deskHandOn
  split
  · exact Keeps.refl s
  · dsimp only
    have h1 : Keeps s (if ((s.deskCells u.req.stream u.req).filter (fun c => decide (c.1 < Config.closeOff))).isEmpty then s
        else s.slotWrite u.req.stream ((s.deskCells u.req.stream u.req).filter (fun c => decide (c.1 < Config.closeOff)))) :=
      keeps_ite _ (Keeps.refl s) (keeps_slotWrite s _ _)
    have h2 := h1.trans (keeps_closeOption _ u.req.stream (countByte (s.deskCells u.req.stream u.req)) u.tag)
    split
    · exact h2.trans (keeps_cancelBatch _ _ _)
    · exact h2

theorem keeps_markSeen (s : State) (n : StreamId) : Keeps s (s.markSeen n) :=
  (keeps_setAnswer s n .seen).trans (keeps_raiseAnswer _ _ _ _ _)

theorem keeps_answerRead (s : State) (i : IssuedUp) (a : Answer) : Keeps s (s.answerRead i a) := by
  unfold State.answerRead
  dsimp only
  split
  · exact keeps_ite _ (keeps_markSeen s _) (Keeps.refl s)
  · exact Keeps.refl s

/-! ## The Day Sweep -/

theorem keeps_sweepRaise (s : State) (e : Examined) : Keeps s (s.sweepRaise e) := by
  unfold State.sweepRaise
  refine Keeps.trans ?_ (keeps_raise _ _ _ _ _)
  exact Keeps.of_eq rfl rfl rfl rfl rfl rfl

theorem keeps_sweepExamine (s : State) : Keeps s s.sweepExamine := by
  unfold State.sweepExamine
  refine keeps_ite _ (keeps_ite _ (keeps_sweepRaise s _) (keeps_ite _ ?_ ?_)) (Keeps.refl s)
  · exact Keeps.of_eq rfl rfl rfl rfl rfl rfl
  · exact Keeps.of_eq rfl rfl rfl rfl rfl rfl

theorem keeps_sweepAdvance (s : State) : Keeps s s.sweepAdvance := by
  unfold State.sweepAdvance
  refine Keeps.trans ?_ (keeps_sweepExamine _)
  exact Keeps.of_eq rfl rfl rfl rfl rfl rfl

theorem keeps_countSkip (s : State) : Keeps s s.countSkip := Keeps.of_eq rfl rfl rfl rfl rfl rfl

theorem keeps_sweepSkip (s : State) : Keeps s s.sweepSkip := (keeps_countSkip s).trans (keeps_sweepAdvance _)

theorem keeps_beginPass (s : State) (g : Nat) : Keeps s (s.beginPass g) := by
  unfold State.beginPass
  refine Keeps.trans ?_ (keeps_sweepExamine _)
  exact Keeps.of_eq rfl rfl rfl rfl rfl rfl

theorem keeps_sweepPhaseEnd (s : State) (e : Bool) : Keeps s (s.sweepPhaseEnd e) := by
  unfold State.sweepPhaseEnd
  refine keeps_ite _ (Keeps.of_eq rfl rfl rfl rfl rfl rfl) (Keeps.trans ?_ (keeps_sweepExamine _))
  exact Keeps.of_eq rfl rfl rfl rfl rfl rfl

theorem keeps_sweepRelease (s : State) : Keeps s s.sweepRelease := by
  unfold State.sweepRelease
  refine Keeps.trans ?_ (keeps_sweepExamine _)
  exact Keeps.of_eq rfl rfl rfl rfl rfl rfl

theorem keeps_sweepEnded (s : State) (o : Offer) (r : Bool) : Keeps s (s.sweepEnded o r) := by
  unfold State.sweepEnded
  split
  · split
    · exact keeps_sweepAdvance s
    · exact keeps_sweepAdvance s
    · exact keeps_sweepPhaseEnd s _
  · exact keeps_sweepRelease s

theorem keeps_sweepHandBack (s : State) (o : Offer) (r : Bool) : Keeps s (s.sweepHandBack o r) := by
  unfold State.sweepHandBack
  split
  · split
    · exact keeps_sweepSkip s
    · exact keeps_sweepSkip s
    · exact keeps_sweepPhaseEnd s _
  · split
    · exact (keeps_countSkip s).trans (keeps_sweepRelease _)
    · exact (keeps_countSkip s).trans (keeps_sweepRelease _)
    · exact keeps_sweepRelease s

theorem keeps_sweepStop (s : State) : Keeps s s.sweepStop := Keeps.of_eq rfl rfl rfl rfl rfl rfl
theorem keeps_sweepOffer (s : State) (o : Offer) : Keeps s (s.sweepOffer o) := Keeps.of_eq rfl rfl rfl rfl rfl rfl

theorem keeps_sweepJudge (s : State) (e : Examined) (d : List Byte) : Keeps s (s.sweepJudge e d) := by
  unfold State.sweepJudge
  split
  · split
    · exact keeps_sweepOffer s _
    · exact keeps_sweepRaise s _
    · exact keeps_sweepAdvance s
  · exact keeps_ite _ (keeps_sweepOffer s _) (keeps_sweepAdvance s)
  · exact keeps_ite _ (keeps_sweepOffer s _) (keeps_sweepAdvance s)

theorem keeps_sweepReadAnswered (s : State) (i : IssuedOwn) (a : Answer) : Keeps s (s.sweepReadAnswered i a) := by
  unfold State.sweepReadAnswered
  split
  · exact (keeps_storeFault s).trans (keeps_sweepSkip _)
  · exact (keeps_storeFault s).trans (keeps_sweepExamine _)
  · exact keeps_ite _ (keeps_sweepRaise s _) (keeps_sweepJudge s _ _)
  · exact keeps_sweepExamine s

/-! ## The Settle Engine -/

theorem keeps_setUnit (s : State) (u : WorkUnit) : Keeps s (s.setUnit u) := Keeps.of_eq rfl rfl rfl rfl rfl rfl
theorem keeps_engine (s : State) (e : Engine) : Keeps s { s with engine := e } := Keeps.of_eq rfl rfl rfl rfl rfl rfl

theorem keeps_gatherStep (s : State) (setup : Setup) (u : WorkUnit) : Keeps s (s.gatherStep setup u) := by
  unfold State.gatherStep
  dsimp only
  split
  · exact (keeps_setUnit s u).trans (keeps_raise _ _ _ _ _)
  · exact keeps_setUnit s _

theorem keeps_beginUnit (s : State) (k : UnitKind) (o : Option StreamId) (e : Option Nat) (c : Nat) :
    Keeps s (s.beginUnit k o e c) := by
  unfold State.beginUnit
  split
  · exact keeps_gatherStep s _ _
  · exact Keeps.refl s

theorem keeps_raiseWritten (s : State) (u : WorkUnit) : Keeps s (s.raiseWritten u) := by
  unfold State.raiseWritten
  dsimp only
  refine Keeps.trans ?_ (keeps_raiseWrite _ _ _ _ _)
  exact Keeps.of_eq rfl rfl rfl rfl rfl rfl

theorem keeps_raiseNext (s : State) (u : WorkUnit) : Keeps s (s.raiseNext u) := by
  unfold State.raiseNext
  split
  · exact (keeps_setUnit s _).trans (keeps_raise _ _ _ _ _)
  · split
    · exact keeps_raiseWritten s u
    · exact (keeps_setUnit s _).trans (keeps_raiseWrite _ _ _ _ _)
    · exact Keeps.refl s

theorem keeps_writeNote (s : State) (u : WorkUnit) : Keeps s (s.writeNote u) := keeps_raiseNext s _
theorem keeps_writeImages (s : State) (u : WorkUnit) : Keeps s (s.writeImages u) := keeps_raiseNext s _
theorem keeps_startNote (s : State) (u : WorkUnit) (w : Work) (d : Option DeskImage) : Keeps s (s.startNote u w d) :=
  keeps_writeNote s _

theorem keeps_conclude (s : State) (u : WorkUnit) (b : CurrentBatch) (w : Work) (o : Outcome) (x : SubUnits) :
    Keeps s (s.conclude u b w o x) := by
  unfold State.conclude
  exact (keeps_engine s _).trans (keeps_startNote _ _ _ _)

theorem keeps_decideEntry (s : State) (k : EntryKind) (f : Ctx → Work → Work × Outcome) :
    Keeps s (s.decideEntry k f) := by
  unfold State.decideEntry
  split
  · exact keeps_conclude s _ _ _ _ _
  · exact Keeps.refl s

theorem keeps_clearUnit (s : State) : Keeps s s.clearUnit := keeps_engine s _

theorem keeps_reportEnd (s : State) (u : WorkUnit) : Keeps s (s.reportEnd u) := by
  unfold State.reportEnd
  split
  · exact keeps_sweepEnded s _ _
  · exact Keeps.refl s

theorem keeps_endCurrent (s : State) (n : StreamId) (h : AnswerHeader) : Keeps s (s.endCurrent n h) := by
  unfold State.endCurrent
  exact (keeps_engine s _).trans (keeps_updStream _ n
    (gentle_of_eq (fun _ => rfl) (fun _ => rfl) (fun _ => rfl) (fun _ => rfl)))

theorem keeps_endHeader (s : State) (o : Option (StreamId × AnswerHeader)) :
    Keeps s (match o with
      | some (n, h) => s.endCurrent n h
      | none => s) := by
  cases o with
  | none => exact Keeps.refl s
  | some x => exact keeps_endCurrent s x.1 x.2

theorem keeps_endUnit (s : State) (u : WorkUnit) : Keeps s (s.endUnit u) := by
  unfold State.endUnit
  dsimp only
  exact ((keeps_clearUnit s).trans (keeps_spoil _ _ _)).trans
    ((keeps_endHeader _ (headerOf u.changes)).trans (keeps_reportEnd _ u))

theorem keeps_abandon (s : State) (u : WorkUnit) (t : Target) : Keeps s (s.abandon u t) := by
  unfold State.abandon
  dsimp only
  split
  · exact (keeps_storeFault s).trans ((keeps_clearUnit _).trans (keeps_sweepHandBack _ _ _))
  · exact (keeps_storeFault s).trans (keeps_setUnit _ _)

theorem keeps_haltAnswer (s : State) (m : StreamId) (i : Nat) : Keeps s (s.haltAnswer m i) := by
  unfold State.haltAnswer
  dsimp only
  have hg : Gentle (fun t : Stream => { t.batchIdle with answer := .fresh }) :=
    gentle_of_eq (fun _ => rfl) (fun _ => rfl) (fun _ => rfl) (fun _ => rfl)
  split
  · exact (keeps_raiseWrite _ _ _ _ _).trans (keeps_updStream _ m hg)
  · exact (keeps_raiseWrite s _ _ _ _).trans ((keeps_raiseWrite _ _ _ _ _).trans (keeps_updStream _ m hg))

/-- The current batch answered by a halting engine. -/
theorem keeps_haltBatch (s : State) (u : WorkUnit) (o : Option CurrentBatch) :
    Keeps s (match o with
      | some b => { s.haltAnswer b.stream (haltFrom u b) with engine := { s.engine with batch := none } }
      | none => s) := by
  cases o with
  | none => exact Keeps.refl s
  | some b => exact (keeps_haltAnswer s b.stream (haltFrom u b)).trans (keeps_engine _ _)

/-- The queue emptied by a halting engine. -/
theorem keeps_haltQueue (s : State) (l : List StreamId) :
    Keeps s (l.foldl (fun x n => x.haltAnswer n 0) { s with queue := [] }) := by
  have h0 : Keeps s { s with queue := [] } := Keeps.of_eq rfl rfl rfl rfl rfl rfl
  exact h0.trans (Keeps.foldl _ (fun t n => keeps_haltAnswer t n 0) l _)

theorem keeps_halt (s : State) (u : WorkUnit) : Keeps s (s.halt u) := by
  have h0 : Keeps s
      (({ s with engine := { s.engine with running := false, unit := some { u with toWrite := [] } } }).sweepStop) :=
    (keeps_engine s _).trans (keeps_sweepStop _)
  exact h0.trans ((keeps_haltBatch _ u _).trans (keeps_haltQueue _ _))

theorem keeps_writeError (s : State) (u : WorkUnit) (b : Bool) : Keeps s (s.writeError u b) := by
  unfold State.writeError
  dsimp only
  exact (keeps_storeFault s).trans (keeps_ite _ (keeps_halt _ _)
    (keeps_ite _ (keeps_writeNote _ _) (keeps_writeImages _ _)))

theorem keeps_emptyUnit (s : State) (u : WorkUnit) : Keeps s (s.emptyUnit u) :=
  (keeps_clearUnit s).trans (keeps_reportEnd _ u)

theorem keeps_concludeSweep (s : State) (u : WorkUnit) (o : Offer) (c : Nat) (w : Work) :
    Keeps s (s.concludeSweep u o c w) := by
  unfold State.concludeSweep
  exact keeps_ite _ (keeps_emptyUnit s u) (keeps_startNote s _ _ _)

end Sys2Proof.Machine
end

