-- ==== Sys2Proof/Laws/KeepsSetup.lean ====
section
/-! SUPPORT. What start-up, the Setup Loader and format keep. -/

namespace Sys2Proof.Machine

/-! ## Start-up -/

theorem leNat_lt (bs : List Byte) : leNat bs < 256 ^ bs.length := by
  induction bs with
  | nil => simp [leNat]
  | cons b bs ih =>
    have hb : b.toNat < 256 := b.isLt
    simp only [leNat, List.length_cons, Nat.pow_succ]
    omega

/-- The store-fault count of a status word is within its bound. -/
theorem blockFaults_le (b : Memory) : blockFaults b ≤ Config.countTop := by
  have h := leNat_lt (b.bytes (Config.statusOff + 4) 2)
  rw [bytes_length] at h
  show leNat (b.bytes (Config.statusOff + 4) 2) ≤ 65535
  omega

theorem keeps_setStartup (s : State) (st : Startup) : Keeps s (s.setStartup st) := keeps_loader s _ rfl
theorem keeps_startupRead (s : State) (st : Startup) (o l : Nat) : Keeps s (s.startupRead st o l) :=
  (keeps_setStartup s st).trans (keeps_raise _ _ _ _ _)
theorem keeps_startupWrite (s : State) (st : Startup) (d : Option StreamId) (o : Nat) (ls : List Lane) :
    Keeps s (s.startupWrite st d o ls) :=
  (keeps_setStartup s st).trans (keeps_raise _ _ _ _ _)

theorem keeps_setJob (s : State) (j : Job) : Keeps s (s.setJob j) := keeps_loader s _ rfl

theorem keeps_readPart (s : State) (k : RequestKind) (p : SetupPart) (b : Memory) : Keeps s (s.readPart k p b) :=
  (keeps_setJob s _).trans (keeps_raise _ _ _ _ _)

theorem keeps_requests (s : State) (rs : List RequestKind) :
    Keeps s { s with loader := { s.loader with requests := rs } } := keeps_loader s _ rfl

theorem keeps_startRequest (s : State) : Keeps s s.startRequest := by
  unfold State.startRequest
  split
  · exact (keeps_requests s _).trans (keeps_readPart _ _ _ _)
  · exact (keeps_requests s _).trans (keeps_readPart _ _ _ _)
  · exact Keeps.refl s

theorem keeps_startAtOnce (s : State) : Keeps s s.startAtOnce := keeps_ite _ (keeps_startRequest s) (Keeps.refl s)

theorem keeps_startupEnds (s : State) (p : PartState) : Keeps s (s.startupEnds p) := by
  have h : Keeps s { s with loader := { s.loader with part := p, job := .idle } } := keeps_loader s _ rfl
  exact h.trans ((keeps_raiseStatus _ _).trans ((keeps_startAtOnce _).trans (keeps_drain _)))

theorem keeps_startupUnset (s : State) (r : SetupResult) : Keeps s (s.startupUnset r) := by
  have h : Keeps s { s with loader := { s.loader with result := r } } := keeps_loader s _ rfl
  exact h.trans (keeps_startupEnds _ _)

theorem keeps_startupReadFault (s : State) : Keeps s s.startupReadFault := by
  have h : Keeps s { s with loader := { s.loader with faults := satSucc s.loader.faults } } :=
    keeps_loader_bound s _ (satSucc_le _)
  exact h.trans (keeps_startupUnset _ _)

theorem keeps_sweepLoad (s : State) : Keeps s s.sweepLoad := Keeps.of_eq rfl rfl rfl rfl rfl rfl

theorem keeps_startupReady (s : State) : Keeps s s.startupReady :=
  (keeps_sweepLoad s).trans ((keeps_startupEnds _ _).trans (keeps_sweepExamine _))

theorem keeps_startSession (s : State) (st : Startup) (n : StreamId) : Keeps s (s.startSession st n) :=
  keeps_startupWrite s _ _ _ _
theorem keeps_startScan (s : State) (st : Startup) (n : StreamId) : Keeps s (s.startScan st n) :=
  keeps_startupRead s _ _ _

theorem keeps_afterScan (s : State) (st : Startup) (n : StreamId) : Keeps s (s.afterScan st n) := by
  unfold State.afterScan
  split
  · exact keeps_startScan s _ _
  · exact keeps_startSession s _ _

theorem keeps_afterSession (s : State) (st : Startup) (n : StreamId) : Keeps s (s.afterSession st n) := by
  unfold State.afterSession
  split
  · exact keeps_startSession s _ _
  · exact keeps_startupReady s

theorem keeps_startClear (s : State) (st : Startup) : Keeps s (s.startClear st) := keeps_startupWrite s _ _ _ _

theorem keeps_replayFrom (st : Startup) (l : List RawImage) : ∀ (s : State) (i : Nat), Keeps s (s.replayFrom st i l) := by
  induction l with
  | nil => intro s i; exact keeps_startClear s st
  | cons g l ih =>
    intro s i
    unfold State.replayFrom
    split
    · exact keeps_startupWrite s _ _ _ _
    · exact (keeps_storeFault s).trans (ih _ _)

theorem keeps_replayHalt (s : State) (st : Startup) : Keeps s (s.replayHalt st) := by
  have h : Keeps s { s with
      engine := { s.engine with running := false, inFlight := st.images.filterMap s.imageTarget }
      path := s.path.touch (st.images.filterMap s.imageTarget) } := Keeps.of_eq rfl rfl rfl rfl rfl rfl
  exact h.trans ((keeps_sweepStop _).trans (keeps_startScan _ _ _))

theorem keeps_startImage (s : State) (st : Startup) (i : Nat) : Keeps s (s.startImage st i) := keeps_startupRead s _ _ _

theorem keeps_loadSessions (s : State) : Keeps s s.loadSessions := by
  refine Keeps.foldl _ ?_ _ s
  intro t n
  exact keeps_updStream t n
    ⟨fun _ h => h, fun u p h => by
      revert h
      dsimp only
      split <;> intro h <;> simp at h⟩

theorem keeps_startupAccept (s : State) (st : Startup) (u : Setup) : Keeps s (s.startupAccept st u) := by
  have h : Keeps s { s with loader := { s.loader with inForce := some u, today := some (blockDay st.block) } } :=
    keeps_loader s _ rfl
  exact h.trans ((keeps_loadSessions _).trans ((keeps_setResult _ _).trans (keeps_startupRead _ _ _ _)))

theorem keeps_startupBlock (s : State) (st : Startup) (p : SetupPart) (d : List Byte) :
    Keeps s (s.startupBlock st p d) := by
  unfold State.startupBlock
  have h1 : Keeps s (if p = .status then
      { s with loader := { s.loader with faults := blockFaults (addPart st.block p d) } } else s) :=
    keeps_ite _ (keeps_loader_bound s _ (blockFaults_le _)) (Keeps.refl s)
  dsimp only
  split
  · exact h1.trans (keeps_startupRead _ _ _ _)
  · split
    · exact h1.trans (keeps_startupUnset _ _)
    · exact h1.trans (keeps_startupAccept _ _ _)

theorem keeps_scanned (s : State) (st : Startup) (n : StreamId) (c : Nat) : Keeps s (s.scanned st n c) := by
  unfold State.scanned
  split
  · exact (keeps_setAnswer s n _).trans (keeps_startupWrite _ _ _ _ _)
  · exact (keeps_setAnswer s n _).trans (keeps_startupWrite _ _ _ _ _)
  · exact (keeps_setAnswer s n _).trans (keeps_afterScan _ _ _)
  · exact (keeps_setAnswer s n _).trans (keeps_startupWrite _ _ _ _ _)

theorem keeps_noteHead (s : State) (st : Startup) (c : Nat) : Keeps s (s.noteHead st c) :=
  keeps_ite _ (keeps_startImage s _ _) ((keeps_storeFault s).trans (keeps_startClear _ _))

theorem keeps_imageRead (s : State) (st : Startup) (i : Nat) (d : List Byte) : Keeps s (s.imageRead st i d) :=
  keeps_ite _ (keeps_startImage s _ _) (keeps_replayFrom _ _ _ _)

theorem keeps_startupReadOk (s : State) (st : Startup) (d : List Byte) : Keeps s (s.startupReadOk st d) := by
  unfold State.startupReadOk
  split
  · exact keeps_startupBlock s _ _ _
  · exact keeps_ite _ (keeps_startupRead s _ _ _) (keeps_startupEnds s _)
  · exact keeps_ite _ (keeps_startupRead s _ _ _) (keeps_startScan s _ _)
  · exact keeps_noteHead s _ _
  · exact keeps_imageRead s _ _ _
  · exact keeps_scanned s _ _ _
  · exact Keeps.refl s

theorem keeps_noteReadFailed (s : State) (st : Startup) (o l : Nat) : Keeps s (s.noteReadFailed st o l) :=
  keeps_ite _ (keeps_replayHalt s _) (keeps_startupRead s _ _ _)

theorem keeps_startupReadFailed (s : State) (st : Startup) : Keeps s (s.startupReadFailed st) := by
  unfold State.startupReadFailed
  split
  · have h : Keeps s { s with loader := { s.loader with faults := 0 } } := keeps_loader_bound s _ (Nat.zero_le _)
    exact h.trans (keeps_startupReadFault _)
  · exact keeps_startupReadFault s
  · have h : Keeps s { s with loader := { s.loader with faults := satSucc s.loader.faults } } :=
      keeps_loader_bound s _ (satSucc_le _)
    exact h.trans (keeps_startupEnds _ _)
  · exact keeps_noteReadFailed s _ _ _
  · exact keeps_noteReadFailed s _ _ _
  · exact keeps_noteReadFailed s _ _ _
  · exact (keeps_storeFault s).trans ((keeps_setAnswer _ _ _).trans (keeps_afterScan _ _ _))
  · exact Keeps.refl s

theorem keeps_replayFailed (s : State) (st : Startup) (q : OwnReq) : Keeps s (s.replayFailed st q) := by
  unfold State.replayFailed
  split
  · exact keeps_replayHalt s st
  · split
    · exact keeps_startupWrite s _ _ _ _
    · exact Keeps.refl s

theorem keeps_startupWritten (s : State) (st : Startup) (q : OwnReq) (ok : Bool) :
    Keeps s (s.startupWritten st q ok) := by
  have h : Keeps s (if ok then s else s.storeFault) := keeps_ite _ (Keeps.refl s) (keeps_storeFault s)
  unfold State.startupWritten
  split
  · exact keeps_ite _ (keeps_replayFrom _ _ s _) (keeps_replayFailed s _ _)
  · exact keeps_ite _ (keeps_startScan s _ _) (keeps_replayFailed s _ _)
  · exact h.trans (keeps_afterScan _ _ _)
  · exact h.trans (keeps_afterSession _ _ _)
  · exact Keeps.refl s

/-! ## The Setup Loader -/

theorem keeps_setPart (s : State) (p : PartState) (r : SetupResult) : Keeps s (s.setPart p r) := by
  have h : Keeps s { s with loader := { s.loader with part := p, result := r } } := keeps_loader s _ rfl
  exact keeps_ite _ (Keeps.refl s) (h.trans (keeps_raiseStatus _ _))

theorem keeps_endJob (s : State) : Keeps s s.endJob := (keeps_setJob s _).trans (keeps_startAtOnce _)
theorem keeps_pend (s : State) (k : RequestKind) : Keeps s (s.pend k) :=
  keeps_ite _ (Keeps.refl s) ((keeps_requests s _).trans (keeps_startAtOnce _))

theorem keeps_takeRequest (s : State) (k : RequestKind) : Keeps s (s.takeRequest k) := by
  unfold State.takeRequest
  split
  · exact Keeps.refl s
  · exact keeps_ite _ (keeps_pend s _) (Keeps.refl s)
  · exact keeps_pend s _
  · exact keeps_pend s _
  · exact keeps_ite _ (keeps_pend s _) (keeps_setResult s _)

theorem keeps_rewriteCalendar (s : State) : Keeps s s.rewriteCalendar := keeps_raiseWrite s _ _ _ _

theorem keeps_calendarTake (s : State) (cells : List (Nat × Byte)) : Keeps s (s.calendarTake cells) := by
  unfold State.calendarTake
  split
  · dsimp only
    split
    · exact keeps_rewriteCalendar s
    · rename_i d _
      split
      · have h : Keeps s { s with loader := { s.loader with today := some d } } := keeps_loader s _ rfl
        have h2 := h.trans (keeps_rewriteCalendar _)
        split
        · exact h2.trans (keeps_beginPass _ _)
        · exact h2
      · split
        · refine (keeps_rewriteCalendar s).trans (Keeps.trans ?_ (keeps_raiseStatus _ _))
          exact keeps_loader _ _ (by simp [State.rewriteCalendar])
        · exact keeps_rewriteCalendar s
  · exact Keeps.refl s

theorem keeps_setupHandOn (s : State) (r : Request) : Keeps s (s.setupHandOn r) := by
  unfold State.setupHandOn
  have h1 : Keeps s (if s.coversWord Config.calendarOff r then s.calendarTake (s.cells r) else s) :=
    keeps_ite _ (keeps_calendarTake s _) (Keeps.refl s)
  dsimp only
  refine h1.trans ?_
  generalize (if s.coversWord Config.calendarOff r then s.calendarTake (s.cells r) else s) = s1
  have h2 : Keeps s1 (if s.coversWord Config.applyOff r then s1.takeRequest .apply else s1) :=
    keeps_ite _ (keeps_takeRequest s1 _) (Keeps.refl s1)
  refine h2.trans ?_
  generalize (if s.coversWord Config.applyOff r then s1.takeRequest .apply else s1) = s2
  have h3 : Keeps s2 (if s.coversWord Config.formatOff r then s2.takeRequest .format else s2) :=
    keeps_ite _ (keeps_takeRequest s2 _) (Keeps.refl s2)
  refine h3.trans ?_
  exact keeps_ite _ (keeps_takeRequest _ _) (Keeps.refl _)

theorem keeps_handOn (s : State) (u : UpReq) : Keeps s (s.handOn u) :=
  (keeps_deskHandOn s u).trans (keeps_setupHandOn _ _)

theorem keeps_partRead (s : State) (k : RequestKind) (p : SetupPart) (b : Memory) (d : List Byte) :
    Keeps s (s.partRead k p b d) := by
  unfold State.partRead
  split
  · exact keeps_readPart s _ _ _
  · split
    · exact (keeps_setResult s _).trans (keeps_endJob _)
    · exact keeps_setJob s _

theorem keeps_partFailed (s : State) : Keeps s s.partFailed :=
  (keeps_storeFault s).trans ((keeps_setResult _ _).trans (keeps_endJob _))

theorem keeps_cutCurrent (s : State) (c : CutCause) : Keeps s (s.cutCurrent c) := keeps_engine s _

theorem keeps_cutStream (s : State) (n : StreamId) (c : CutCause) : Keeps s (s.cutStream n c) := by
  unfold State.cutStream
  split
  · exact Keeps.refl s
  · exact (keeps_endBatch s n).trans (keeps_answerFresh _ _ _ _ _)
  · exact (keeps_leaveQueue s n).trans ((keeps_endBatch _ n).trans (keeps_answerFresh _ _ _ _ _))
  · exact keeps_cutCurrent s c

theorem gentle_reload (e : Bool) : Gentle (fun t : Stream => t.reload e) := by
  constructor
  · intro t h
    unfold Stream.reload
    split
    · split
      · exact ⟨h.1, h.2.1, Nat.zero_le _⟩
      · exact h
    · exact ⟨h.1, h.2.1, Nat.zero_le _⟩
  · intro t p h
    revert h
    unfold Stream.reload
    split
    · split <;> intro h
      · simp at h
      · exact h
    · intro h; simp at h

theorem keeps_loadStream (old s : State) (n : StreamId) : Keeps s (State.loadStream old s n) := by
  unfold State.loadStream
  have h1 : Keeps s (s.updStream n (fun t => t.reload (s.enabled n))) := keeps_updStream s n (gentle_reload _)
  dsimp only
  refine h1.trans ?_
  generalize s.updStream n (fun t => t.reload (s.enabled n)) = s1
  have h2 : Keeps s1 (if s1.sessionWord n = old.sessionWord n then s1 else s1.raiseSession n) :=
    keeps_ite _ (Keeps.refl s1) (keeps_raiseSession s1 n _)
  split
  · exact h2.trans (keeps_cutStream _ _ _)
  · exact h2

theorem keeps_loadTables (s : State) (u : Setup) : Keeps s (s.loadTables u) := by
  have h : Keeps s { s with loader := { s.loader with inForce := some u } } := keeps_loader s _ rfl
  exact h.trans ((Keeps.foldl _ (fun t n => keeps_loadStream s t n) _ _).trans (keeps_expireDue _))

theorem keeps_applyAccepted (s : State) (u : Setup) : Keeps s (s.applyAccepted u) :=
  keeps_ite _ ((keeps_setPart s _ _).trans (keeps_startupRead _ _ _ _))
    ((keeps_loadTables s u).trans ((keeps_setResult _ _).trans (keeps_endJob _)))

theorem gentle_warm : Gentle (fun t : Stream =>
    { t with session := if t.session = .off then .off else .vacant, checkFails := 0, guardHits := 0 }) := by
  refine ⟨fun _ h => ⟨h.1, Nat.zero_le _, Nat.zero_le _⟩, ?_⟩
  intro t p h
  revert h
  dsimp only
  split <;> intro h <;> simp at h

theorem keeps_warmStream (s : State) (n : StreamId) : Keeps s (s.warmStream n) :=
  (keeps_updStream s n gentle_warm).trans ((keeps_raiseSession _ n none).trans (keeps_cutStream _ n .warmReset))

theorem keeps_warmResetNow (s : State) : Keeps s s.warmResetNow :=
  (keeps_requests s _).trans ((Keeps.foldl _ keeps_warmStream _ _).trans (keeps_startAtOnce _))

/-! ## Format -/

theorem keeps_formatWrite (s : State) (f : Formatting) : Keeps s (s.formatWrite f) :=
  (keeps_setJob s _).trans (keeps_raiseWrite _ _ _ _ _)

theorem keeps_releaseAnswers (s : State) : Keeps s s.releaseAnswers := by
  have h : ∀ p : Path, Keeps s { s with path := p } := fun _ => Keeps.of_eq rfl rfl rfl rfl rfl rfl
  exact (h _).trans (keeps_refillOwn _)

theorem keeps_discardCollecting (s : State) : Keeps s s.discardCollecting := by
  refine Keeps.foldl _ ?_ _ s
  intro t n
  exact keeps_ite _ (keeps_endBatch t n) (Keeps.refl t)

theorem keeps_emptyAnswers (s : State) : Keeps s s.emptyAnswers := by
  refine Keeps.foldl _ ?_ _ s
  intro t n
  exact keeps_setAnswer t n .empty

theorem keeps_formatAccepted (s : State) (u : Setup) : Keeps s (s.formatAccepted u) := by
  have h : ∀ (t : State) (x : Sweep), Keeps t { t with sweep := x } := fun _ _ => Keeps.of_eq rfl rfl rfl rfl rfl rfl
  unfold State.formatAccepted
  dsimp only
  have h1 : Keeps s (s.discardCollecting.loadTables u).emptyAnswers :=
    (keeps_discardCollecting s).trans ((keeps_loadTables _ u).trans (keeps_emptyAnswers _))
  revert h1
  generalize (s.discardCollecting.loadTables u).emptyAnswers = s1
  intro h1
  refine h1.trans ((h s1 _).trans ((keeps_setPart _ _ _).trans (keeps_formatWrite _ _)))

theorem keeps_formatDone (s : State) : Keeps s s.formatDone := by
  unfold State.formatDone
  have h : Keeps s ((s.setJob .idle).releaseAnswers.setPart .ready s.loader.result) :=
    (keeps_setJob s _).trans ((keeps_releaseAnswers _).trans (keeps_setPart _ _ _))
  exact h.trans (keeps_ite _ (keeps_beginPass _ _) (Keeps.refl _))

theorem keeps_formatFails (s : State) : Keeps s s.formatFails :=
  (keeps_setJob s _).trans ((keeps_releaseAnswers _).trans ((keeps_setPart _ _ _).trans (keeps_endJob _)))

theorem keeps_formatWritten (s : State) (f : Formatting) (ok : Bool) : Keeps s (s.formatWritten f ok) := by
  unfold State.formatWritten
  split
  · split
    · exact (keeps_setJob s _).trans ((keeps_releaseAnswers _).trans (keeps_formatWrite _ _))
    · exact keeps_formatDone s
  · exact keeps_ite _ ((keeps_storeFault s).trans (keeps_formatFails _))
      ((keeps_storeFault s).trans (keeps_formatWrite _ _))

end Sys2Proof.Machine
end

