-- ==== Sys2Proof/Laws/KeepsUnits.lean ====
section
/-! SUPPORT. What the boundary, the gather, the decides and the traffic on the path keep; only an answered write changes memory. -/

namespace Sys2Proof.Machine

/-! ## Boundary and gather -/

theorem keeps_setTurn (s : State) (t : Turn) : Keeps s (s.setTurn t) := keeps_engine s _

theorem keeps_takeBatch (s : State) : Keeps s s.takeBatch := by
  unfold State.takeBatch
  split
  · exact Keeps.refl s
  · rename_i n q _
    have h : Keeps s { s with
        queue := q
        engine := { s.engine with batch := some ⟨n, 0, false, .none, [], none⟩ } } :=
      Keeps.of_eq rfl rfl rfl rfl rfl rfl
    exact h.trans ((keeps_updStream _ n (f := fun t => { t with batch := .settling, answer := .working })
      (gentle_of_eq (fun _ => rfl) (fun _ => rfl) (fun _ => rfl) (fun _ => rfl))).trans (keeps_raise _ _ _ _ _))

theorem keeps_decideUnit (s : State) (k : UnitKind) (b : CurrentBatch) (c : Nat) : Keeps s (s.decideUnit k b c) :=
  keeps_setUnit s _

theorem keeps_refuseEntry (s : State) (b : CurrentBatch) (c : OutcomeCode) : Keeps s (s.refuseEntry b c) := by
  unfold State.refuseEntry
  split
  · exact keeps_conclude s _ _ _ _ _
  · exact Keeps.refl s

theorem keeps_beginEntry (s : State) (b : CurrentBatch) : Keeps s (s.beginEntry b) := by
  unfold State.beginEntry
  dsimp only
  split
  · exact keeps_decideUnit s _ _ _
  · split
    · exact keeps_decideUnit s _ _ _
    · split
      · exact keeps_beginUnit s _ _ _ _
      · exact keeps_refuseEntry s _ _

theorem keeps_batchUnit (s : State) (b : CurrentBatch) : Keeps s (s.batchUnit b) := by
  unfold State.batchUnit
  split
  · exact keeps_beginEntry s b
  · exact keeps_beginUnit s _ _ _ _
  · exact keeps_ite _ (keeps_decideUnit s _ _ _) (keeps_beginUnit s _ _ _ _)

theorem keeps_batchTurn (s : State) : Keeps s s.batchTurn := by
  unfold State.batchTurn
  have h1 := keeps_setTurn s .batch
  have h2 : Keeps (s.setTurn .batch) (if (s.setTurn .batch).engine.batch.isSome then s.setTurn .batch
      else (s.setTurn .batch).takeBatch) := keeps_ite _ (Keeps.refl _) (keeps_takeBatch _)
  dsimp only
  split
  · exact h1.trans (h2.trans (keeps_batchUnit _ _))
  · exact h1.trans h2

theorem keeps_sweepTurn (s : State) : Keeps s s.sweepTurn := by
  unfold State.sweepTurn
  split
  · exact (keeps_setTurn s _).trans (keeps_beginUnit _ _ _ _ _)
  · exact Keeps.refl s

theorem keeps_chooseUnit (s : State) : Keeps s s.chooseUnit :=
  keeps_ite _ (keeps_ite _ (keeps_sweepTurn s) (keeps_batchTurn s)) (keeps_ite _ (keeps_batchTurn s) (keeps_sweepTurn s))

theorem keeps_boundary (s : State) : Keeps s s.boundary := by
  unfold State.boundary
  split
  · exact Keeps.refl s
  · split
    · exact keeps_startRequest s
    · split
      · exact (keeps_setTurn s _).trans (keeps_decideUnit _ _ _ _)
      · exact keeps_chooseUnit s

theorem keeps_gatherAnswered (s : State) (d : IssuedOwn → Option (List Byte)) : Keeps s (s.gatherAnswered d) := by
  unfold State.gatherAnswered
  split
  · split
    · split
      · exact (keeps_dropOwn s _).trans (keeps_gatherStep _ _ _)
      · exact (keeps_dropOwn s _).trans (keeps_abandon _ _ _)
    · exact Keeps.refl s
  · exact Keeps.refl s

/-! ## Decides -/

theorem keeps_decideClaim (s : State) : Keeps s s.decideClaim := by
  unfold State.decideClaim
  split
  · exact Keeps.refl s
  · dsimp only
    split
    · exact keeps_conclude s _ _ _ _ _
    · exact keeps_ite _ ((keeps_claimRequest s _ _).trans (keeps_conclude _ _ _ _ _ _))
        ((keeps_claimRequest s _ _).trans (keeps_conclude _ _ _ _ _ _))

theorem keeps_decideRelease (s : State) : Keeps s s.decideRelease := by
  unfold State.decideRelease
  split
  · exact Keeps.refl s
  · exact (keeps_makeVacant s _).trans (keeps_conclude _ _ _ _ _ _)

theorem keeps_decideReopen (s : State) : Keeps s s.decideReopen := by
  unfold State.decideReopen
  split
  · exact Keeps.refl s
  · dsimp only
    split
    · split
      · exact (keeps_reopen s _).trans (keeps_conclude _ _ _ _ _ _)
      · exact keeps_conclude s _ _ _ _ _
    · exact keeps_conclude s _ _ _ _ _

theorem keeps_concludeRenewal (s : State) (u : WorkUnit) (b : CurrentBatch) (x : Setup) (r : RenewProgress) :
    Keeps s (s.concludeRenewal u b x r) := keeps_conclude s _ _ _ _ _

theorem keeps_decideRenewSet (s : State) : Keeps s s.decideRenewSet := by
  unfold State.decideRenewSet
  split
  · exact Keeps.refl s
  · dsimp only
    split
    · exact keeps_conclude s _ _ _ _ _
    · exact keeps_ite _ (keeps_conclude s _ _ _ _ _) (keeps_concludeRenewal s _ _ _ _)

theorem keeps_decideRenewalSub (s : State) : Keeps s s.decideRenewalSub := by
  unfold State.decideRenewalSub
  split
  · exact Keeps.refl s
  · split
    · exact keeps_concludeRenewal s _ _ _ _
    · exact Keeps.refl s

theorem keeps_decideClosing (s : State) : Keeps s s.decideClosing := by
  unfold State.decideClosing
  split
  · exact Keeps.refl s
  · split
    · exact keeps_conclude s _ _ _ _ _
    · exact Keeps.refl s

theorem keeps_decideFreshenSub (s : State) : Keeps s s.decideFreshenSub := by
  unfold State.decideFreshenSub
  split
  · exact Keeps.refl s
  · split
    · exact keeps_conclude s _ _ _ _ _
    · exact Keeps.refl s

theorem keeps_decideSkip (s : State) : Keeps s s.decideSkip := by
  unfold State.decideSkip
  split
  · exact Keeps.refl s
  · exact keeps_conclude s _ _ _ _ _

theorem keeps_decideEnd (s : State) : Keeps s s.decideEnd := by
  unfold State.decideEnd
  split
  · exact Keeps.refl s
  · exact keeps_startNote s _ _ _

theorem keeps_decideFault (s : State) : Keeps s s.decideFault := by
  unfold State.decideFault
  split
  · exact Keeps.refl s
  · split
    · exact keeps_conclude s _ _ _ _ _
    · exact Keeps.refl s

theorem keeps_decideSweepFreshen (s : State) : Keeps s s.decideSweepFreshen := by
  unfold State.decideSweepFreshen
  split
  · exact keeps_ite _ (Keeps.refl s) (keeps_concludeSweep s _ _ _ _)
  · exact Keeps.refl s

theorem keeps_decideSweepExpiry (s : State) : Keeps s s.decideSweepExpiry := by
  unfold State.decideSweepExpiry
  split
  · exact keeps_ite _ (Keeps.refl s) (keeps_concludeSweep s _ _ _ _)
  · exact Keeps.refl s

theorem keeps_decideSweepResume (s : State) : Keeps s s.decideSweepResume := by
  unfold State.decideSweepResume
  split
  · exact keeps_concludeSweep s _ _ _ _
  · exact Keeps.refl s

theorem keeps_decideSweepProgress (s : State) : Keeps s s.decideSweepProgress := by
  unfold State.decideSweepProgress
  split
  · exact keeps_writeNote s _
  · exact Keeps.refl s

/-! ## The path -/

theorem keeps_takeUpstream (s : State) (r : Request) : Keeps s (s.takeUpstream r) := by
  unfold State.takeUpstream
  have h := keeps_enter s r
  dsimp only
  split
  · exact h.trans (keeps_complete _ _ _)
  · exact h.trans (keeps_ite _ (keeps_holdStartup _ _) (keeps_admitReq _ _))

theorem keeps_grant (s : State) : Keeps s s.grant := by
  unfold State.grant
  split
  · exact keeps_ite _ (keeps_issueUp s _) (keeps_issueOwn s _)
  · exact keeps_issueUp s _
  · exact keeps_issueOwn s _
  · exact Keeps.refl s

theorem keeps_respond (s : State) (t : Nat) : Keeps s (s.respond t) :=
  keeps_ite _ (Keeps.refl s) ((keeps_complete s _ _).trans (keeps_drain _))

/-- Setting memory changes none of the other pieces `Keeps` speaks of. -/
theorem keeps_setMem (s t : State) (h : Keeps s t) (m : Memory) : Keeps { s with mem := m } { t with mem := m } :=
  ⟨rfl, h.inReset, h.base, h.pending, h.settled, h.bounded, h.claims, h.faults⟩

end Sys2Proof.Machine
end

