-- ==== Sys2Proof/Laws/Responses.lean ====
section
/-! SUPPORT. The return of responses: each stream's in the order its requests were accepted (R17). -/

namespace Sys2Proof.Machine

/-- Of a stream that an earlier request blocks nothing is returned. -/
theorem splitReady_blocked (n : StreamId) : ∀ (os : List Outstanding) (b : List StreamId), n ∈ b →
    (splitReady os b).1.filter (fun x => decide (x.stream = n)) = [] ∧
    (splitReady os b).2.filter (fun o => decide (o.stream = n)) = os.filter (fun o => decide (o.stream = n))
  | [], b, _ => by simp [splitReady]
  | o :: os, b, h => by
    have h1 := splitReady_blocked n os b h
    have h2 := splitReady_blocked n os (o.stream :: b) (List.mem_cons_of_mem _ h)
    cases ha : o.answer with
    | none => simp only [splitReady, ha, List.filter_cons, h2]; simp
    | some a =>
      by_cases hb : o.stream ∈ b
      · simp only [splitReady, ha, hb, if_true, List.filter_cons, h1]; simp
      · have : o.stream ≠ n := fun e => hb (e ▸ h)
        simp only [splitReady, ha, hb, if_false, List.filter_cons, h1, this]; simp

/-- Of a stream that is not blocked the requests before the first without a response are returned, in their order. -/
theorem splitReady_stream (n : StreamId) : ∀ (os : List Outstanding) (b : List StreamId), n ∉ b →
    ∃ pre post : List Outstanding, os.filter (fun o => decide (o.stream = n)) = pre ++ post ∧
      (splitReady os b).2.filter (fun o => decide (o.stream = n)) = post ∧
      (∀ o ∈ pre, o.answer.isSome = true) ∧ (∀ o : Outstanding, post.head? = some o → o.answer = none) ∧
      (splitReady os b).1.filter (fun x => decide (x.stream = n)) =
        pre.filterMap (fun o => o.answer.map (fun a => (⟨o.tag, o.stream, a⟩ : Returned)))
  | [], b, _ => ⟨[], [], by simp [splitReady]⟩
  | o :: os, b, h => by
    cases ha : o.answer with
    | none =>
      by_cases hn : o.stream = n
      · have h2 := splitReady_blocked n os (o.stream :: b) (by simp [hn])
        refine ⟨[], o :: os.filter (fun o => decide (o.stream = n)), ?_⟩
        simp only [splitReady, ha, List.filter_cons, h2]; simp [hn, ha]
      · obtain ⟨pre, post, h1, h2, h3, h4, h5⟩ := splitReady_stream n os (o.stream :: b) (by simp [Ne.symm hn, h])
        refine ⟨pre, post, ?_⟩
        simp only [splitReady, ha, List.filter_cons, h1, h2, h5]; simp [hn]; exact ⟨h3, h4⟩
    | some a =>
      obtain ⟨pre, post, h1, h2, h3, h4, h5⟩ := splitReady_stream n os b h
      by_cases hb : o.stream ∈ b
      · have hn : o.stream ≠ n := fun e => h (e ▸ hb)
        refine ⟨pre, post, ?_⟩
        simp only [splitReady, ha, hb, if_true, List.filter_cons, h1, h2, h5]; simp [hn]; exact ⟨h3, h4⟩
      · by_cases hn : o.stream = n
        · refine ⟨o :: pre, post, ?_⟩
          simp only [splitReady, ha, hb, if_false, List.filter_cons, h1, h2, h5]
          simp [hn, ha]; exact ⟨h3, h4⟩
        · refine ⟨pre, post, ?_⟩
          simp only [splitReady, ha, hb, if_false, List.filter_cons, h1, h2, h5]; simp [hn]; exact ⟨h3, h4⟩

/-- An answered request is returned, or kept behind an earlier request of its stream that has no response. -/
theorem splitReady_answered (o : Outstanding) (a : UpAnswer) (ha : o.answer = some a) :
    ∀ (os : List Outstanding) (b : List StreamId), o ∈ os →
      (⟨o.tag, o.stream, a⟩ : Returned) ∈ (splitReady os b).1 ∨
        (o ∈ (splitReady os b).2 ∧ (o.stream ∈ b ∨
          ∃ p ∈ (splitReady os b).2.takeWhile (fun p => decide (p ≠ o)), p.stream = o.stream ∧ p.answer = none))
  | q :: os, b, h => by
    cases hq : q.answer with
    | none =>
      have hne : q ≠ o := by rintro rfl; simp [hq] at ha
      have ho : o ∈ os := by simpa [Ne.symm hne] using h
      simp only [splitReady, hq]
      rcases splitReady_answered o a ha os (q.stream :: b) ho with h1 | ⟨h1, h2⟩
      · exact .inl h1
      · refine .inr ⟨List.mem_cons_of_mem _ h1, ?_⟩
        simp only [List.takeWhile_cons, hne, ne_eq, not_false_eq_true, decide_true, if_true, List.mem_cons] at h2 ⊢
        rcases h2 with (h2 | h2) | ⟨p, hp, h3⟩
        · exact .inr ⟨q, .inl rfl, h2.symm, hq⟩
        · exact .inl h2
        · exact .inr ⟨p, .inr hp, h3⟩
    | some c =>
      by_cases hb : q.stream ∈ b
      · simp only [splitReady, hq, hb, if_true]
        by_cases hne : q = o
        · subst hne; exact .inr ⟨List.mem_cons_self, .inl hb⟩
        · have ho : o ∈ os := by simpa [Ne.symm hne] using h
          rcases splitReady_answered o a ha os b ho with h1 | ⟨h1, h2⟩
          · exact .inl h1
          · refine .inr ⟨List.mem_cons_of_mem _ h1, ?_⟩
            simp only [List.takeWhile_cons, hne, ne_eq, not_false_eq_true, decide_true, if_true, List.mem_cons]
            rcases h2 with h2 | ⟨p, hp, h3⟩
            · exact .inl h2
            · exact .inr ⟨p, .inr hp, h3⟩
      · simp only [splitReady, hq, hb, if_false]
        by_cases hne : q = o
        · subst hne; rw [ha] at hq; cases hq; exact .inl List.mem_cons_self
        · have ho : o ∈ os := by simpa [Ne.symm hne] using h
          rcases splitReady_answered o a ha os b ho with h1 | h1
          · exact .inl (List.mem_cons_of_mem _ h1)
          · exact .inr h1

/-- An answered request has its response after a flush. -/
theorem answered_flush (s : State) (o : Outstanding) (a : UpAnswer) (ho : o ∈ s.path.outstanding) (ha : o.answer = some a) :
    Answered s.flush o.tag a := by
  rcases splitReady_answered o a ha s.path.outstanding [] ho with h | ⟨h, h2⟩
  · exact .inl ⟨_, List.mem_append_right _ h, rfl, rfl⟩
  · exact .inr ⟨o, h, rfl, ha, by simpa [State.flush] using h2⟩

/-- A request completed has its response. -/
theorem answered_complete (s : State) (tag : Nat) (a : UpAnswer) (h : ∃ o ∈ s.path.outstanding, o.tag = tag) :
    Answered (s.complete tag a) tag a := by
  obtain ⟨o, ho, rfl⟩ := h
  exact answered_flush _ { o with answer := some a } a (List.mem_map.mpr ⟨o, ho, by simp⟩) rfl

end Sys2Proof.Machine
end

