-- ==== Sys2Proof/Laws/Work.lean ====
section
/-! SUPPORT. Reading a unit's records after a change of one of them. -/

namespace Sys2Proof.Machine

/-- The list holds the new image for its target, and what it held for every other. -/
theorem imageOf_putImage (gs : List Image) (g : Image) (t : Target) :
    imageOf (putImage gs g) t = if g.target = t then some g else imageOf gs t := by
  have hmap : ∀ l : List Image, imageOf (l.map (fun x => if x.target = g.target then g else x)) t =
      if g.target = t then (if l.any (fun x => decide (x.target = g.target)) then some g else none)
      else imageOf l t := by
    intro l
    induction l with
    | nil => simp [imageOf]
    | cons x l ih =>
      unfold imageOf at ih ⊢
      by_cases hx : x.target = g.target
      · by_cases ht : g.target = t
        · simp [hx, ht]
        · have hxt : ¬ x.target = t := by rw [hx]; exact ht
          simp only [List.map_cons, if_pos hx, List.find?_cons, if_neg ht, decide_eq_false ht, decide_eq_false hxt] at ih ⊢
          exact ih
      · by_cases ht : g.target = t
        · have hxt : ¬ x.target = t := by rw [← ht]; exact hx
          simp only [List.map_cons, if_neg hx, List.find?_cons, decide_eq_false hxt, if_pos ht, List.any_cons,
            decide_eq_false hx, Bool.false_or] at ih ⊢
          exact ih
        · by_cases hxt : x.target = t
          · simp only [List.map_cons, if_neg hx, List.find?_cons, decide_eq_true hxt, if_neg ht]
          · simp only [List.map_cons, if_neg hx, List.find?_cons, decide_eq_false hxt, if_neg ht] at ih ⊢
            exact ih
  unfold putImage
  split
  · rename_i h; rw [hmap]; simp [h]
  · rename_i h
    have hno : ∀ x ∈ gs, x.target ≠ g.target := by simpa using h
    unfold imageOf
    rw [List.find?_append]
    by_cases ht : g.target = t
    · have : gs.find? (fun x => decide (x.target = t)) = none := by
        rw [List.find?_eq_none]; intro x hx; simpa [← ht] using hno x hx
      simp [this, ht]
    · simp [ht]

/-- The images of a list after one is put: the new one, or one that was there for another target. -/
theorem mem_putImage {gs : List Image} {g x : Image} (h : x ∈ putImage gs g) :
    x = g ∨ (x ∈ gs ∧ x.target ≠ g.target) := by
  unfold putImage at h
  split at h
  · rw [List.mem_map] at h
    obtain ⟨y, hy, rfl⟩ := h
    by_cases hyg : y.target = g.target
    · left; simp [hyg]
    · right; simp [hyg, hy]
  · rename_i hno
    have hno : ∀ y ∈ gs, y.target ≠ g.target := by simpa using hno
    rcases List.mem_append.1 h with h | h
    · exact Or.inr ⟨h, hno x h⟩
    · left; simpa using h

/-! ## What a unit writes absent (R24) -/

@[simp] theorem written_written_item (c : Item) : c.written.written = c.written := by
  rcases h : c.state <;> simp [Item.written, h]
@[simp] theorem written_written_hold (x : Hold) : x.written.written = x.written := by
  rcases h : x.state <;> simp [Hold.written, h]
@[simp] theorem item_written_state (c : Item) : c.written.state = c.state := by
  rcases h : c.state <;> simp [Item.written, h]
@[simp] theorem hold_written_state (x : Hold) : x.written.state = x.state := by
  rcases h : x.state <;> simp [Hold.written, h]
@[simp] theorem item_written_loc (c : Item) : c.written.loc = c.loc := by
  rcases h : c.state <;> simp [Item.written, h]
@[simp] theorem hold_written_next (x : Hold) : x.written.next = x.next := by
  rcases h : x.state <;> simp [Hold.written, h]
@[simp] theorem leftAvailable_written (c : Item) : c.leftAvailable.written = c.leftAvailable := rfl
@[simp] theorem setAsideFor_written (c : Item) (h : Nat) : (c.setAsideFor h).written = c.setAsideFor h := rfl
@[simp] theorem trapped_written (x : Hold) (c : Nat) (here : Bool) (d : Nat) :
    (x.trapped c here d).written = x.trapped c here d := by cases here <;> rfl
@[simp] theorem freeForm_written (n : Option Nat) : (Hold.freeForm n).written = Hold.freeForm n := rfl

/-! ## What a change of a record leaves -/

section
variable (w : Work) (i j : Nat)

@[simp] theorem setPatron_setup (p : Patron) : (w.setPatron i p).setup = w.setup := by unfold Work.setPatron; split <;> rfl
@[simp] theorem setTitle_setup (t : Title) : (w.setTitle i t).setup = w.setup := by unfold Work.setTitle; split <;> rfl
@[simp] theorem setItem_setup (c : Item) : (w.setItem i c).setup = w.setup := by unfold Work.setItem; split <;> rfl
@[simp] theorem setHold_setup (h : Hold) : (w.setHold i h).setup = w.setup := by unfold Work.setHold; split <;> rfl
@[simp] theorem setSum_setup (f : Summary → Summary) : (w.setSum f).setup = w.setup := rfl
@[simp] theorem setPatron_gathered (p : Patron) : (w.setPatron i p).gathered = w.gathered := by
  unfold Work.setPatron; split <;> rfl
@[simp] theorem setTitle_gathered (t : Title) : (w.setTitle i t).gathered = w.gathered := by
  unfold Work.setTitle; split <;> rfl
@[simp] theorem setItem_gathered (c : Item) : (w.setItem i c).gathered = w.gathered := by
  unfold Work.setItem; split <;> rfl
@[simp] theorem setHold_gathered (h : Hold) : (w.setHold i h).gathered = w.gathered := by
  unfold Work.setHold; split <;> rfl
@[simp] theorem setSum_gathered (f : Summary → Summary) : (w.setSum f).gathered = w.gathered := rfl
@[simp] theorem setPatron_sum (p : Patron) : (w.setPatron i p).sum = w.sum := by unfold Work.setPatron; split <;> rfl
@[simp] theorem setTitle_sum (t : Title) : (w.setTitle i t).sum = w.sum := by unfold Work.setTitle; split <;> rfl
@[simp] theorem setItem_sum (c : Item) : (w.setItem i c).sum = w.sum := by unfold Work.setItem; split <;> rfl
@[simp] theorem setHold_sum (h : Hold) : (w.setHold i h).sum = w.sum := by unfold Work.setHold; split <;> rfl
@[simp] theorem setSum_sum (f : Summary → Summary) : (w.setSum f).sum = f w.sum := rfl
@[simp] theorem setSum_images (f : Summary → Summary) : (w.setSum f).images = w.images := rfl
@[simp] theorem setPatron_fresh (p : Patron) : (w.setPatron i p).fresh = w.fresh := by unfold Work.setPatron; split <;> rfl
@[simp] theorem setTitle_fresh (t : Title) : (w.setTitle i t).fresh = w.fresh := by unfold Work.setTitle; split <;> rfl
@[simp] theorem setItem_fresh (c : Item) : (w.setItem i c).fresh = w.fresh := by unfold Work.setItem; split <;> rfl
@[simp] theorem setHold_fresh (h : Hold) : (w.setHold i h).fresh = w.fresh := by unfold Work.setHold; split <;> rfl
@[simp] theorem setSum_fresh (f : Summary → Summary) : (w.setSum f).fresh = w.fresh := rfl

/-- The images a set leaves for a target. -/
theorem imageOf_setPatron (p : Patron) (t : Target) (h : t ≠ .record .patrons i) :
    imageOf (w.setPatron i p).images t = imageOf w.images t := by
  unfold Work.setPatron; split
  · rfl
  · rw [imageOf_putImage, if_neg (fun e => h e.symm)]
theorem imageOf_setTitle (p : Title) (t : Target) (h : t ≠ .record .titles i) :
    imageOf (w.setTitle i p).images t = imageOf w.images t := by
  unfold Work.setTitle; split
  · rfl
  · rw [imageOf_putImage, if_neg (fun e => h e.symm)]
theorem imageOf_setItem (p : Item) (t : Target) (h : t ≠ .record .items i) :
    imageOf (w.setItem i p).images t = imageOf w.images t := by
  unfold Work.setItem; split
  · rfl
  · rw [imageOf_putImage, if_neg (fun e => h e.symm)]
theorem imageOf_setHold (p : Hold) (t : Target) (h : t ≠ .record .holds i) :
    imageOf (w.setHold i p).images t = imageOf w.images t := by
  unfold Work.setHold; split
  · rfl
  · rw [imageOf_putImage, if_neg (fun e => h e.symm)]
end

/-- Reading the same image list over the same gathered records. -/
theorem patron_congr {w v : Work} (i : Nat) (h1 : imageOf w.images (.record .patrons i) = imageOf v.images (.record .patrons i))
    (h2 : w.gathered = v.gathered) : w.patron i = v.patron i := by
  unfold Work.patron Work.gatheredPatron Work.raw; rw [h1, h2]
theorem title_congr {w v : Work} (i : Nat) (h1 : imageOf w.images (.record .titles i) = imageOf v.images (.record .titles i))
    (h2 : w.gathered = v.gathered) : w.title i = v.title i := by
  unfold Work.title Work.gatheredTitle Work.raw; rw [h1, h2]
theorem item_congr {w v : Work} (i : Nat) (h1 : imageOf w.images (.record .items i) = imageOf v.images (.record .items i))
    (h2 : w.gathered = v.gathered) : w.item i = v.item i := by
  unfold Work.item Work.gatheredItem Work.raw; rw [h1, h2]
theorem hold_congr {w v : Work} (i : Nat) (h1 : imageOf w.images (.record .holds i) = imageOf v.images (.record .holds i))
    (h2 : w.gathered = v.gathered) : w.hold i = v.hold i := by
  unfold Work.hold Work.gatheredHold Work.raw; rw [h1, h2]

section
variable (w : Work) (i j : Nat)

@[simp] theorem patron_setPatron (p : Patron) : (w.setPatron i p).patron j = if i = j then p else w.patron j := by
  by_cases h : i = j
  · subst h
    unfold Work.setPatron
    split
    · rename_i hp; simp [hp]
    · simp [Work.patron, imageOf_putImage, Image.target]
  · rw [if_neg h]
    exact patron_congr j (imageOf_setPatron w i p _ (fun e => h (by injection e with _ e; exact e.symm))) (by simp)
@[simp] theorem title_setTitle (p : Title) : (w.setTitle i p).title j = if i = j then p else w.title j := by
  by_cases h : i = j
  · subst h
    unfold Work.setTitle
    split
    · rename_i hp; simp [hp]
    · simp [Work.title, imageOf_putImage, Image.target]
  · rw [if_neg h]
    exact title_congr j (imageOf_setTitle w i p _ (fun e => h (by injection e with _ e; exact e.symm))) (by simp)
@[simp] theorem item_setItem (p : Item) : (w.setItem i p).item j = if i = j then p.written else w.item j := by
  by_cases h : i = j
  · subst h
    unfold Work.setItem
    split
    · rename_i hp; simp [hp]
    · simp [Work.item, imageOf_putImage, Image.target]
  · rw [if_neg h]
    exact item_congr j (imageOf_setItem w i p _ (fun e => h (by injection e with _ e; exact e.symm))) (by simp)
@[simp] theorem hold_setHold (p : Hold) : (w.setHold i p).hold j = if i = j then p.written else w.hold j := by
  by_cases h : i = j
  · subst h
    unfold Work.setHold
    split
    · rename_i hp; simp [hp]
    · simp [Work.hold, imageOf_putImage, Image.target]
  · rw [if_neg h]
    exact hold_congr j (imageOf_setHold w i p _ (fun e => h (by injection e with _ e; exact e.symm))) (by simp)

@[simp] theorem patron_setTitle (p : Title) : (w.setTitle i p).patron j = w.patron j :=
  patron_congr j (imageOf_setTitle w i p _ (by simp)) (by simp)
@[simp] theorem patron_setItem (p : Item) : (w.setItem i p).patron j = w.patron j :=
  patron_congr j (imageOf_setItem w i p _ (by simp)) (by simp)
@[simp] theorem patron_setHold (p : Hold) : (w.setHold i p).patron j = w.patron j :=
  patron_congr j (imageOf_setHold w i p _ (by simp)) (by simp)
@[simp] theorem title_setPatron (p : Patron) : (w.setPatron i p).title j = w.title j :=
  title_congr j (imageOf_setPatron w i p _ (by simp)) (by simp)
@[simp] theorem title_setItem (p : Item) : (w.setItem i p).title j = w.title j :=
  title_congr j (imageOf_setItem w i p _ (by simp)) (by simp)
@[simp] theorem title_setHold (p : Hold) : (w.setHold i p).title j = w.title j :=
  title_congr j (imageOf_setHold w i p _ (by simp)) (by simp)
@[simp] theorem item_setPatron (p : Patron) : (w.setPatron i p).item j = w.item j :=
  item_congr j (imageOf_setPatron w i p _ (by simp)) (by simp)
@[simp] theorem item_setTitle (p : Title) : (w.setTitle i p).item j = w.item j :=
  item_congr j (imageOf_setTitle w i p _ (by simp)) (by simp)
@[simp] theorem item_setHold (p : Hold) : (w.setHold i p).item j = w.item j :=
  item_congr j (imageOf_setHold w i p _ (by simp)) (by simp)
@[simp] theorem hold_setPatron (p : Patron) : (w.setPatron i p).hold j = w.hold j :=
  hold_congr j (imageOf_setPatron w i p _ (by simp)) (by simp)
@[simp] theorem hold_setTitle (p : Title) : (w.setTitle i p).hold j = w.hold j :=
  hold_congr j (imageOf_setTitle w i p _ (by simp)) (by simp)
@[simp] theorem hold_setItem (p : Item) : (w.setItem i p).hold j = w.hold j :=
  hold_congr j (imageOf_setItem w i p _ (by simp)) (by simp)

@[simp] theorem patron_setSum (f : Summary → Summary) : (w.setSum f).patron j = w.patron j := rfl
@[simp] theorem title_setSum (f : Summary → Summary) : (w.setSum f).title j = w.title j := rfl
@[simp] theorem item_setSum (f : Summary → Summary) : (w.setSum f).item j = w.item j := rfl
@[simp] theorem hold_setSum (f : Summary → Summary) : (w.setSum f).hold j = w.hold j := rfl
end

end Sys2Proof.Machine
end

