-- ==== Sys2Proof/Laws/Units.lean ====
section
/-! SUPPORT. What raising a request, beginning a note and concluding a unit do, and what the changes of a unit's records add up to. -/

namespace Sys2Proof.Machine

/-! ## Raising -/

theorem mem_ownWaiting_refillOwn {s : State} {q : OwnReq} (h : q ∈ s.ownWaiting) : q ∈ s.refillOwn.ownWaiting := by
  unfold State.refillOwn
  split
  · rename_i q' qs h1 h2
    simp only [State.ownWaiting, h1, h2, Option.toList_none, List.append_nil, List.mem_append, List.mem_cons,
      Option.toList_some, List.not_mem_nil, or_false] at h ⊢
    tauto
  · exact h

@[simp] theorem countAnswer_ownWaiting (s : State) (t : OwnTag) : (s.countAnswer t).ownWaiting = s.ownWaiting := by
  simp [State.ownWaiting]

/-- A raised request stands among those not yet answered. -/
theorem awaits_raise (s : State) (t : OwnTag) (o : Nat) (b : OwnBody) (h : Option Nat) : Awaits (s.raise t o b h) t o b := by
  refine ⟨s.newOwn t o b h, ?_, rfl, ?_, rfl⟩
  · unfold State.raise
    apply mem_ownWaiting_refillOwn
    rw [countAnswer_ownWaiting]
    simp [State.ownWaiting]
  · simp [State.newOwn]

/-- A request raised earlier still stands. -/
theorem mem_ownWaiting_raise {s : State} {q : OwnReq} (hq : q ∈ s.ownWaiting) (t : OwnTag) (o : Nat) (b : OwnBody) (h : Option Nat) :
    q ∈ (s.raise t o b h).ownWaiting := by
  unfold State.raise
  apply mem_ownWaiting_refillOwn
  rw [countAnswer_ownWaiting]
  simp only [State.ownWaiting, List.mem_append, List.mem_singleton] at hq ⊢
  tauto

theorem Awaits.raise {s : State} {t' : OwnTag} {o' : Nat} {b' : OwnBody} (hq : Awaits s t' o' b')
    (t : OwnTag) (o : Nat) (b : OwnBody) (h : Option Nat) : Awaits (s.raise t o b h) t' o' b' := by
  obtain ⟨q, hm, h1, h2, h3⟩ := hq
  exact ⟨q, mem_ownWaiting_raise hm t o b h, h1, by rw [h2]; simp, h3⟩

@[simp] theorem refillOwn_ownIssued (s : State) : s.refillOwn.path.ownIssued = s.path.ownIssued := by
  unfold State.refillOwn; split <;> rfl

/-- Raising a request that writes no answer area changes the own requests alone. -/
theorem onlyParts_raise (s : State) (t : OwnTag) (o : Nat) (b : OwnBody) (h : Option Nat) (ht : t.answerOf = none) :
    OnlyParts s (s.raise t o b h) [.raised] := by
  have hs := raise_streams s t o b h ht
  intro p hp
  cases p <;> simp only [List.mem_singleton, not_true_eq_false, reduceCtorEq, not_false_eq_true] at hp <;>
    simp only [Unchanged, raise_mem, raise_inReset, raise_base, raise_pending, raise_queue, raise_engine, raise_sweep,
      raise_loader, hs, and_self]
  all_goals
    unfold State.raise State.refillOwn State.countAnswer
    rw [ht]
    dsimp only
    split <;> simp

/-- Raising any request leaves everything but the own requests and the count of answer writes. -/
theorem onlyParts_raise' (s : State) (t : OwnTag) (o : Nat) (b : OwnBody) (h : Option Nat) :
    OnlyParts s (s.raise t o b h) [.raised, .streams] := by
  intro p hp
  cases p <;> simp only [List.mem_cons, List.not_mem_nil, or_false, or_true, not_true_eq_false, reduceCtorEq, or_self,
    not_false_eq_true] at hp <;>
    simp only [Unchanged, raise_mem, raise_inReset, raise_base, raise_pending, raise_queue, raise_engine, raise_sweep,
      raise_loader, and_self]
  all_goals
    unfold State.raise State.refillOwn State.countAnswer
    split <;> dsimp only <;> split <;> simp_all

theorem Unchanged.trans {r s t : State} {p : Part} (h : Unchanged r s p) (k : Unchanged s t p) : Unchanged r t p := by
  cases p <;> simp only [Unchanged] at h k ⊢ <;> simp [*]

theorem OnlyParts.trans {r s t : State} {ps qs rs : List Part} (h : OnlyParts r s ps) (k : OnlyParts s t qs)
    (h1 : ∀ p ∈ ps, p ∈ rs) (h2 : ∀ p ∈ qs, p ∈ rs) : OnlyParts r t rs :=
  fun p hp => (h p (fun hm => hp (h1 p hm))).trans (k p (fun hm => hp (h2 p hm)))

theorem OnlyParts.refl (s : State) (ps : List Part) : OnlyParts s s ps := by
  intro p _; cases p <;> simp [Unchanged]

theorem onlyParts_setUnit (s : State) (u : WorkUnit) : OnlyParts s (s.setUnit u) [.engine] := by
  intro p hp; cases p <;> simp [Unchanged] at hp ⊢

theorem onlyParts_engine (s : State) (e : Engine) : OnlyParts s { s with engine := e } [.engine] := by
  intro p hp; cases p <;> simp [Unchanged] at hp ⊢

theorem onlyParts_updStream (s : State) (n : StreamId) (f : Stream → Stream) : OnlyParts s (s.updStream n f) [.streams] := by
  intro p hp; cases p <;> simp [Unchanged] at hp ⊢

/-! ## A note begins -/

theorem noteBegins_startNote (s : State) (u : WorkUnit) (w : Work) (d : Option DeskImage) :
    NoteBegins s (s.startNote u w d) u w d := by
  refine ⟨?_, ?_, ?_, ?_⟩
  · simp [State.startNote, State.writeNote, State.raiseNext, noteWrites, State.setUnit]
  · simp [State.startNote, State.writeNote, State.raiseNext, noteWrites, State.setUnit]
  · exact awaits_raise _ _ _ _ _
  · refine OnlyParts.trans (onlyParts_setUnit s _) (onlyParts_raise _ _ _ _ none rfl) ?_ ?_ <;> simp

theorem concludes_conclude (s : State) (u : WorkUnit) (b : CurrentBatch) (w : Work) (o : Outcome) (sub : SubUnits) :
    Concludes s (s.conclude u b w o sub) u b w o sub := by
  have h := noteBegins_startNote { s with engine := { s.engine with batch := some (b.after (s.outcomeRec b.stream b.next o) sub) } }
    u w (some (s.deskImage b (s.outcomeRec b.stream b.next o) (decide (sub = .none))))
  refine ⟨⟨h.unit, h.engine, h.raised, ?_⟩, ?_⟩
  · exact OnlyParts.trans (onlyParts_engine s _) h.frame (by simp) (by simp)
  · simp [State.conclude, State.startNote, State.writeNote, State.raiseNext, noteWrites, State.setUnit]

theorem deciding_of_atDecide {s : State} {k : UnitKind} {u : WorkUnit} {b : CurrentBatch} {x : Setup}
    (h : AtDecide s k u b x) : s.deciding k = some (u, b, x) := by
  obtain ⟨h1, h2, h3, h4, h5, h6, h7⟩ := h
  simp [State.deciding, h1, h2, h3, h4, h5, h6, h7]

theorem decidingSweep_of_at {s : State} {o : Offer} {u : WorkUnit} {x : Setup} (h : AtSweepDecide s o u x) :
    s.decidingSweep = some (u, o, x) := by
  obtain ⟨h1, h2, h3, h4, h5, h6⟩ := h
  simp [State.decidingSweep, h1, h2, h3, h4, h5, h6]

/-- A store kind's decide concludes with what its function gives. -/
theorem decideEntry_concludes {s : State} {k : EntryKind} {u : WorkUnit} {b : CurrentBatch} {x : Setup}
    (f : Ctx → Work → Work × Outcome) (h : AtDecide s (.entry k) u b x) :
    Concludes s (s.decideEntry k f) u b (f (s.ctx x u) (Work.start x u.gathered)).1
      (f (s.ctx x u) (Work.start x u.gathered)).2 .none := by
  unfold State.decideEntry
  rw [deciding_of_atDecide h]
  exact concludes_conclude _ _ _ _ _ _

/-! ## What the changes of a unit's records add up to -/

theorem OnlyRecords.refl (w : Work) (ts : List Target) : OnlyRecords w w ts :=
  ⟨rfl, rfl, rfl, fun _ hg => Or.inr hg, fun _ _ => rfl, fun _ _ => rfl, fun _ _ => rfl, fun _ _ => rfl, fun _ => rfl⟩

theorem OnlyRecords.mono {v w : Work} {ts us : List Target} (h : OnlyRecords v w ts) (hs : ∀ x ∈ ts, x ∈ us) :
    OnlyRecords v w us :=
  ⟨h.setup, h.gathered, h.fresh, fun g hg => (h.images g hg).imp_left (fun x => ⟨hs _ x.1, x.2⟩), fun i hi => h.patrons i (fun hm => hi (hs _ hm)),
    fun i hi => h.titles i (fun hm => hi (hs _ hm)), fun i hi => h.items i (fun hm => hi (hs _ hm)),
    fun i hi => h.holds i (fun hm => hi (hs _ hm)), fun hi => h.summary (fun hm => hi (hs _ hm))⟩

/-- The images still show the records after a change of another. -/
theorem shows_setPatron {w : Work} {g : Image} {i : Nat} {p : Patron} (hg : g.shows w)
    (ht : g.target ≠ .record .patrons i) : g.shows (w.setPatron i p) := by
  cases g <;> simp_all [Image.shows, Image.target, Work.raw, eq_comm]
theorem shows_setTitle {w : Work} {g : Image} {i : Nat} {p : Title} (hg : g.shows w)
    (ht : g.target ≠ .record .titles i) : g.shows (w.setTitle i p) := by
  cases g <;> simp_all [Image.shows, Image.target, Work.raw, eq_comm]
theorem shows_setItem {w : Work} {g : Image} {i : Nat} {p : Item} (hg : g.shows w)
    (ht : g.target ≠ .record .items i) : g.shows (w.setItem i p) := by
  cases g <;> simp_all [Image.shows, Image.target, Work.raw, eq_comm]
theorem shows_setHold {w : Work} {g : Image} {i : Nat} {p : Hold} (hg : g.shows w)
    (ht : g.target ≠ .record .holds i) : g.shows (w.setHold i p) := by
  cases g <;> simp_all [Image.shows, Image.target, Work.raw, eq_comm]

theorem OnlyRecords.setPatron {v w : Work} {ts : List Target} (h : OnlyRecords v w ts) {i : Nat} (p : Patron)
    (hi : Target.record .patrons i ∈ ts) : OnlyRecords v (w.setPatron i p) ts := by
  refine ⟨by simp [h.setup], by simp [h.gathered], by simp [h.fresh], ?_, ?_, ?_, ?_, ?_, ?_⟩
  · intro g hg
    by_cases hp : p = w.patron i
    · have : w.setPatron i p = w := by simp [Work.setPatron, hp]
      rw [this] at hg ⊢; exact h.images g hg
    · have hw : (w.setPatron i p).images = putImage w.images (.patron i (w.raw (.record .patrons i)) p) := by
        simp [Work.setPatron, hp]
      rw [hw] at hg
      rcases mem_putImage hg with rfl | ⟨hg, hne⟩
      · exact Or.inl ⟨hi, by simp [Image.shows, Work.raw]⟩
      · exact (h.images g hg).imp_left (fun x => ⟨x.1, shows_setPatron x.2 hne⟩)
  · intro j hj; rw [patron_setPatron, if_neg (fun e : i = j => hj (e ▸ hi))]; exact h.patrons j hj
  · intro j hj; rw [title_setPatron]; exact h.titles j hj
  · intro j hj; rw [item_setPatron]; exact h.items j hj
  · intro j hj; rw [hold_setPatron]; exact h.holds j hj
  · intro hj; rw [setPatron_sum]; exact h.summary hj

theorem OnlyRecords.setTitle {v w : Work} {ts : List Target} (h : OnlyRecords v w ts) {i : Nat} (p : Title)
    (hi : Target.record .titles i ∈ ts) : OnlyRecords v (w.setTitle i p) ts := by
  refine ⟨by simp [h.setup], by simp [h.gathered], by simp [h.fresh], ?_, ?_, ?_, ?_, ?_, ?_⟩
  · intro g hg
    by_cases hp : p = w.title i
    · have : w.setTitle i p = w := by simp [Work.setTitle, hp]
      rw [this] at hg ⊢; exact h.images g hg
    · have hw : (w.setTitle i p).images = putImage w.images (.title i (w.raw (.record .titles i)) p) := by
        simp [Work.setTitle, hp]
      rw [hw] at hg
      rcases mem_putImage hg with rfl | ⟨hg, hne⟩
      · exact Or.inl ⟨hi, by simp [Image.shows, Work.raw]⟩
      · exact (h.images g hg).imp_left (fun x => ⟨x.1, shows_setTitle x.2 hne⟩)
  · intro j hj; rw [patron_setTitle]; exact h.patrons j hj
  · intro j hj; rw [title_setTitle, if_neg (fun e : i = j => hj (e ▸ hi))]; exact h.titles j hj
  · intro j hj; rw [item_setTitle]; exact h.items j hj
  · intro j hj; rw [hold_setTitle]; exact h.holds j hj
  · intro hj; rw [setTitle_sum]; exact h.summary hj

theorem OnlyRecords.setItem {v w : Work} {ts : List Target} (h : OnlyRecords v w ts) {i : Nat} (p : Item)
    (hi : Target.record .items i ∈ ts) : OnlyRecords v (w.setItem i p) ts := by
  refine ⟨by simp [h.setup], by simp [h.gathered], by simp [h.fresh], ?_, ?_, ?_, ?_, ?_, ?_⟩
  · intro g hg
    by_cases hp : p.written = w.item i
    · have : w.setItem i p = w := by simp [Work.setItem, hp]
      rw [this] at hg ⊢; exact h.images g hg
    · have hw : (w.setItem i p).images = putImage w.images (.item i (w.raw (.record .items i)) p.written) := by
        simp [Work.setItem, hp]
      rw [hw] at hg
      rcases mem_putImage hg with rfl | ⟨hg, hne⟩
      · exact Or.inl ⟨hi, by simp [Image.shows, Work.raw]⟩
      · exact (h.images g hg).imp_left (fun x => ⟨x.1, shows_setItem x.2 hne⟩)
  · intro j hj; rw [patron_setItem]; exact h.patrons j hj
  · intro j hj; rw [title_setItem]; exact h.titles j hj
  · intro j hj; rw [item_setItem, if_neg (fun e : i = j => hj (e ▸ hi))]; exact h.items j hj
  · intro j hj; rw [hold_setItem]; exact h.holds j hj
  · intro hj; rw [setItem_sum]; exact h.summary hj

theorem OnlyRecords.setHold {v w : Work} {ts : List Target} (h : OnlyRecords v w ts) {i : Nat} (p : Hold)
    (hi : Target.record .holds i ∈ ts) : OnlyRecords v (w.setHold i p) ts := by
  refine ⟨by simp [h.setup], by simp [h.gathered], by simp [h.fresh], ?_, ?_, ?_, ?_, ?_, ?_⟩
  · intro g hg
    by_cases hp : p.written = w.hold i
    · have : w.setHold i p = w := by simp [Work.setHold, hp]
      rw [this] at hg ⊢; exact h.images g hg
    · have hw : (w.setHold i p).images = putImage w.images (.hold i (w.raw (.record .holds i)) p.written) := by
        simp [Work.setHold, hp]
      rw [hw] at hg
      rcases mem_putImage hg with rfl | ⟨hg, hne⟩
      · exact Or.inl ⟨hi, by simp [Image.shows, Work.raw]⟩
      · exact (h.images g hg).imp_left (fun x => ⟨x.1, shows_setHold x.2 hne⟩)
  · intro j hj; rw [patron_setHold]; exact h.patrons j hj
  · intro j hj; rw [title_setHold]; exact h.titles j hj
  · intro j hj; rw [item_setHold]; exact h.items j hj
  · intro j hj; rw [hold_setHold, if_neg (fun e : i = j => hj (e ▸ hi))]; exact h.holds j hj
  · intro hj; rw [setHold_sum]; exact h.summary hj

theorem shows_setSum {w : Work} {g : Image} {f : Summary → Summary} (hg : g.shows w) : g.shows (w.setSum f) := by
  cases g <;> simp_all [Image.shows, Work.raw]

theorem OnlyRecords.setSum {v w : Work} {ts : List Target} (h : OnlyRecords v w ts) (f : Summary → Summary)
    (hi : Target.summary ∈ ts) : OnlyRecords v (w.setSum f) ts :=
  ⟨h.setup, h.gathered, h.fresh, fun g hg => (h.images g hg).imp_left (fun x => ⟨x.1, shows_setSum x.2⟩), h.patrons, h.titles, h.items, h.holds,
    fun hs => absurd hi hs⟩

/-! ## The order in which records are changed (R90) -/

theorem ChangesInOrder.refl (w : Work) (ts : List Target) : ChangesInOrder w w ts :=
  ⟨[], by simp, List.nil_sublist ts⟩

theorem ChangesInOrder.trans {u v w : Work} {ts us : List Target} (h : ChangesInOrder u v ts) (k : ChangesInOrder v w us) :
    ChangesInOrder u w (ts ++ us) := by
  obtain ⟨l, hl, hs⟩ := h
  obtain ⟨m, hm, ht⟩ := k
  exact ⟨l ++ m, by rw [hm, hl, List.append_assoc], hs.append ht⟩

/-- Putting an image changes its record last, unless it was changed before. -/
theorem changesInOrder_putImage {w v : Work} {g : Image} (h : v.images = putImage w.images g) :
    ChangesInOrder w v [g.target] := by
  unfold ChangesInOrder
  rw [h]
  unfold putImage
  split
  · refine ⟨[], ?_, List.nil_sublist _⟩
    simp only [List.map_map, List.append_nil]
    apply List.map_congr_left
    intro x _
    by_cases hx : x.target = g.target <;> simp [hx]
  · exact ⟨[g.target], by simp, List.Sublist.refl _⟩

theorem changesInOrder_setPatron (w : Work) (i : Nat) (p : Patron) :
    ChangesInOrder w (w.setPatron i p) [.record .patrons i] := by
  unfold Work.setPatron; split
  · exact ChangesInOrder.refl w _
  · exact changesInOrder_putImage (g := .patron i (w.raw (.record .patrons i)) p) rfl
theorem changesInOrder_setTitle (w : Work) (i : Nat) (p : Title) :
    ChangesInOrder w (w.setTitle i p) [.record .titles i] := by
  unfold Work.setTitle; split
  · exact ChangesInOrder.refl w _
  · exact changesInOrder_putImage (g := .title i (w.raw (.record .titles i)) p) rfl
theorem changesInOrder_setItem (w : Work) (i : Nat) (c : Item) :
    ChangesInOrder w (w.setItem i c) [.record .items i] := by
  unfold Work.setItem; split
  · exact ChangesInOrder.refl w _
  · exact changesInOrder_putImage (g := .item i (w.raw (.record .items i)) c.written) rfl
theorem changesInOrder_setHold (w : Work) (i : Nat) (h : Hold) :
    ChangesInOrder w (w.setHold i h) [.record .holds i] := by
  unfold Work.setHold; split
  · exact ChangesInOrder.refl w _
  · exact changesInOrder_putImage (g := .hold i (w.raw (.record .holds i)) h.written) rfl
theorem changesInOrder_setSum (w : Work) (f : Summary → Summary) : ChangesInOrder w (w.setSum f) [] :=
  ⟨[], by simp, List.nil_sublist _⟩
end Sys2Proof.Machine
end

