-- ==== Sys2Proof/Laws/Streams.lean ====
section
/-! SUPPORT. What the operations on the path and over all streams leave as it was. -/

namespace Sys2Proof.Machine

/-! ## One change for every stream -/

theorem stream_foldl_updStream (f : StreamId → Stream → Stream) (l : List StreamId) (hl : l.Nodup) :
    ∀ (s : State) (m : StreamId), (l.foldl (fun x n => x.updStream n (f n)) s).stream m =
      if m ∈ l then (f m (s.stream m)).settled else s.stream m := by
  induction l with
  | nil => intro s m; simp
  | cons n l ih =>
    intro s m
    obtain ⟨hn, hl⟩ := List.nodup_cons.1 hl
    rw [List.foldl_cons, ih hl]
    by_cases hm : m = n
    · subst hm; rw [if_neg hn, stream_updStream]; simp
    · rw [stream_updStream]; simp [hm]

theorem allStreams_nodup : allStreams.Nodup := List.nodup_finRange 32
theorem mem_allStreams (n : StreamId) : n ∈ allStreams := List.mem_finRange n

/-- A change made to every stream's entry. -/
theorem stream_forall_updStream (f : StreamId → Stream → Stream) (s : State) (m : StreamId) :
    (allStreams.foldl (fun x n => x.updStream n (f n)) s).stream m = (f m (s.stream m)).settled := by
  rw [stream_foldl_updStream f _ allStreams_nodup, if_pos (mem_allStreams m)]

theorem OnlyParts.foldl {α : Type} {ps : List Part} (f : State → α → State) (h : ∀ s a, OnlyParts s (f s a) ps) (l : List α) :
    ∀ s, OnlyParts s (l.foldl f s) ps := by
  induction l with
  | nil => intro s; exact OnlyParts.refl s ps
  | cons a l ih => intro s; exact (h s a).trans (ih _) (fun _ h => h) (fun _ h => h)

theorem onlyParts_ite {c : Prop} [Decidable c] {s a b : State} {ps : List Part} (ha : OnlyParts s a ps) (hb : OnlyParts s b ps) :
    OnlyParts s (if c then a else b) ps := by
  split
  · exact ha
  · exact hb

theorem OnlyParts.mono {s t : State} {ps qs : List Part} (h : OnlyParts s t ps) (hs : ∀ p ∈ ps, p ∈ qs) : OnlyParts s t qs :=
  fun p hp => h p (fun hm => hp (hs p hm))

/-! ## The upstream side -/

theorem onlyParts_path (s : State) (p : Path) (h : p.ownIssued = s.path.ownIssued ∧ p.lastGranted = s.path.lastGranted ∧
    p.ownSlot = s.path.ownSlot ∧ p.raised = s.path.raised ∧ p.formatHeld = s.path.formatHeld) :
    OnlyParts s { s with path := p } [.upstream] := by
  intro q hq; cases q <;> simp [Unchanged, h] at hq ⊢

theorem onlyParts_flush (s : State) : OnlyParts s s.flush [.upstream] := onlyParts_path s _ (by simp)
theorem onlyParts_updOutstanding (s : State) (k : Nat) (f : Outstanding → Outstanding) :
    OnlyParts s (s.updOutstanding k f) [.upstream] := onlyParts_path s _ (by simp)
theorem onlyParts_complete (s : State) (k : Nat) (a : UpAnswer) : OnlyParts s (s.complete k a) [.upstream] :=
  (onlyParts_updOutstanding s k _).trans (onlyParts_flush _) (fun _ h => h) (fun _ h => h)
theorem onlyParts_dropUp (s : State) (k : Nat) : OnlyParts s (s.dropUp k) [.upstream] := onlyParts_path s _ (by simp)
theorem onlyParts_holdStartup (s : State) (u : UpReq) : OnlyParts s (s.holdStartup u) [.upstream] := onlyParts_path s _ (by simp)

theorem onlyParts_place (s : State) (u : UpReq) : OnlyParts s (s.place u) [.upstream] :=
  onlyParts_ite (onlyParts_path s _ (by simp)) (onlyParts_path s _ (by simp))

theorem onlyParts_guardHit (s : State) (n : StreamId) : OnlyParts s (s.guardHit n) [.streams] := onlyParts_updStream s n _

theorem onlyParts_admitReq (s : State) (u : UpReq) : OnlyParts s (s.admitReq u) [.upstream, .streams] := by
  have up : ∀ {a b : State}, OnlyParts a b [.upstream] → OnlyParts a b [.upstream, .streams] :=
    fun h => h.mono (by simp)
  unfold State.admitReq
  split
  · have h1 : OnlyParts s (if s.losesByte u.req then s.guardHit u.req.stream else s) [.upstream, .streams] :=
      onlyParts_ite ((onlyParts_guardHit s _).mono (by simp)) (OnlyParts.refl s _)
    dsimp only
    revert h1
    generalize (if s.losesByte u.req then s.guardHit u.req.stream else s) = s1
    intro h1
    refine h1.trans (rs := [.upstream, .streams]) ?_ (fun _ h => h) (fun _ h => h)
    split
    · exact (up (onlyParts_updOutstanding _ _ _)).trans (up (onlyParts_place _ _)) (fun _ h => h) (fun _ h => h)
    · exact up (onlyParts_complete _ _ _)
  · exact up (onlyParts_place s u)

theorem onlyParts_drainHold (l : List UpReq) : ∀ s, OnlyParts s (drainHold l s).1 [.upstream, .streams] := by
  induction l with
  | nil => intro s; exact OnlyParts.refl s _
  | cons u l ih =>
    intro s
    unfold drainHold
    split
    · exact OnlyParts.refl s _
    · exact (onlyParts_admitReq s u).trans (ih _) (fun _ h => h) (fun _ h => h)

theorem onlyParts_releaseAside (s : State) : OnlyParts s s.releaseAside [.upstream] := by
  unfold State.releaseAside
  split
  · exact onlyParts_path s _ (by simp)
  · exact OnlyParts.refl s _

/-- What waited for the upstream slot goes on: nothing but the upstream side and guard-hit counts changes. -/
theorem onlyParts_drain (s : State) : OnlyParts s s.drain [.upstream, .streams] := by
  have up : ∀ {a b : State}, OnlyParts a b [.upstream] → OnlyParts a b [.upstream, .streams] :=
    fun h => h.mono (by simp)
  unfold State.drain
  dsimp only
  split
  · exact up (onlyParts_releaseAside s)
  · refine (up (onlyParts_releaseAside s)).trans (rs := [.upstream, .streams]) ?_ (fun _ h => h) (fun _ h => h)
    refine (onlyParts_drainHold s.releaseAside.path.holdList s.releaseAside).trans (rs := [.upstream, .streams])
      (up (onlyParts_path _ _ (by simp))) (fun _ h => h) (fun _ h => h)

@[simp] theorem drain_mem (s : State) : s.drain.mem = s.mem := onlyParts_drain s .memory (by simp)
@[simp] theorem drain_loader (s : State) : s.drain.loader = s.loader := onlyParts_drain s .loader (by simp)
@[simp] theorem drain_engine (s : State) : s.drain.engine = s.engine := onlyParts_drain s .engine (by simp)
@[simp] theorem drain_sweep (s : State) : s.drain.sweep = s.sweep := onlyParts_drain s .sweep (by simp)
@[simp] theorem drain_queue (s : State) : s.drain.queue = s.queue := onlyParts_drain s .commitQueue (by simp)
@[simp] theorem drain_base (s : State) : s.drain.base = s.base := (onlyParts_drain s .pins (by simp)).2
@[simp] theorem drain_inReset (s : State) : s.drain.inReset = s.inReset := (onlyParts_drain s .pins (by simp)).1
@[simp] theorem drain_pending (s : State) : s.drain.pending = s.pending := onlyParts_drain s .commands (by simp)

/-- The own requests are the same where two parts of the state are. -/
theorem ownWaiting_of_unchanged {s t : State} (h1 : Unchanged s t .issued) (h2 : Unchanged s t .raised) :
    t.ownWaiting = s.ownWaiting := by
  obtain ⟨h, _⟩ := h1
  obtain ⟨k1, k2, k3⟩ := h2
  simp [State.ownWaiting, h, k1, k2, k3]

@[simp] theorem drain_ownWaiting (s : State) : s.drain.ownWaiting = s.ownWaiting :=
  ownWaiting_of_unchanged (onlyParts_drain s .issued (by simp)) (onlyParts_drain s .raised (by simp))

theorem Awaits.of_unchanged {s t : State} {k : OwnTag} {o : Nat} {b : OwnBody} (h : Awaits s k o b)
    (h1 : t.ownWaiting = s.ownWaiting) (h2 : t.base = s.base) : Awaits t k o b := by
  obtain ⟨q, hq, a, c, d⟩ := h
  exact ⟨q, by rw [h1]; exact hq, a, by rw [c, h2], d⟩

theorem Awaits.drain {s : State} {k : OwnTag} {o : Nat} {b : OwnBody} (h : Awaits s k o b) : Awaits s.drain k o b :=
  h.of_unchanged (drain_ownWaiting s) (drain_base s)

/-! ## What every stream keeps while requests go on: all but its guard-hit count -/

/-- A stream's entry but for the guard-hit count. -/
def Stream.uncounted (t : Stream) : Stream := { t with guardHits := 0 }

theorem settled_uncounted (t : Stream) : t.settled.uncounted = t.uncounted.settled := rfl

end Sys2Proof.Machine
end

