-- ==== Sys2Proof/Tests/Slice0.lean ====
section
/-! SUPPORT. Tests on small states: the well-formedness check, one step of every command, and for every statement with hypotheses a concrete
state and operands that meet them, for each of its clauses. -/

namespace Sys2Proof.Tests

open Sys2Proof Sys2Proof.Machine

set_option Elab.async false

/-! ## Small states -/

/-- Streams 0 and 3 to 7 are KIOSKs, stream 1 a DESK, stream 2 a SUPERVISOR, the rest disabled. -/
def cfgOf (n : Fin 32) : StreamCfg :=
  if n.val = 1 then ⟨true, .desk, 2, true⟩
  else if n.val = 2 then ⟨true, .supervisor, 2, false⟩
  else ⟨decide (n.val < 8), .kiosk, 2, true⟩

def regionsOf : RegionTable :=
  ⟨⟨65536, 1024⟩, ⟨327680, 1024⟩, ⟨344064, 1024⟩, ⟨606208, 1024⟩, ⟨671744, 1024⟩⟩

def limitsOf : Limits := ⟨2, 3, 500, 3, 30, 7, 1000, 60, 20, 3⟩

def setup : Setup := ⟨regionsOf, Vector.ofFn cfgOf, Vector.replicate 8 ⟨21, 2, 25, 1000, 1⟩, limitsOf⟩

/-- READY on day 600 with every enabled stream VACANT. -/
def ready : State :=
  { State.reset with
    inReset := false
    loader := { Loader.reset with part := .ready, inForce := some setup, today := some 600, result := ⟨.accepted, 0⟩ }
    streams := Vector.ofFn (fun n : Fin 32 =>
      if n.val < 8 then { Stream.reset with session := .vacant } else Stream.reset)
    serial := 10 }

/-- Streams 0 (patron 1) and 1 (patron 2) are CLAIMED. -/
def claimed : State :=
  (ready.updStream 0 (fun t => { t with session := .claimed 1 })).updStream 1 (fun t => { t with session := .claimed 2 })

def inPart (s : State) (p : PartState) : State := { s with loader := { s.loader with part := p } }
def withJob (s : State) (j : Job) : State := { s with loader := { s.loader with job := j } }

/-- The state a step answers. -/
def after : Host.Outcome State Fault Refusal → State
  | .next s => s
  | _ => State.reset

def lanes (bs : List Byte) : List Lane := lanesOf bs

/-- A write of whole words at an aperture offset. -/
def writeReq (n : Nat) (off : Nat) (ls : List Lane) : Request := ⟨n, true, off, ls.length / 8, ls⟩
def readReq (n off words : Nat) : Request := ⟨n, false, off, words, []⟩

/-- An upstream request with serial 5 stands downstream, not yet answered. -/
def downstream (s : State) (r : Request) : State :=
  { s with path := { s.path with
      upIssued := [⟨⟨5, r⟩, s.mem.bytes r.start (if r.write then 0 else 8 * r.words), [], 0, false⟩]
      outstanding := [⟨5, r.stream, false, false, none⟩] } }

def issuedUp (s : State) : IssuedUp := s.path.upIssued.headD ⟨⟨0, readReq 0 0 1⟩, [], [], 0, false⟩

/-- An own request with serial 6 stands downstream. -/
def issue (s : State) (tag : OwnTag) (off : Nat) (body : OwnBody) (holds : Option Nat := none) : State :=
  { s with path := { s.path with
      ownIssued := [⟨⟨6, tag, s.base + off, body, holds⟩,
        match body with
          | .read n => s.mem.bytes (s.base + off) n
          | .write _ => [], []⟩] } }

def issuedOwn (s : State) : IssuedOwn := s.path.ownIssued.headD ⟨⟨0, .note, 0, .read 0, none⟩, [], []⟩

/-- The own requests not yet answered, by what they are for. -/
def waiting (s : State) : List OwnTag := s.ownWaiting.map (·.tag)

/-! ## Records -/

def patronRec (p : Patron) : List Byte := encodePatron (zeros 82 ++ leBytes 2 p.expiry) p
def titleRec (t : Title) : List Byte :=
  encodeTitle (zeros 116 ++ leBytes 1 t.copies.length ++ zeros 11 ++ putPlaces 32 t.copies) t
def itemRec (c : Item) : List Byte :=
  encodeItem (leBytes 4 c.title ++ leBytes 1 c.cls ++ leBytes 1 c.home ++ putBool c.circulates ++ [0]) c
def sumRec (m : Summary) : List Byte := encodeSummary m

def patronOf (balance : Nat) (loans : List Nat) : Patron := ⟨700, balance, loans, 1, 2, false, none⟩
def idleItem (t : Nat) : Item := ⟨t, 0, 2, true, .available, none, 0, none, none, 0, none, none⟩
def lentItem (t p due charged : Nat) : Item :=
  { idleItem t with state := .onLoan, borrower := some p, due := some due, charged := some charged }
def asideItem (t h : Nat) : Item := { idleItem t with state := .setAside, aside := some h }
def holdOf (st : HoldState) (p t : Nat) (next : Option Nat) : Hold := ⟨st, 2, some p, some t, 590, none, none, none, next⟩
def shelfHold (p t c deadline : Nat) : Hold :=
  ⟨.onShelf, 2, some p, some t, 590, none, some c, some deadline, none⟩
def sumOf : Summary := { emptySummary 1024 590 with freeHead := some 9, freeCount := 1000 }

/-! ## Entries -/

/-- A captured slot, its check code left out: the code is judged at the close. -/
def slotOf (kind target amount day pickup reason first last flags : Nat) : List Byte :=
  leBytes 1 kind ++ leBytes 1 flags ++ leBytes 2 77 ++ leBytes 4 target ++ leBytes 4 amount ++ leBytes 4 day ++
    leBytes 1 pickup ++ leBytes 1 reason ++ leBytes 1 first ++ leBytes 1 last ++ [255, 255, 255, 255] ++ zeros 8

/-- A close of `slot` with its check code. -/
def coded (bs : List Byte) : List Byte :=
  bs.take 30 ++ [BitVec.ofNat 8 ((checkCode (bs.take 30)).toNat / 256), BitVec.ofNat 8 ((checkCode (bs.take 30)).toNat % 256)]

/-- Stream `n`'s batch of one entry is being settled. -/
def settling (s : State) (n : StreamId) (slot : List Byte) : State :=
  s.updStream n (fun t =>
    { t with
      batch := .settling, closedCount := 1, answer := .working
      captured := Memory.writeLanes [] 0 (lanesOf slot) })

def batchOf (n : StreamId) : CurrentBatch := ⟨n, 0, false, .none, [], none⟩

def unitOf (k : UnitKind) (n : Option StreamId) (code : Nat) (g : List (Target × List Byte)) : WorkUnit :=
  ⟨k, n, n.map (fun _ => 0), code, .decide, 600, g, none, [], [], false, [], true⟩

/-- A unit stands at its decide. -/
def deciding (s : State) (b : CurrentBatch) (u : WorkUnit) : State :=
  { s with engine := { s.engine with batch := some b, unit := some u } }

/-- An entry unit of stream `n` stands at its decide with these records gathered. -/
def entryUnit (s : State) (n : StreamId) (k : EntryKind) (slot : List Byte) (g : List (Target × List Byte)) : State :=
  deciding (settling s n slot) (batchOf n) (unitOf (.entry k) (some n) k.code g)

def theUnit (s : State) : WorkUnit := s.engine.unit.getD (unitOf .refusal none 0 [])
def theBatch (s : State) : CurrentBatch := s.engine.batch.getD (batchOf 0)
def theWork (s : State) : Work := Work.start setup (theUnit s).gathered
def theCtx (s : State) : Ctx := s.ctx setup (theUnit s)

/-- The unit of an entry kind stands at its decide in the setup of these tests. -/
abbrev Decides (s : State) (k : UnitKind) : Prop := AtDecide s k (theUnit s) (theBatch s) setup

/-- The outcome a decide recorded last. -/
def outcomeAfter (s : State) (c : Instr) : Option (OutcomeCode × Nat × Nat) :=
  ((after (exec c s)).engine.batch.bind (fun b => b.outcomes.getLast?)).map (fun o => (o.code, o.d1, o.d2))

/-- The targets of the change list of the unit under way. -/
def changesAfter (s : State) (c : Instr) : List Target := (theUnit (after (exec c s))).changes.map Image.target

/-! ## The well-formedness check -/

theorem test_wf_refuses_zero_words : (Instr.upstreamRequest ⟨0, false, 0, 0, []⟩).wf = false := by decide
theorem test_wf_refuses_seventeen_words : (Instr.upstreamRequest ⟨0, false, 0, 17, []⟩).wf = false := by decide
theorem test_wf_refuses_missing_lanes : (Instr.upstreamRequest ⟨0, true, 0, 2, List.replicate 15 noLane⟩).wf = false := by decide
theorem test_wf_refuses_lanes_of_a_read : (Instr.upstreamRequest ⟨0, false, 0, 1, [noLane]⟩).wf = false := by decide
theorem test_wf_accepts_sixteen_words :
    (Instr.upstreamRequest ⟨0, true, 0, 16, List.replicate 128 noLane⟩).wf = true := by decide +kernel

/-! ## Facts about the small states -/

theorem settled_ready : StreamsSettled ready := by unfold StreamsSettled; decide +kernel
theorem settled_claimed : StreamsSettled claimed := by unfold StreamsSettled; decide +kernel

/-- No two streams hold one patron, when the claims as data say so. -/
theorem claimsUnique_of {s : State}
    (h : ∀ m n : Fin 32, m ≠ n → (s.stream m).session.patron ≠ (s.stream n).session.patron ∨
      (s.stream m).session.patron = none) : ClaimsUnique s := by
  intro m n p hm hn
  by_cases e : m = n
  · exact e
  · rcases h m n e with h1 | h1 <;> simp [hm, hn, Session.patron] at h1

theorem unique_claimed : ClaimsUnique claimed := claimsUnique_of (by decide +kernel)

/-! ## The machine as a whole -/

theorem test_step_front : ({ ready with pending := [.arbiterGrant] } : State).pending = .arbiterGrant :: [] := rfl
theorem test_second_passes : claimed.pending = [] ∧ (∀ n : StreamId, claimed.idleDue n = false ∧ claimed.collectDue n = false) ∧
    ((after (step claimed)).stream 0).idleTimer = some 1 := by decide +kernel

/-- Stream 0's idle timer has reached the limit of 60 seconds exactly. -/
def idleAtLimit : State := claimed.updStream 0 (fun t => { t with idleTimer := some 60 })

theorem test_due_timer_joins_queue : idleAtLimit.pending = [] ∧ idleAtLimit.idleDue 0 = true ∧
    (after (step idleAtLimit)).pending = [.idleExpiry 0] := by decide +kernel
theorem test_due_timer_settled : StreamsSettled idleAtLimit := by unfold StreamsSettled; decide +kernel

/-- The hypotheses of the two statements about every step. -/
theorem test_invariants_of_a_step : let s : State := { claimed with pending := [.arbiterGrant] }
    MemoryCanonical s ∧ StreamsSettled s ∧ StreamsBounded s ∧ ClaimsUnique s ∧ FaultsBounded s ∧ ∃ t, step s = .next t := by
  refine ⟨?_, settled_claimed, ?_, unique_claimed, ?_, _, rfl⟩
  · unfold MemoryCanonical; decide
  · unfold StreamsBounded Stream.bounded; decide +kernel
  · unfold FaultsBounded; decide +kernel

theorem test_record_bounds : let p : Patron := ⟨65535, 4294967295, List.replicate 40 4294967295, 255, 255, true, some 4294967294⟩
    let h : Hold := ⟨.onShelf, 255, some 4294967294, none, 65535, some 0, none, some 1, none⟩
    (patronRec p).length = 256 ∧ parsePatron (patronRec p) = p ∧ parseHold (encodeHold h) = h ∧
    (itemRec (lentItem 7 3 600 599)).length = 64 ∧ parseItem (itemRec (lentItem 7 3 600 599)) = lentItem 7 3 600 599 ∧
    parseTitle (titleRec ⟨[4, 5], 255, some 1, none⟩) = ⟨[4, 5], 255, some 1, none⟩ := by decide +kernel

/-! ## Reset and start-up -/

theorem test_release_in_reset : State.reset.inReset = true ∧ (after (exec (.coldResetRelease 15) State.reset)).base = 16106127360 ∧
    waiting (after (exec (.coldResetRelease 15) State.reset)) = [.startupRead] := by decide +kernel
theorem test_release_out_of_reset : ready.inReset = false := rfl

/-- A write of stream 1 is downstream; of its eight bytes three had landed. -/
theorem test_cold_reset_lands_part :
    let s := downstream ready (writeReq 1 65536 (lanes [1, 2, 3, 4, 5, 6, 7, 8]))
    (after (exec (.coldReset [3]) s)).mem = [(65536, 1), (65537, 2), (65538, 3)] ∧
      (after (exec (.coldReset [3]) s)).path.upIssued = [] := by decide +kernel

def starting (p : StartStep) (block : Memory) (count : Nat) (images : List RawImage) : State :=
  withJob (inPart ready .starting) (.startup ⟨p, false, block, count, images⟩)

def startRead (p : StartStep) (block : Memory) (off len count : Nat) (images : List RawImage) : State :=
  issue (starting p block count images) .startupRead off (.read len)

/-- The setup block of `setup`, as bytes from offset 0. -/
def blockBytes : List Byte :=
  ([(65536, 1024), (327680, 1024), (344064, 1024), (606208, 1024), (671744, 1024)].map
    (fun e => leBytes 4 e.1 ++ leBytes 4 e.2)).flatten ++ zeros 24 ++
  ((List.finRange 32).map (fun n =>
    putBool (cfgOf n).enable ++ leBytes 1 (cfgOf n).grade.code ++ leBytes 1 (cfgOf n).branch ++ [1])).flatten ++
  (List.replicate 8 [(21 : Byte), 2, 25, 0, 0xE8, 3, 1, 0]).flatten ++
  [2, 3, 0, 0, 0xF4, 1, 0, 0, 3, 7, 30, 0, 0xE8, 3, 0, 0, 60, 0, 20, 3]

def block : Memory := Memory.writeLanes [] 0 (lanesOf blockBytes)

theorem test_block_validates : validate block none = .ok (blockSetup block) ∧ (blockSetup block).limits = limitsOf ∧
    (blockSetup block).regions = regionsOf := by decide +kernel

/-- The status word read, and a content before the last. -/
theorem test_startup_reads_on : let s := startRead (.readSetup .status) [] Config.statusOff 8 0 []
    AtStartup s startupReads (issuedOwn s) ⟨.readSetup .status, false, [], 0, []⟩ ∧
    (s.ownData (issuedOwn s) .done).isSome = true ∧ SetupPart.status.following = some .regions ∧
    waiting (after (exec (.startupReadDone .done) s)) = [.startupRead] := by decide +kernel

/-- The last content read: a block that passes, and one whose first region is too low. -/
theorem test_startup_accepts : let s := startRead (.readSetup .calendar) block Config.calendarOff 8 0 []
    AtStartup s startupReads (issuedOwn s) ⟨.readSetup .calendar, false, block, 0, []⟩ ∧
    s.ownData (issuedOwn s) .done = some (zeros 8) ∧
    validate (addPart block .calendar (zeros 8)) none = .ok (blockSetup (addPart block .calendar (zeros 8))) := by
  decide +kernel
theorem test_startup_refuses : let s := startRead (.readSetup .calendar) [] Config.calendarOff 8 0 []
    AtStartup s startupReads (issuedOwn s) ⟨.readSetup .calendar, false, [], 0, []⟩ ∧
    s.ownData (issuedOwn s) .done = some (zeros 8) ∧
    validate (addPart [] .calendar (zeros 8)) none = .error ⟨.misaligned, 1⟩ ∧
    (after (exec (.startupReadDone .done) s)).loader.part = .unset := by decide +kernel

def stamped (s : State) : State := { s with mem := Memory.writeLanes s.mem Config.summaryBase (lanesOf Config.formatStamp) }

theorem test_stamp_found : let s := issue (stamped (starting .readStamp block 0 [])) .startupRead Config.summaryBase (.read 8)
    AtStartup s startupReads (issuedOwn s) ⟨.readStamp, false, block, 0, []⟩ ∧
    s.ownData (issuedOwn s) .done = some Config.formatStamp := by decide +kernel
theorem test_stamp_missing : let s := startRead .readStamp block Config.summaryBase 8 0 []
    AtStartup s startupReads (issuedOwn s) ⟨.readStamp, false, block, 0, []⟩ ∧
    s.ownData (issuedOwn s) .done = some (zeros 8) ∧ zeros 8 ≠ Config.formatStamp ∧
    (after (exec (.startupReadDone .done) s)).loader.part = .unformatted := by decide +kernel

/-- A byte of memory set. -/
def poke (s : State) (a : Nat) (bs : List Byte) : State := { s with mem := s.mem.writeLanes a (lanesOf bs) }

theorem test_note_written : let s := issue (poke (starting .readNoteState block 0 []) 4096 [0x5A]) .startupRead 4096 (.read 1)
    AtStartup s startupReads (issuedOwn s) ⟨.readNoteState, false, block, 0, []⟩ ∧
    s.ownData (issuedOwn s) .done = some [0x5A] := by decide +kernel
theorem test_note_clear : let s := startRead .readNoteState block 4096 1 0 []
    AtStartup s startupReads (issuedOwn s) ⟨.readNoteState, false, block, 0, []⟩ ∧
    s.ownData (issuedOwn s) .done = some [0] ∧ ([0] : List Byte) ≠ [0x5A] := by decide +kernel

/-- Image counts 0, 1, 10 and 11, the bounds of the two clauses. -/
theorem test_note_head : let s (n : Byte) := issue (poke (starting .readNoteHead block 0 []) 4097 [3, 0, 1, n]) .startupRead 4097 (.read 4)
    ∀ n : Byte, n ∈ [(0 : Byte), 1, 10, 11] →
      AtStartup (s n) startupReads (issuedOwn (s n)) ⟨.readNoteHead, false, block, 0, []⟩ ∧
      (s n).ownData (issuedOwn (s n)) .done = some [3, 0, 1, n] ∧ fieldAt [3, 0, 1, n] 3 1 = n.toNat ∧
      waiting (after (exec (.startupReadDone .done) (s n))) =
        (if 1 ≤ n.toNat ∧ n.toNat ≤ 10 then [.startupRead] else [.status, .startupWrite none]) := by decide +kernel

/-- The bytes of a note image of desk 31 whose run ends at the answer area's end. -/
def deskImageBytes : List Byte := [7, 0, 16, 0, 31, 0, 0, 0, 0, 1] ++ zeros 374

/-- An image of no kind, which passes no check. -/
def badImage : RawImage := parseImage (zeros 384)

/-- An image with others to read; the last one, as the first that passes, behind one that fails, and failing like all before it. -/
theorem test_image_reads :
    let s (c : Nat) (before : List RawImage) (bs : List Byte) :=
      issue (poke (starting (.readImage 0) block c before) 4160 bs) .startupRead 4160 (.read 384)
    let ends (before : List RawImage) (bs : List Byte) := after (exec (.startupReadDone .done) (s 1 before bs))
    let g := parseImage deskImageBytes
    (∀ c : Nat, c ∈ [1, 2] → AtStartup (s c [] deskImageBytes) startupReads (issuedOwn (s c [] deskImageBytes))
        ⟨.readImage 0, false, block, c, []⟩ ∧
      (s c [] deskImageBytes).ownData (issuedOwn (s c [] deskImageBytes)) .done = some deskImageBytes) ∧
    ready.imageTarget g = some (.desk 31) ∧ ready.imageTarget badImage = none ∧ [badImage] ++ [g] = [badImage] ++ g :: [] ∧
    waiting (ends [] deskImageBytes) = [.startupWrite (some 31)] ∧
    waiting (ends [badImage] deskImageBytes) = [.status, .startupWrite (some 31)] ∧ (ends [badImage] deskImageBytes).loader.faults = 1 ∧
    waiting (ends [badImage] (zeros 384)) = [.status, .status, .startupWrite none] ∧ (ends [badImage] (zeros 384)).loader.faults = 2 ∧
    waiting (after (exec (.startupReadDone .done) (s 2 [] deskImageBytes))) = [.startupRead] := by decide +kernel

/-- The answer states 0 to 5 of a desk before the last, and of the last. -/
theorem test_desk_scan :
    let s (n : StreamId) (x : Byte) :=
      issue (poke (starting (.scanDesk n) block 0 []) (deskAddr n 528) [x]) .startupRead (deskAddr n 528) (.read 1)
    ∀ n : StreamId, n ∈ [(0 : StreamId), 31] → ∀ x : Byte, x ∈ [(0 : Byte), 1, 2, 3, 4, 5] →
      AtStartup (s n x) startupReads (issuedOwn (s n x)) ⟨.scanDesk n, false, block, 0, []⟩ ∧
      (s n x).ownData (issuedOwn (s n x)) .done = some [x] ∧
      ((after (exec (.startupReadDone .done) (s n x))).stream n).answer =
        (if x = 1 ∨ x = 2 ∨ x = 3 then .fresh else if x = 4 then .seen else .empty) := by decide +kernel

/-- Failures: of the status word, of the stamp, of a note read the first and the second time, of the scan. -/
theorem test_startup_failures :
    let s (p : StartStep) (r : Bool) : State :=
      issue (withJob (inPart ready .starting) (.startup ⟨p, r, block, 1, []⟩)) .startupRead 0 (.read 1)
    (∀ p : StartStep, p ∈ [.readSetup .status, .readSetup .calendar, .readStamp, .readNoteState, .scanDesk 31] →
      ∀ r : Bool, AtStartup (s p r) startupReads (issuedOwn (s p r)) ⟨p, r, block, 1, []⟩) ∧
    noteReadOf .readNoteState = some (4096, 1) ∧ noteReadOf .readNoteHead = some (4097, 4) ∧
    noteReadOf (.readImage 9) = some (7616, 384) ∧
    (after (exec .startupReadTimeout (s (.readSetup .status) false))).loader.faults = 1 ∧
    (after (exec .startupReadTimeout (s .readNoteState false))).engine.running = true ∧
    (after (exec .startupReadTimeout (s .readNoteState true))).engine.running = false := by decide +kernel

/-- A start-up write of desk 31's answer area is downstream, tried once or twice. -/
def startWrite (p : StartStep) (images : List RawImage) (retried : Bool) : State :=
  issue (withJob (inPart ready .starting) (.startup ⟨p, retried, block, 2, images⟩)) (.startupWrite (some 31)) 4096
    (.write (lanes [1, 2]))

/-- A replay write with an image to come, behind one that fails, with none that passes, and with none; the CLEAR write; a write of the scan and a
session word, before the last and the last. -/
theorem test_startup_writes :
    let g : RawImage := parseImage deskImageBytes
    let s (p : StartStep) := startWrite p [g, badImage, g, badImage] false
    let t (p : StartStep) := after (exec (.startupWriteDone .done) (s p))
    (∀ p : StartStep, p ∈ [.writeImage 0, .writeImage 1, .writeImage 2, .writeImage 3, .clearNote, .answerDesk 30, .answerDesk 31,
        .writeSession 30, .writeSession 31] → ∀ r : Bool,
      AtStartup (startWrite p [g, badImage, g, badImage] r) startupWrites (issuedOwn (s p)) ⟨p, r, block, 2, [g, badImage, g, badImage]⟩ ∧
      (issuedOwn (s p)).req.tag = .startupWrite (some 31) ∧ (issuedOwn (s p)).req.body = .write (lanes [1, 2])) ∧
    [g, badImage, g, badImage].drop (0 + 1) = [badImage] ++ g :: [badImage] ∧
    [g, badImage, g, badImage].drop (1 + 1) = [] ++ g :: [badImage] ∧ [g, badImage, g, badImage].drop (2 + 1) = [badImage] ∧
    waiting (t (.writeImage 0)) = [.status, .startupWrite (some 31)] ∧ (t (.writeImage 0)).loader.faults = 1 ∧
    (t (.writeImage 0)).mem.read 4097 = 2 ∧ waiting (t (.writeImage 1)) = [.startupWrite (some 31)] ∧
    waiting (t (.writeImage 2)) = [.status, .startupWrite none] ∧ waiting (t (.writeImage 3)) = [.startupWrite none] ∧
    waiting (t .clearNote) = [.startupRead] ∧ waiting (t (.answerDesk 30)) = [.startupRead] ∧
    waiting (t (.answerDesk 31)) = [.startupWrite none] ∧ waiting (t (.writeSession 30)) = [.startupWrite none] ∧
    waiting (t (.writeSession 31)) = [.startupStatus, .sweepRead] ∧ (t (.writeSession 31)).loader.part = .ready := by decide +kernel

/-- The same writes answered error: a replay write leaves a first part and is raised once more, a second error halts; CLEAR, the scan and the session words
leave memory as it was. -/
theorem test_startup_write_errors :
    let g : RawImage := parseImage deskImageBytes
    let t (p : StartStep) (r : Bool) := after (exec (.startupWriteDone (.error 1)) (startWrite p [g, badImage] r))
    waiting (t (.writeImage 0) false) = [.startupWrite (some 31)] ∧ (t (.writeImage 0) false).mem = [(4096, 1)] ∧
    (t (.writeImage 0) false).loader.faults = 0 ∧ waiting (t .clearNote false) = [.startupWrite (some 31)] ∧
    (t .clearNote false).mem = [] ∧ (t .clearNote true).mem = [] ∧ (t (.writeImage 0) true).mem = [(4096, 1)] ∧
    (∀ p : StartStep, p ∈ [.writeImage 0, .clearNote] → (t p true).engine.running = false ∧
      (t p true).engine.inFlight = [.desk 31] ∧ (t p true).sweep.stopped = true ∧ waiting (t p true) = [.startupRead]) ∧
    (∀ p : StartStep, p ∈ [.answerDesk 30, .answerDesk 31, .writeSession 30, .writeSession 31] →
      (t p false).mem = [] ∧ (t p false).loader.faults = 1) ∧
    (t (.writeSession 31) false).loader.part = .ready ∧
    (let s := issue ready .startupStatus Config.statusOff (.write (lanes [1]));
      s.pullOwn startupWrites = some (issuedOwn s) ∧
      (after (exec (.startupWriteDone .done) s)).mem = [(3872, 1)] ∧ (after (exec (.startupWriteDone (.error 1)) s)).mem = []) := by
  decide +kernel

/-- The sweep loaded against today, day 600: a pass done, one to resume, one of an older day, and none begun. -/
theorem test_sweep_load :
    let m (swept day : Nat) (p : SweepPhase) : Summary :=
      { emptySummary 1024 0 with sweptThrough := swept, target := day, phase := p, position := 7, skipped := 5 }
    let x (m : Summary) := (poke (startWrite (.writeSession 31) [] false) 8192 (sumRec m)).sweepLoad.sweep
    (poke ready 8192 (sumRec (m 600 599 .holds))).mem.bytes (ready.base + 8192) 80 = sumRec (m 600 599 .holds) ∧
    (x (m 600 600 .holds)).phase = .idle ∧ (x (m 600 600 .holds)).sweptThrough = 600 ∧ (x (m 600 600 .holds)).skipped = 5 ∧
    (x (m 599 600 .holds)).phase = .holds ∧ (x (m 599 600 .holds)).position = 7 ∧ (x (m 599 599 .holds)).phase = .items ∧
    (x (m 599 599 .holds)).position = 0 ∧ (x (m 599 600 .idle)).phase = .items := by decide +kernel

/-- What an image names, at the bounds of its checks, and how a replayed record is written. -/
theorem test_image_targets :
    let g (kind index run length : Nat) : RawImage := ⟨kind, run, index, length, List.replicate 368 7⟩
    [g 0 0 0 0, g 8 0 0 0, g 6 0 0 80, g 7 31 0 272, g 7 31 1 272, g 7 32 0 16, g 1 1023 0 256, g 1 1024 0 256, g 5 1023 0 64,
      g 5 1024 0 64].map ready.imageTarget =
      [none, none, some .summary, some (.desk 31), none, none, some (.record .patrons 1023), none, some (.record .holds 1023), none] ∧
    (ready.replayWrite (g 4 2 0 64) (.record .items 2)).1 = 606336 ∧
    ((ready.replayWrite (g 4 2 0 64) (.record .items 2)).2.length = 64 ∧
      (ready.replayWrite (g 4 2 0 64) (.record .items 2)).2[7]? = some ⟨false, 7⟩ ∧
      (ready.replayWrite (g 4 2 0 64) (.record .items 2)).2[8]? = some ⟨true, 7⟩) := by decide +kernel

/-! ## The path -/

/-- Accepted: a read that crosses 4 KiB, and one that ends exactly at the boundary. -/
theorem test_request_crosses : ready.accepts (readReq 0 69624 2) = true ∧ (readReq 0 69624 2).crosses = true ∧
    (readReq 0 69624 1).crosses = false ∧
    (after (exec (.upstreamRequest (readReq 0 69624 2)) ready)).path.returned.map (fun x => x.answer.ok) = [false] := by
  decide +kernel

/-- Held for start-up: the list with 31 entries takes its 32nd and is full; with 30 it takes its 31st and is not. -/
def holding : State :=
  { inPart ready .starting with
    path := { ready.path with holdList := (List.range 31).map (fun k => ⟨k, readReq 3 65536 1⟩) } }

theorem test_start_up_hold : holding.accepts (readReq 0 65536 1) = true ∧ (readReq 0 65536 1).crosses = false ∧
    holding.inAperture (readReq 0 65536 1) = true ∧ holding.loader.part = .starting ∧ holding.path.holdList.length = 31 ∧
    (after (exec (.upstreamRequest (readReq 0 65536 1)) holding)).path.holdFull = true ∧
    (let s := { holding with path := { holding.path with holdList := holding.path.holdList.drop 1 } };
      s.accepts (readReq 0 65536 1) = true ∧ s.path.holdList.length = 30 ∧
      (after (exec (.upstreamRequest (readReq 0 65536 1)) s)).path.holdList.length = 31 ∧
      (after (exec (.upstreamRequest (readReq 0 65536 1)) s)).path.holdFull = false) := by decide +kernel
theorem test_not_accepted : State.reset.accepts (readReq 0 65536 1) = false ∧ StreamsSettled State.reset := by
  refine ⟨by decide +kernel, ?_⟩; unfold StreamsSettled; decide +kernel

/-- A DESK's write over two guarded bytes, a KIOSK's that loses all, a read, and a write outside the aperture. -/
theorem test_requests_go_on :
    let w := writeReq 1 65616 (lanes [1, 2, 3, 4, 5, 6, 7, 8])
    let k := writeReq 0 65616 (lanes [1, 2, 3, 4, 5, 6, 7, 8])
    (∀ r : Request, r ∈ [w, k, readReq 0 65536 1, writeReq 0 1073741824 (lanes (zeros 8))] →
      Admitted ready r ∧ NoClosePending ready r.stream) ∧
    (ready.guardLanes w).map (·.strobe) = [true, true, true, true, false, false, false, false] ∧
    ready.losesByte w = true ∧ ((ready.guardLanes k).any (·.strobe)) = false ∧ ready.losesByte k = true ∧
    ready.inAperture (writeReq 0 1073741824 (lanes (zeros 8))) = false ∧ ready.inAperture w = true := by decide +kernel

/-- Byte classes at the bounds of the fixed areas, of a desk's parts and of the setup words. -/
theorem test_area_bounds :
    [3839, 3840, 3847, 3848, 3856, 3864, 3871, 3872, 3879, 3880, 4095].map (classify (some regionsOf)) =
      [SetupWord.other, .calendar, .calendar, .apply, .format, .warmReset, .warmReset, .status, .status, .other, .other].map
        AreaClass.setup ∧
    [4096, 8191, 8192, 16383, 49152, 65535, 737280].map (classify (some regionsOf)) =
      [.note, .note, .summary, .summary, .spare, .spare, .spare] ∧
    [0, 511, 512, 519, 520, 527, 528, 799, 800, 807, 808, 1023].map (fun d => classify none (deskAddr 31 d)) =
      [DeskPart.slot 0, .slot 15, .closeWord, .closeWord, .cancelWord, .cancelWord, .answer, .answer, .session, .session,
        .spare, .spare].map (AreaClass.desk 31) ∧
    [65536, 65617, 327679, 327680, 671744, 737279].map (classify (some regionsOf)) =
      [.record .patrons 0 0, .record .patrons 0 81, .record .patrons 1023 255, .record .cards 0 0, .record .holds 0 0,
        .record .holds 1023 63] := by decide +kernel

/-- The Guard's clauses: each verdict by grade, part state and field, and a mark byte with and without company. -/
theorem test_guard_clauses :
    ready.guardGrade 0 = some .kiosk ∧ ready.guardGrade 1 = some .desk ∧ ready.guardGrade 2 = some .supervisor ∧
    ready.guardGrade 31 = none ∧ ready.verdict 2 3839 = .pass none ∧ ready.verdict 1 3839 = .lost ∧
    (inPart ready .unset).verdict 0 0 = .pass none ∧ ready.verdict 2 3872 = .lost ∧
    ready.verdict 0 (deskAddr 0 0) = .pass none ∧ ready.verdict 0 (deskAddr 1 0) = .lost ∧
    ready.verdict 0 (deskAddr 0 528) = .lost ∧ ready.verdict 1 65616 = .pass (some (.patrons, 0)) ∧
    ready.verdict 1 65617 = .mark .patrons 0 ∧ ready.verdict 1 65620 = .lost ∧
    (inPart ready .formatting).verdict 1 65616 = .lost ∧
    (ready.guardLanes (writeReq 1 65616 (lanes [9, 9, 9, 9, 9, 9, 9, 9]))).map (·.value) = [9, 0, 9, 9, 9, 9, 9, 9] ∧
    (ready.guardLanes (writeReq 1 65616 (noLane :: ⟨true, 9⟩ :: List.replicate 6 noLane))).any (·.strobe) = false := by
  decide +kernel

/-- Both slots hold a request; then one each. -/
def bothSlots (last : PortKind) : State :=
  { ready with path := { ready.path with
      upSlot := some ⟨5, readReq 0 65536 1⟩, ownSlot := some ⟨6, .note, 4097, .write (lanes [1]), none⟩
      raised := [⟨7, .note, 4098, .write (lanes [1]), none⟩], lastGranted := last } }

theorem test_arbiter : (bothSlots .own).inReset = false ∧
    (after (exec .arbiterGrant (bothSlots .own))).path.lastGranted = .upstream ∧
    (after (exec .arbiterGrant (bothSlots .upstream))).path.lastGranted = .own ∧
    ((after (exec .arbiterGrant (bothSlots .upstream))).path.ownSlot.map (·.serial)) = some 7 := by decide +kernel

theorem test_drain_answered : Answered (after (exec (.upstreamRequest (readReq 0 69624 2)) ready)) 10
    ⟨false, errorData 10 (readReq 0 69624 2)⟩ := Or.inl ⟨_, List.mem_singleton.mpr rfl, rfl, rfl⟩

theorem test_pass_through :
    let w := downstream ready (writeReq 0 1073741824 (lanes [1, 2, 3, 4, 5, 6, 7, 8]))
    let r := downstream ready (readReq 0 1073741824 1)
    (∀ s : State, s ∈ [w, r] → s.inReset = false ∧ s.findUp 5 = some (issuedUp s) ∧
      s.inAperture (issuedUp s).up.req = false ∧ (issuedUp s).up.tag = 5 ∧ ∃ o ∈ s.path.outstanding, o.tag = 5) ∧
    (after (exec (.passThroughResponse 5 .done) w)).mem.read 1073741825 = 2 ∧
    readData r.mem 1073741824 8 (issuedUp r).snapshot .done = some (zeros 8) := by decide +kernel

theorem test_aperture_write : let s := downstream ready (writeReq 1 65536 (lanes [1, 2, 3, 4, 5, 6, 7, 8]))
    WriteDownstream s 5 (issuedUp s) ∧ (issuedUp s).up.tag = 5 ∧ s.observed (issuedUp s).up.req = false ∧
    NoOwnWriteHolds s 5 ∧ s.mem.wf ∧ (∃ o ∈ s.path.outstanding, o.tag = 5) ∧
    (after (exec (.apertureWriteResponse 5 .done) s)).mem.read 65543 = 8 ∧
    (after (exec (.apertureWriteResponse 5 (.error 2)) s)).mem.read 65538 = 0 := by decide +kernel

/-- A KIOSK reads the mark byte of the first patron record: MASKED. -/
theorem test_marked_read : let s := downstream claimed (readReq 0 65616 1)
    ReadDownstream s 5 (issuedUp s) ∧ (issuedUp s).up.tag = 5 ∧ s.coversAnswerState (issuedUp s).up.req = false ∧
    (∃ o ∈ s.path.outstanding, o.tag = 5) ∧ readData s.mem 65616 8 (issuedUp s).snapshot .done = some (zeros 8) ∧
    ((after (exec (.readDataArrival 5 .done) s)).path.returned.map (fun x => x.answer.data)) = [[0, 4, 0, 0, 0, 0, 0, 0]] := by
  decide +kernel

/-- The mark's four cases, and the two sides of R15 for a patron, a card, an item and a hold. -/
theorem test_mark_cases :
    let it : State := poke claimed (606208 + 12) (leBytes 4 2)
    (inPart claimed .formatting).markOf 0 0 [] [] .cards 0 = .stale ∧
    claimed.markOf 0 0 [] [.record .items 0] .items 0 = .stale ∧ claimed.markOf 0 0 [] [] .patrons 2 = .elsewhere ∧
    claimed.markOf 0 0 [] [] .patrons 3 = .masked ∧ claimed.markOf 0 0 [] [] .patrons 1 = .clear ∧
    claimed.markOf 1 0 [] [] .patrons 3 = .clear ∧ it.markOf 0 0 [] [] .items 0 = .masked ∧
    it.seenOpt 0 [] (it.base + it.targetOff (.record .items 0) + 12) = some 2 ∧
    (it.stream 1).session ≠ .off ∧ (it.stream 31).session = .off ∧
    it.returnedByte 0 0 [] [] 606220 7 = 0xFF ∧ it.returnedByte 0 0 [] [] 606224 7 = 7 ∧
    it.returnedByte 31 0 [] [] 65615 7 = 0 ∧ it.returnedByte 31 0 [] [] 65618 7 = 7 ∧
    it.returnedByte 1 0 [] [] 606220 7 = 7 ∧ it.returnedByte 0 0 [] [] 327680 7 = 0 := by decide +kernel

/-- FRESH read by its owner, and the same read with an answer write pending. -/
theorem test_answer_read :
    let f : State := (poke claimed (deskAddr 0 528) [3]).updStream 0 (fun t => { t with answer := .fresh })
    let s := downstream f (readReq 0 (deskAddr 0 528) 1)
    ReadDownstream s 5 (issuedUp s) ∧ (issuedUp s).up.tag = 5 ∧ s.coversAnswerState (issuedUp s).up.req = true ∧
    (∃ o ∈ s.path.outstanding, o.tag = 5) ∧
    readData s.mem (deskAddr 0 528) 8 (issuedUp s).snapshot .done = some [3, 0, 0, 0, 0, 0, 0, 0] ∧
    (s.stream 0).answer = .fresh ∧ (issuedUp s).answerPending = false ∧
    (s.stream 0).answersRaised = (issuedUp s).answersAtIssue ∧
    ((after (exec (.answerStateRead 5 .done) s)).stream 0).answer = .seen ∧
    ((after (exec (.answerStateRead 5 .done) (downstream claimed (readReq 0 (deskAddr 0 528) 1)))).stream 0).answer = .empty := by
  decide +kernel

/-- Requests held aside and held for start-up, behind a request 5 of stream 0 that closes a batch or does not. -/
def heldBack (aside hold : List UpReq) (closing : Bool) : State :=
  { ready with path := { ready.path with
      aside := aside, holdList := hold, holdFull := true, outstanding := [⟨5, 0, closing, false, none⟩] } }

/-- What waits for the slot: nothing while it is taken; a request held aside before the hold list; the list's head, or one behind its stream's own; none.
And a request that joins the ones held aside, with the idle timer of its stream. -/
theorem test_held_back :
    let u (n tag : Nat) : UpReq := ⟨tag, readReq n 65536 1⟩
    let taken : State := { heldBack [u 0 7] [u 3 8] false with path := { (heldBack [u 0 7] [u 3 8] false).path with upSlot := some (u 4 9) } }
    let idle : State := { claimed.updStream 0 (fun t => { t with idleTimer := some 5 }) with
      path := { ready.path with outstanding := [⟨5, 0, true, false, none⟩] } }
    let after0 := after (exec (.upstreamRequest (readReq 0 65536 1)) idle)
    taken.drain = taken ∧ (heldBack [u 0 7] [] true).closePending (u 0 7) = true ∧
    (heldBack [u 0 7] [u 3 8] false).drain.path.upSlot = some (u 0 7) ∧ (heldBack [u 0 7] [u 3 8] false).drain.path.holdList = [u 3 8] ∧
    (heldBack [u 0 7] [u 3 8] true).drain.path.upSlot = some (u 3 8) ∧ (heldBack [u 0 7] [u 3 8] true).drain.path.holdFull = false ∧
    (heldBack [u 0 7] [u 0 8] true).drain = heldBack [u 0 7] [u 0 8] true ∧ (heldBack [] [] true).drain.path.holdFull = false ∧
    (inPart (heldBack [] [u 0 8] true) .starting).drain = inPart (heldBack [] [u 0 8] true) .starting ∧
    Admitted idle (readReq 0 65536 1) ∧ after0.path.aside = [⟨10, readReq 0 65536 1⟩] ∧ after0.path.upSlot = none ∧
    (after0.stream 0).idleTimer = some 0 := by decide +kernel
theorem test_held_back_settled : StreamsSettled (claimed.updStream 0 (fun t => { t with idleTimer := some 5 })) := by
  unfold StreamsSettled; decide +kernel

/-- The table of these tests fits, as the classes of its records need. -/
theorem test_regions_fit : TableFits regionsOf := by
  refine ⟨?_, ?_⟩
  · intro r; cases r <;> (unfold RegionFits; decide)
  · intro r q; cases r <;> cases q <;> (unfold RegionsApart; decide)

/-- A read over the mark bytes of two items, one of them in the in-flight set since the issue, and a read answered error. -/
theorem test_marks_of_a_burst :
    let s := downstream claimed (readReq 0 606208 16)
    let t : State := { s with path := s.path.touch [.record .items 1] }
    let d := (after (exec (.readDataArrival 5 .done) t)).path.returned.flatMap (fun x => x.answer.data)
    claimed.markedRecords 606208 (zeros 128) = [(.items, 0), (.items, 1)] ∧ d.length = 128 ∧ d[7]? = some 4 ∧ d[71]? = some 2 ∧
    t.isStale (issuedUp t).touched .items 1 = true ∧
    ((after (exec (.readDataArrival 5 .done) t)).stream 0).watches = [⟨.items, 0, .unspoiled⟩, ⟨.items, 1, .spoiled⟩] ∧
    (after (exec (.readDataArrival 5 (.error 0)) t)).path.returned.map (fun x => (x.answer.ok, x.answer.data)) =
      [(false, zeros 128)] := by decide +kernel

/-- The same read in part states where Desk Capture does not act, of a desk whose burst covers no record, answered error; and the attention line. -/
theorem test_answer_read_stops :
    let f : State := (poke claimed (deskAddr 0 528) [3]).updStream 0 (fun t => { t with answer := .fresh })
    let s (p : PartState) := inPart (downstream f (readReq 0 (deskAddr 0 528) 1)) p
    ((after (exec (.answerStateRead 5 .done) (s .formatting))).stream 0).answer = .seen ∧
    ((after (exec (.answerStateRead 5 .done) (s .starting))).stream 0).answer = .fresh ∧
    ((after (exec (.answerStateRead 5 .done) (s .unset))).stream 0).answer = .fresh ∧
    (after (exec (.answerStateRead 5 .done) (s .ready))).path.returned.map (fun x => x.answer.data) = [[3, 0, 0, 0, 0, 0, 0, 0]] ∧
    (∀ j : Fin 8, classify (some regionsOf) (deskAddr 0 528 + j.val) = .desk 0 .answer) ∧
    (after (exec (.answerStateRead 5 (.error 0)) (s .ready))).path.returned.map (fun x => (x.answer.ok, x.answer.data)) =
      [(false, zeros 8)] ∧
    f.attentionLine = true ∧ (inPart f .unformatted).attentionLine = false ∧ claimed.attentionLine = false ∧
    ((claimed.updStream 2 (fun t => { t with answer := .fresh })).attentionLine) = false := by decide +kernel

/-! ## Watches and desks -/

/-- A list of seven watches, and one of eight, with a record watched and one not. -/
theorem test_watch_bounds :
    let ws (n : Nat) : List Watch := (List.range n).map (fun k => ⟨.items, k, .unspoiled⟩)
    let s (n : Nat) : State := claimed.updStream 0 (fun t => { t with watches := ws n })
    ((s 7).stream 0).watches.length = 7 ∧ ((s 8).stream 0).watches.length = 8 ∧
    (((s 7).handOffRecord 0 true (.titles, 3)).stream 0).watches.getLast? = some ⟨.titles, 3, .spoiled⟩ ∧
    (((s 8).handOffRecord 0 false (.titles, 3)).stream 0).watches.head? = some ⟨.items, 1, .unspoiled⟩ ∧
    (((s 8).handOffRecord 0 false (.items, 3)).stream 0).watches.getLast? = some ⟨.items, 3, .unspoiled⟩ ∧
    (((s 8).handOffRecord 0 false (.patrons, 1)).stream 0).watches.getLast? = some ⟨.patrons, 1, .unspoiled⟩ ∧
    (((s 7).handOffRecord 0 false (.patrons, 2)).stream 0).watches.length = 7 ∧
    (((s 7).handOffRecord 3 false (.items, 9)).stream 3).watches = [] := by decide +kernel

/-- A slot with its code is correct by both tests; with one bit changed by neither. -/
theorem test_check_code :
    let bs := coded (slotOf 10 0 5 0 0 0 0 0 0)
    bs.length = 32 ∧ checkCorrect bs = true ∧ checkCode bs = 0#16 ∧
    checkCorrect (1 :: bs.tail) = false ∧ checkCode (1 :: bs.tail) ≠ 0#16 := by decide +kernel

/-- Slot 0 of stream 0 captured whole: a batch is open. -/
def collecting (bs : List Byte) : State := claimed.slotWrite 0 ((List.range 32).zip bs)

def goodSlot : List Byte := coded (slotOf 10 0 5 0 0 0 0 0 0)

/-- A write of the close word's count byte. -/
def closeReq (n count : Nat) : Request :=
  writeReq n (16384 + 1024 * n + 512) (⟨true, BitVec.ofNat 8 count⟩ :: List.replicate 7 noLane)

def batchIn (s : State) (b : BatchState) : State := s.updStream 0 (fun t => { t with batch := b })

theorem test_close_checks :
    (inPart claimed .formatting).closeVerdict 0 1 = .refused .notReady ∧
    (claimed.updStream 3 (fun t => { t with session := .barred })).closeVerdict 3 1 = .refused .barred ∧
    (batchIn claimed .queued).closeVerdict 0 0 = .ignored ∧ (batchIn claimed .settling).closeVerdict 0 17 = .ignored ∧
    (collecting goodSlot).closeVerdict 0 0 = .refused .badClose ∧ (collecting goodSlot).closeVerdict 0 17 = .refused .badClose ∧
    (collecting goodSlot).closeVerdict 0 16 = .refused .short ∧ (collecting goodSlot).closeVerdict 0 1 = .taken ∧
    ((collecting goodSlot).slotWrite 0 [(31, 0)]).closeVerdict 0 1 = .refused .torn ∧
    (collecting (slotOf 10 0 5 0 0 0 0 0 0)).closeVerdict 0 1 = .refused .check ∧
    ({ collecting goodSlot with engine := { Engine.reset with running := false } } : State).closeVerdict 0 1 =
      .refused .halted := by decide +kernel

/-- A write of slot word 0 whole and of word 1 in part, on an IDLE and a COLLECTING batch, and one not taken. -/
theorem test_slot_write :
    let r := writeReq 0 16384 (lanes [1, 2, 3, 4, 5, 6, 7, 8, 9] ++ List.replicate 7 noLane)
    (∀ b : BatchState,
      let s := downstream (batchIn claimed b) r
      WriteDownstream s 5 (issuedUp s) ∧ (issuedUp s).up.tag = 5 ∧ s.coversSlots r = true ∧ s.coversClose r = false ∧
      s.coversCancel r = false ∧ NoSetupWord s r ∧ NoOwnWriteHolds s 5 ∧ ∃ o ∈ s.path.outstanding, o.tag = 5) ∧
    (let t := (after (exec (.entrySlotWrite 5 .done) (downstream claimed r))).stream 0;
      t.batch = .collecting ∧ t.collectTimer = some 0 ∧ t.idleTimer = none ∧ flagAt t.written 0 = true ∧
      flagAt t.torn 1 = true ∧ flagAt t.written 1 = false ∧ t.captured.read 8 = 9) := by
  refine ⟨?_, by decide +kernel⟩
  intro b
  cases b <;> decide +kernel

/-- The hypotheses of a close, and what it leads to, for a slot with its code, one without, and a batch already queued. -/
theorem test_close :
    let s (b : State) := downstream b (closeReq 0 1)
    let ok := s (collecting goodSlot)
    let bad := s (collecting (slotOf 10 0 5 0 0 0 0 0 0))
    let queued := s (batchIn claimed .queued)
    (∀ s : State, s ∈ [ok, bad, queued] → WriteDownstream s 5 (issuedUp s) ∧ (issuedUp s).up.tag = 5 ∧
      countByte (s.deskCells 0 (issuedUp s).up.req) = some 1 ∧ s.coversCancel (issuedUp s).up.req = false ∧
      NoSetupWord s (issuedUp s).up.req ∧ NoOwnWriteHolds s 5 ∧ (∃ o ∈ s.path.outstanding, o.tag = 5) ∧
      s.loader.part ≠ .unset) ∧
    (ok.slotsTaken (issuedUp ok)).closeVerdict 0 1 = .taken ∧ (bad.slotsTaken (issuedUp bad)).closeVerdict 0 1 = .refused .check ∧
    (queued.slotsTaken (issuedUp queued)).closeVerdict 0 1 = .ignored ∧
    (after (exec (.closeWord 5 .done) ok)).queue = [0] ∧
    ((after (exec (.closeWord 5 .done) bad)).stream 0).checkFails = 1 ∧
    ((after (exec (.closeWord 5 .done) queued)).stream 0).guardHits = 1 := by decide +kernel

/-- A CHECK refusal below the limit of 3 and at it: at it the stream is BARRED. -/
theorem test_check_limit :
    let s (n : Nat) := downstream ((collecting (slotOf 10 0 5 0 0 0 0 0 0)).updStream 0 (fun t => { t with checkFails := n })) (closeReq 0 1)
    ((after (exec (.closeWord 5 .done) (s 1))).stream 0).session = .claimed 1 ∧
    ((after (exec (.closeWord 5 .done) (s 2))).stream 0).session = .barred := by decide +kernel

/-- A write of the cancel word on each batch state; with the close word beside it the response waits for the refusal's answer. -/
theorem test_cancel :
    let r := writeReq 0 (deskAddr 0 520) (⟨true, 0⟩ :: List.replicate 7 noLane)
    let both := downstream claimed (writeReq 0 (deskAddr 0 512) (lanes [1] ++ List.replicate 7 noLane ++ lanes (zeros 8)))
    (∀ b : BatchState, let s := downstream (batchIn claimed b) r
      WriteDownstream s 5 (issuedUp s) ∧ (issuedUp s).up.tag = 5 ∧ s.coversCancel r = true ∧ NoSetupWord s r ∧
      (∃ o ∈ s.path.outstanding, o.tag = 5) ∧ s.loader.part ≠ .unset ∧
      ((s.closeWordTaken (issuedUp s)).stream 0).batch = b ∧ NoOwnWriteHolds (s.closeWordTaken (issuedUp s)) 5) ∧
    ((both.closeWordTaken (issuedUp both)).stream 0).batch = .idle ∧
    ¬NoOwnWriteHolds (both.closeWordTaken (issuedUp both)) 5 ∧
    ((after (exec (.cancelWord 5 .done) (downstream (batchIn claimed .settling) r))).stream 0).cancelAsked = true := by
  refine ⟨?_, by decide +kernel, by decide +kernel, by decide +kernel⟩
  intro b
  cases b <;> decide +kernel

/-- Desk writes answered error: handed to no block. -/
theorem test_desk_write_errors :
    let slot := downstream claimed (writeReq 0 16384 (lanes [1, 2, 3, 4, 5, 6, 7, 8]))
    let close := downstream claimed (closeReq 0 1)
    let cancel := downstream claimed (writeReq 0 (deskAddr 0 520) (⟨true, 0⟩ :: List.replicate 7 noLane))
    (∀ s : State, s ∈ [slot, close, cancel] → WriteDownstream s 5 (issuedUp s) ∧ (issuedUp s).up.tag = 5 ∧
      ∃ o ∈ s.path.outstanding, o.tag = 5) ∧
    slot.coversSlots (issuedUp slot).up.req = true ∧ close.coversClose (issuedUp close).up.req = true ∧
    cancel.coversCancel (issuedUp cancel).up.req = true ∧
    (after (exec (.entrySlotWrite 5 (.error 2)) slot)).mem = [(16384, 1), (16385, 2)] ∧
    (after (exec (.entrySlotWrite 5 (.error 2)) slot)).streams = slot.streams ∧
    (after (exec (.closeWord 5 (.error 0)) close)).path.returned.map (fun x => x.answer.ok) = [false] ∧
    (after (exec (.cancelWord 5 (.error 0)) cancel)).streams = cancel.streams := by decide +kernel

/-! ## Own writes and timers -/

/-- A session-word write and a status write, which no response waits for. -/
def ownWrite (tag : OwnTag) : State := issue ready tag (deskAddr 0 800) (.write (lanes [1]))

theorem test_own_write : ∀ tag : OwnTag, tag ∈ [.sessionWord 0, .status] → (ownWrite tag).inReset = false ∧
    (ownWrite tag).pullOwn (fun q => decide (q.serial = 6) && routineWrite q) = some (issuedOwn (ownWrite tag)) ∧
    (issuedOwn (ownWrite tag)).req.body = .write (lanes [1]) ∧ (issuedOwn (ownWrite tag)).req.holds = none ∧
    (issuedOwn (ownWrite tag)).req.tag = tag ∧
    (after (exec (.ownWriteResponse 6 (.error 1)) (ownWrite tag))).loader.faults = (if tag = .status then 0 else 1) := by
  decide +kernel

/-- A session-word write, and an answer write, that the response of request 5 waits for. -/
theorem test_held_response :
    let w (tag : OwnTag) := issue (downstream ready (closeReq 0 1)) tag (deskAddr 0 528) (.write (lanes [1])) (some 5)
    (∀ tag : OwnTag, tag ∈ [.sessionWord 0, .answer 0] → (w tag).inReset = false ∧
      (issuedOwn (w tag)).req.body = .write (lanes [1]) ∧ (issuedOwn (w tag)).req.holds = some 5 ∧
      NoOwnWriteHolds ((w tag).dropOwn 6) 5 ∧ (∃ o ∈ (w tag).path.outstanding, o.tag = 5) ∧
      ∀ o ∈ (w tag).path.outstanding, o.tag = 5 → o.failed = false) ∧
    (w (.sessionWord 0)).pullOwn (fun q => decide (q.serial = 6) && routineWrite q) = some (issuedOwn (w (.sessionWord 0))) ∧
    (w (.answer 0)).pullOwn (fun q => decide (q.tag = .answer 0) && q.holds.isSome) = some (issuedOwn (w (.answer 0))) ∧
    ((after (exec (.answerWriteResponse 0 (.error 0)) (w (.answer 0)))).path.returned.map (fun x => x.answer.ok)) = [false] := by
  decide +kernel

theorem test_timers :
    let c : State := (collecting goodSlot).updStream 0 (fun t => { t with collectTimer := some 20 })
    (idleAtLimit.stream 0).session = .claimed 1 ∧ (idleAtLimit.stream 0).idleTimer = some 60 ∧
    idleAtLimit.loader.inForce = some setup ∧ setup.limits.idleLimit ≤ 60 ∧
    (c.stream 0).batch = .collecting ∧ (c.stream 0).collectTimer = some 20 ∧ setup.limits.collectLimit ≤ 20 ∧
    ((after (exec (.idleExpiry 0) idleAtLimit)).stream 0).session = .vacant ∧
    ((after (exec (.collectTimerExpiry 0) c)).stream 0).idleTimer = some 0 := by decide +kernel

/-! ## The engine -/

/-- The prefix at the bounds of its checks. -/
theorem test_prefix :
    let e (kind target : Nat) := parseEntry (slotOf kind target 0 0 0 0 0 0 0)
    claimed.commonChecks 0 (e 0 0) = .error .badKind ∧ claimed.commonChecks 0 (e 15 0) = .error .badKind ∧
    claimed.commonChecks 31 (e 1 0) = .error .grade ∧ claimed.commonChecks 0 (e 11 0) = .error .grade ∧
    claimed.commonChecks 1 (e 1 0) = .error .outOfTurn ∧ claimed.commonChecks 3 (e 3 0) = .error .noPatron ∧
    claimed.commonChecks 0 (e 3 1023) = .ok .lend ∧ claimed.commonChecks 0 (e 3 1024) = .error .badTarget ∧
    claimed.commonChecks 3 (e 1 1023) = .ok .claim ∧ claimed.commonChecks 2 (e 13 1023) = .ok .patronBar ∧
    claimed.commonChecks 0 (e 10 4294967295) = .ok .pay := by decide +kernel

def withRequests (s : State) (rs : List RequestKind) : State := { s with loader := { s.loader with requests := rs } }
def current (s : State) (b : CurrentBatch) : State := { s with engine := { s.engine with batch := some b } }
def offering (s : State) (o : Offer) (last : Turn) : State :=
  { s with sweep := { s.sweep with offer := some o }, engine := { s.engine with lastTurn := last } }
def queued : State := { batchIn claimed .queued with queue := [0] }

/-- The boundary: a request, a warm reset first, a cut batch, the sweep's turn, the batch's turn, the queue head, nothing. -/
theorem test_boundary :
    let cut := current claimed { batchOf 0 with cut := some .disabled }
    let sweepTurn := offering (current claimed (batchOf 0)) (.item 3) .batch
    let batchTurn := offering (settling (current claimed (batchOf 0)) 0 (slotOf 10 0 5 0 0 0 0 0 0)) (.item 3) .sweep
    (∀ s : State, s ∈ [withRequests ready [.apply], withRequests ready [.warmReset], cut, sweepTurn, batchTurn, queued, ready] →
      AtBoundary s setup) ∧
    (∀ b, cut.engine.batch = some b → b.cut.isSome = true) ∧
    waiting (after (exec .unitBoundary (withRequests ready [.apply]))) = [.setupRead] ∧
    (theUnit (after (exec .unitBoundary cut))).kind = .endBatch ∧
    (theUnit (after (exec .unitBoundary sweepTurn))).kind = .sweep (.item 3) ∧
    (theUnit (after (exec .unitBoundary batchTurn))).kind = .entry .pay ∧
    (after (exec .unitBoundary queued)).queue = [] := by decide +kernel

/-- The boundary before an entry: a cancel asked, an after-done entry behind a refusal, sub-units still to run. -/
theorem test_boundary_entries :
    let s (b : CurrentBatch) (flags : Nat) :=
      current (settling claimed 0 (slotOf 10 0 5 0 0 0 0 0 0 ++ slotOf 10 0 5 0 0 0 0 0 flags)) b
    let kindAfter (s : State) := (theUnit (after (exec .unitBoundary s))).kind
    AtBoundary (s (batchOf 0) 0) setup ∧
    kindAfter ((s (batchOf 0) 0).updStream 0 (fun t => { t with cancelAsked := true })) = .endBatch ∧
    kindAfter (s { batchOf 0 with next := 1 } 1) = .skip ∧ kindAfter (s { batchOf 0 with next := 1 } 0) = .entry .pay ∧
    kindAfter (s { batchOf 0 with next := 1, prevDone := true } 1) = .entry .pay ∧
    kindAfter (s { batchOf 0 with sub := .claim 1 [4] } 0) = .freshenSub ∧
    kindAfter (s { batchOf 0 with sub := .renew ⟨[(1, 4)], 0, 0, none⟩ } 0) = .renewalSub ∧
    kindAfter (s { batchOf 0 with sub := .renew ⟨[], 1, 0, none⟩ } 0) = .closing ∧
    kindAfter (current (settling claimed 0 (slotOf 15 0 5 0 0 0 0 0 0)) (batchOf 0)) = .refusal := by decide +kernel

/-- A PAY unit at its gather: the patron read, then the summary; a sweep unit at its gather. -/
def gathering (k : UnitKind) (o : Option StreamId) (t : Target) (g : List (Target × List Byte)) : State :=
  issue (deciding (settling claimed 0 (slotOf 10 0 5 0 0 0 0 0 0)) (batchOf 0) { unitOf k o 10 g with phase := .gather })
    (.gather t) 65792 (.read t.len)

theorem test_gather :
    let p := gathering (.entry .pay) (some 0) (.record .patrons 1) []
    let m := gathering (.entry .pay) (some 0) .summary [(.record .patrons 1, zeros 256)]
    let w := gathering (.sweep (.item 3)) none (.record .items 3) []
    GatherRead p (issuedOwn p) (.record .patrons 1) (theUnit p) setup ∧ GatherRead m (issuedOwn m) .summary (theUnit m) setup ∧
    GatherRead w (issuedOwn w) (.record .items 3) (theUnit w) setup ∧ (theUnit w).reported = true ∧
    (p.ownData (issuedOwn p) .done).isSome = true ∧
    waiting (after (exec (.gatherReadResponse .done) p)) = [.gather .summary] ∧
    (theUnit (after (exec (.gatherReadResponse .done) m))).phase = .decide ∧
    (theUnit (after (exec .gatherReadTimeout p))).kind = .fault ∧
    (after (exec .gatherReadTimeout w)).sweep.skipped = 1 := by decide +kernel

/-- A unit in a phase with a write of its own downstream and others to come. -/
def writing (p : Phase) (tag : OwnTag) (k : UnitKind) (changes : List Image) (more : List MemWrite) (redo : Bool) : State :=
  issue (deciding (settling claimed 0 (slotOf 10 0 5 0 0 0 0 0 0)) (batchOf 0)
    { unitOf k (some 0) 10 [] with phase := p, changes := changes, toWrite := more, redoUsed := redo })
    tag 4097 (.write (lanes [1]))

def endImage : Image := .desk ⟨0, some ⟨.fresh, .complete, 1, 0⟩, 0, []⟩

theorem test_note_and_apply :
    let more := [byteWrite .note 4098 [0]]
    let n (ws : List MemWrite) := writing .note .note (.entry .pay) [endImage] ws false
    let wr := writing .note .written (.entry .pay) [endImage] [] false
    let a (ws : List MemWrite) := writing .apply (.image (some 0)) (.entry .pay) [endImage] ws false
    (∀ ws : List MemWrite, ws ∈ [more, []] →
      UnitWrite (n ws) .note (fun t => decide (t = .note)) (issuedOwn (n ws)) (theUnit (n ws)) (lanes [1]) ∧
      UnitWrite (a ws) .apply isApplyTag (issuedOwn (a ws)) (theUnit (a ws)) (lanes [1])) ∧
    waiting (after (exec (.noteWriteDone .done) (n []))) = [.written] ∧
    (after (exec (.noteWriteDone .done) (n []))).engine.inFlight = [.desk 0] ∧
    UnitWrite wr .note (fun t => decide (t = .written)) (issuedOwn wr) (theUnit wr) (lanes [1]) ∧
    (theUnit (after (exec (.noteWriteDone .done) (n [])))).phase = .note ∧
    (theUnit (after (exec (.applyWriteDone .done) wr))).phase = .apply ∧
    waiting (after (exec (.applyWriteDone .done) wr)) = [.image (some 0)] ∧
    waiting (after (exec (.applyWriteDone (.error 0)) wr)) = [.status, .note] ∧
    waiting (after (exec (.applyWriteDone .done) (a []))) = [.clear] := by decide +kernel

theorem test_unit_end :
    let e := writing .clear .clear (.entry .pay) [endImage] [] false
    let w := writing .clear .clear (.sweep (.item 3)) [] [] false
    (∀ s : State, s ∈ [e, w] → UnitWrite s .clear (fun t => decide (t = .clear)) (issuedOwn s) (theUnit s) (lanes [1])) ∧
    headerOf (theUnit e).changes = some (0, ⟨.fresh, .complete, 1, 0⟩) ∧ headerOf (theUnit w).changes = none ∧
    ((after (exec (.unitEnd .done) e)).stream 0).batch = .idle ∧ ((after (exec (.unitEnd .done) e)).stream 0).answer = .fresh ∧
    (after (exec (.unitEnd .done) w)).sweep.position = 1 := by decide +kernel
theorem test_unit_end_settled : StreamsSettled (writing .clear .clear (.entry .pay) [endImage] [] false) := by
  unfold StreamsSettled; decide +kernel

/-- A first error before WRITTEN is answered, one after it, and a second. -/
theorem test_write_errors :
    let n := writing .note .note (.entry .pay) [endImage] [] false
    let a := writing .apply (.image (some 0)) (.entry .pay) [endImage] [] false
    let h := writing .clear .clear (.entry .pay) [endImage] [] true
    (issuedOwn n).req.tag = .note ∧ (issuedOwn a).req.tag ≠ .note ∧ (issuedOwn a).req.tag ≠ .written ∧
    (theUnit a).changes = endImage :: [] ∧ (theUnit h).redoUsed = true ∧
    (theUnit (after (exec (.noteWriteDone (.error 0)) n))).redoUsed = true ∧
    waiting (after (exec (.applyWriteDone (.error 0)) a)) = [.status, .image (some 0)] ∧
    (after (exec (.unitEnd (.error 0)) h)).engine.running = false ∧
    ((after (exec (.unitEnd (.error 0)) h)).stream 0).answer = .fresh := by decide +kernel

/-- A sweep unit whose pass was dropped and whose read then fails: the skip alone; and a RENEW of an item out of range reads no item. -/
theorem test_gather_dropped :
    let w := gathering (.sweep (.item 3)) none (.record .items 3) []
    let d : State := { w with engine := { w.engine with unit := w.engine.unit.map WorkUnit.unreported } }
    GatherRead d (issuedOwn d) (.record .items 3) (theUnit d) setup ∧ (theUnit d).reported = false ∧
    (after (exec .gatherReadTimeout d)).sweep = { d.sweep with skipped := 1 } ∧ (after (exec .gatherReadTimeout d)).engine.unit = none ∧
    (after (exec .gatherReadTimeout d)).loader.faults = 1 ∧
    (let s := entryUnit claimed 0 .renew (slotOf 5 1024 0 0 0 0 0 0 0) [];
      (theWork s).count .items = 1024 ∧ entryNeeds .renew (theCtx s) (theWork s) = [.record .patrons 1, .summary]) := by
  decide +kernel

/-- A halt with two more batches queued: stream 0's current batch, and those of streams 3 and 4. -/
theorem test_halt_queue :
    let h := writing .clear .clear (.entry .pay) [endImage] [] true
    let q (n : StreamId) (s : State) := s.updStream n (fun t => { t with batch := .queued, closedCount := 2, answer := .waiting })
    let s : State := { q 3 (q 4 h) with queue := [3, 4] }
    let t := after (exec (.unitEnd (.error 1)) s)
    UnitWrite s .clear (fun t => decide (t = .clear)) (issuedOwn s) (theUnit s) (lanes [1]) ∧ (theUnit s).redoUsed = true ∧
    haltFrom (theUnit s) (batchOf 0) = 1 ∧ (s.haltRecords 3 0).map (fun o => (o.entry, o.code)) = [(0, .halted), (1, .halted)] ∧
    s.haltRecords 0 1 = [] ∧ s.queue = [] ++ 3 :: [4] ∧ s.queue = [3] ++ 4 :: [] ∧
    t.queue = [] ∧ (t.stream 4).answer = .fresh ∧ t.engine.batch = none ∧ t.mem = s.mem.land 4097 (lanes [1]) (.error 1) ∧
    waiting t = [.status, .haltAnswer 0, .haltAnswer 3, .haltAnswer 3, .haltAnswer 4, .haltAnswer 4] := by decide +kernel

/-! ## Steps that units share -/

def workOf (g : List (Target × List Byte)) : Work := Work.start setup g

/-- Item 4 on loan to patron 1, due day 590 with grace 1 at 25 cents: nine days by day 600, and the bounds of the clauses. -/
theorem test_freshen :
    let w (charged : Nat) := workOf
      [(.record .items 4, itemRec (lentItem 7 1 590 charged)), (.record .patrons 1, patronRec (patronOf 0 [4])),
        (.summary, sumRec sumOf)]
    ((w 580).item 4).state = .onLoan ∧ ((w 580).item 4).charged = some 580 ∧ ((w 580).item 4).due = some 590 ∧
    ((w 580).item 4).borrower = some 1 ∧ ((((w 580).freshen 600 4).patron 1).balance) = 225 ∧
    ((((w 599).freshen 600 4).patron 1).balance) = 25 ∧ ((w 600).freshen 600 4).images = [] ∧
    (workOf [(.record .items 4, itemRec (idleItem 7))]).item 4 ≠ lentItem 7 1 590 580 := by decide +kernel

/-- Title 7 with holds 11 (waiting, patron 1) and 12 (suspended to day 600, patron 2). -/
def queueOf : List (Target × List Byte) :=
  [(.record .titles 7, titleRec ⟨[4, 5], 2, some 11, some 12⟩),
    (.record .holds 11, encodeHold (holdOf .waiting 1 7 (some 12))),
    (.record .holds 12, encodeHold { holdOf .suspended 2 7 none with suspend := some 600 }),
    (.record .patrons 1, patronRec (patronOf 0 [])), (.summary, sumRec sumOf)]

theorem test_unlink : let w := workOf queueOf
    (w.title 7).first = some 11 ∧ predecessor 12 (w.queue 7) = some 11 ∧
    ((w.unlink 7 11).title 7).first = some 12 ∧ ((w.unlink 7 12).title 7).last = some 11 ∧
    ((w.unlink 7 12).hold 11).next = none ∧ ((w.free 11).hold 11).next = some 9 := by decide +kernel

/-- An offer on day 599 and 600: the second hold is ready on day 600 and not before; at the pickup branch and away from it. -/
theorem test_offer :
    let w (loc : Nat) := workOf ((.record .items 4, itemRec { idleItem 7 with loc := some loc }) :: queueOf)
    let only := workOf [(.record .items 4, itemRec (idleItem 7)), (.record .titles 7, titleRec ⟨[4], 1, some 12, some 12⟩),
      (.record .holds 12, encodeHold { holdOf .suspended 2 7 none with suspend := some 600 })]
    ((w 2).offer 600 4 7).2 = 2 ∧ ((w 3).offer 600 4 7).2 = 1 ∧ (only.offer 599 4 7).2 = 0 ∧ (only.offer 600 4 7).2 = 2 ∧
    ((w 2).item 4).circulates = true ∧ (w 2).idleCopy 7 4 = true ∧ (w 2).idleCopy 8 4 = false ∧
    (((w 2).seek 600 7).1.hold 11).state = .onShelf ∧ ((w 2).seek 600 8).2 = 0 := by decide +kernel

/-- A lapsed hold of patron 1 with no-show count 2 and limit 3: the expiry bans; with count 1 it does not; on its deadline it is not lapsed. -/
def shelved (deadline noShow : Nat) : List (Target × List Byte) :=
  [(.record .items 4, itemRec (asideItem 7 11)), (.record .holds 11, encodeHold (shelfHold 1 7 4 deadline)),
    (.record .patrons 1, patronRec { patronOf 0 [] with noShow := noShow }),
    (.record .titles 7, titleRec ⟨[4], 1, some 11, some 11⟩), (.summary, sumRec sumOf)]

theorem test_expiry :
    ((workOf (shelved 599 2)).item 4).state = .setAside ∧ ((workOf (shelved 599 2)).item 4).aside = some 11 ∧
    lapsed ((workOf (shelved 599 2)).hold 11) 600 = true ∧ lapsed ((workOf (shelved 600 2)).hold 11) 600 = false ∧
    ((workOf (shelved 599 2)).hold 11).title = some 7 ∧ ((workOf (shelved 599 2)).hold 11).patron = some 1 ∧
    (((workOf (shelved 599 2)).expireOnTouch 600 4).patron 1).ban = some 630 ∧
    (((workOf (shelved 599 1)).expireOnTouch 600 4).patron 1).noShow = 2 ∧
    (((workOf (shelved 599 2)).expireOnTouch 600 4).item 4).state = .available ∧
    ((workOf (shelved 600 2)).expireOnTouch 600 4).images = [] := by decide +kernel

/-! ## Entries -/

def cardRec (p state : Nat) : List Byte := leBytes 4 p ++ leBytes 1 state ++ zeros 11

/-- Stream `n` settles a CLAIM of card 8, which names patron `p`. -/
def claiming (s : State) (n : StreamId) (p state : Nat) : State :=
  entryUnit s n .claim (slotOf 1 8 0 0 0 0 0 0 0)
    [(.record .cards 8, cardRec p state), (.record .patrons p, patronRec (patronOf 35 [4]))]

/-- Stream 1, a DESK, gives up its claim, so that it may claim another patron. -/
def deskVacant : State := claimed.updStream 1 (fun t => { t with session := .vacant })

theorem test_claim :
    (∀ s : State, s ∈ [claiming ready 3 1023 0, claiming ready 3 1024 0, claiming ready 3 5 1, claiming ready 3 5 2,
      claiming deskVacant 1 1 0, claiming claimed 3 1 0] → Decides s (.entry .claim)) ∧
    ((claiming deskVacant 1 1 0).stream 1).session = .vacant ∧ ((claiming deskVacant 1 1 0).stream 0).session = .claimed 1 ∧
    (claiming deskVacant 1 1 0).grade 1 = some .desk ∧ (claiming deskVacant 1 1 0).grade 0 = some .kiosk ∧
    outcomeAfter (claiming ready 3 1023 0) .claim = some (.done, 1023, 35) ∧
    outcomeAfter (claiming ready 3 1024 0) .claim = some (.cardUnknown, 0, 0) ∧
    outcomeAfter (claiming ready 3 5 1) .claim = some (.cardLost, 0, 0) ∧
    outcomeAfter (claiming ready 3 5 2) .claim = some (.cardUnknown, 0, 0) ∧
    outcomeAfter (claiming deskVacant 1 1 0) .claim = some (.done, 1, 35) ∧
    outcomeAfter (claiming claimed 3 1 0) .claim = some (.inUse, 0, 0) := by decide +kernel
theorem test_takeover_unique : ClaimsUnique (claiming deskVacant 1 1 0) := claimsUnique_of (by decide +kernel)
theorem test_takeover : let t := after (exec .claim (claiming { batchIn deskVacant .queued with queue := [0] } 1 1 0))
    (t.stream 0).session = .vacant ∧ (t.stream 0).answer = .fresh ∧ t.queue = [] ∧ (t.stream 1).session = .claimed 1 := by
  decide +kernel

/-- A release, and reopens of stream 32, of the stream itself, of one not BARRED and of one that is. -/
theorem test_release_and_reopen :
    let barred := ready.updStream 3 (fun t => { t with session := .barred, checkFails := 3 })
    let r := entryUnit claimed 0 .release (slotOf 2 0 0 0 0 0 0 0 0) []
    let o (n : Nat) := entryUnit barred 2 .streamReopen (slotOf 14 n 0 0 0 0 0 0 0) []
    Decides r (.entry .release) ∧ (∀ n : Nat, n ∈ [2, 3, 4, 32] → Decides (o n) (.entry .streamReopen) ∧
      ((o n).unitEntry (theUnit (o n))).target = n) ∧
    outcomeAfter r .release = some (.done, 1, 0) ∧ outcomeAfter (o 32) .streamReopen = some (.badStream, 0, 0) ∧
    outcomeAfter (o 2) .streamReopen = some (.badStream, 0, 0) ∧ outcomeAfter (o 4) .streamReopen = some (.notBarred, 0, 0) ∧
    outcomeAfter (o 3) .streamReopen = some (.done, 3, 3) := by decide +kernel

/-- Stream 0's patron 1 acts on item 4. -/
def onItem (k : EntryKind) (c : Item) (p : Patron) (more : List (Target × List Byte)) : State :=
  entryUnit claimed 0 k (slotOf k.code 4 0 0 0 0 0 0 0)
    ([(.record .patrons 1, patronRec p), (.record .items 4, itemRec c), (.summary, sumRec sumOf)] ++ more)

/-- LEND at its bounds: balance 499 and 500, one and two loans, expiry today and yesterday. -/
theorem test_lend_checks :
    let o (p : Patron) := outcomeAfter (onItem .lend (idleItem 7) p []) .lend
    let p := patronOf 0 []
    Decides (onItem .lend (idleItem 7) p []) (.entry .lend) ∧
    o { p with balance := 499 } = some (.done, 621, 1) ∧ o { p with balance := 500 } = some (.fineBlock, 500, 500) ∧
    o { p with loans := [9] } = some (.done, 621, 2) ∧ o { p with loans := [8, 9] } = some (.loanLimit, 2, 2) ∧
    o { p with expiry := 600 } = some (.done, 621, 1) ∧ o { p with expiry := 599 } = some (.patronExpired, 599, 0) ∧
    o { p with bar := true } = some (.patronBarred, 0, 0) ∧
    outcomeAfter (onItem .lend { idleItem 7 with circulates := false } p []) .lend = some (.notCirculating, 0, 0) := by
  decide +kernel

/-- Check 6 of LEND: each row of its table. -/
theorem test_lend_states :
    let h (p pickup : Nat) (st : HoldState) : List (Target × List Byte) :=
      [(.record .holds 11, encodeHold { shelfHold p 7 4 605 with pickup := pickup, state := st }),
        (.record .titles 7, titleRec ⟨[4], 1, some 11, some 11⟩)]
    let o (c : Item) (m : List (Target × List Byte)) := outcomeAfter (onItem .lend c (patronOf 0 []) m) .lend
    o (lentItem 7 1 610 600) [] = some (.alreadyYours, 610, 0) ∧ o (lentItem 7 2 610 600) [] = some (.onLoan, 610, 0) ∧
    o (asideItem 7 11) (h 1 2 .onShelf) = some (.done, 621, 1) ∧ o (asideItem 7 11) (h 1 3 .onShelf) = some (.reserved, 3, 2) ∧
    o (asideItem 7 11) (h 1 2 .inTransit) = some (.reserved, 2, 1) ∧
    changesAfter (onItem .lend (asideItem 7 11) (patronOf 0 []) (h 1 2 .onShelf)) .lend =
      [.record .titles 7, .record .holds 11, .record .patrons 1, .record .items 4, .summary, .desk 0] := by decide +kernel

theorem test_return :
    let s (c : Item) := onItem .returnItem c (patronOf 0 [4]) queueOf
    Decides (s (lentItem 7 1 610 600)) (.entry .returnItem) ∧
    outcomeAfter (s (lentItem 7 1 590 580)) .returnItem = some (.done, 225, 2) ∧
    outcomeAfter (s (lentItem 1024 1 610 600)) .returnItem = some (.done, 0, 0) ∧
    outcomeAfter (s (idleItem 7)) .returnItem = some (.notOnLoan, 0, 0) := by decide +kernel

/-- RENEW by a KIOSK: no watch, a spoiled one, a good one; at the renewal limit; with a ready hold in the queue. -/
theorem test_renew :
    let s (c : Item) (ws : List Watch) (m : List (Target × List Byte)) :=
      (onItem .renew c (patronOf 0 [4]) m).updStream 0 (fun t => { t with watches := ws })
    let free : List (Target × List Byte) := [(.record .titles 7, titleRec ⟨[4], 0, none, none⟩)]
    let good : List Watch := [⟨.items, 4, .unspoiled⟩]
    Decides (s (lentItem 7 1 610 600) good free) (.entry .renew) ∧
    outcomeAfter (s (lentItem 7 2 610 600) good free) .renew = some (.notYours, 0, 0) ∧
    outcomeAfter (s (lentItem 7 1 610 600) [] free) .renew = some (.notShown, 4, 0) ∧
    outcomeAfter (s (lentItem 7 1 610 600) [⟨.items, 4, .spoiled⟩] free) .renew = some (.changed, 4, 0) ∧
    outcomeAfter (s (lentItem 7 1 610 600) good free) .renew = some (.done, 631, 1) ∧
    outcomeAfter (s { lentItem 7 1 610 600 with renewals := 1 } good free) .renew = some (.done, 631, 2) ∧
    outcomeAfter (s { lentItem 7 1 610 600 with renewals := 2 } good free) .renew = some (.renewLimit, 2, 2) ∧
    outcomeAfter (s (lentItem 7 1 610 600) good queueOf) .renew = some (.holdsWaiting, 1, 2) := by decide +kernel

/-- RENEW_SET over positions 1 to 40 of a list of one, its range's bounds, and an empty selection. -/
theorem test_renew_set :
    let s (first last : Nat) := (entryUnit claimed 0 .renewSet (slotOf 6 0 0 0 0 0 first last 0)
      [(.record .patrons 1, patronRec (patronOf 0 [4])), (.record .items 4, itemRec (lentItem 7 1 610 600)),
        (.record .titles 7, titleRec ⟨[4], 0, none, none⟩), (.summary, sumRec sumOf)]).updStream 0
        (fun t => { t with watches := [⟨.patrons, 1, .unspoiled⟩] })
    Decides (s 1 40) (.entry .renewSet) ∧ selection (theCtx (s 1 40)) (theWork (s 1 40)) = [(1, 4)] ∧
    selection (theCtx (s 2 2)) (theWork (s 2 2)) = [] ∧
    outcomeAfter (s 1 40) .renewSet = some (.cut, 1, 0) ∧ outcomeAfter (s 2 2) .renewSet = some (.done, 0, 0) ∧
    outcomeAfter (s 0 40) .renewSet = some (.badTarget, 0, 0) ∧ outcomeAfter (s 1 41) .renewSet = some (.badTarget, 0, 0) ∧
    outcomeAfter (s 3 2) .renewSet = some (.badTarget, 0, 0) ∧
    outcomeAfter ((s 1 40).updStream 0 (fun t => { t with watches := [] })) .renewSet = some (.notShown, 1, 0) ∧
    outcomeAfter ((s 1 40).updStream 0 (fun t => { t with watches := [⟨.patrons, 1, .spoiled⟩] })) .renewSet =
      some (.changed, 1, 0) := by decide +kernel

/-- A renewal sub-unit, and closing units after all, some and none were renewed. -/
theorem test_renewal_units :
    let g := [(.record .patrons 1, patronRec (patronOf 0 [4])), (.record .items 4, itemRec (lentItem 7 1 610 600)),
        (.record .titles 7, titleRec ⟨[4], 0, none, none⟩), (.summary, sumRec sumOf)]
    let sub := deciding (settling claimed 0 (slotOf 6 0 0 0 0 0 1 40 0))
      { batchOf 0 with sub := .renew ⟨[(1, 4)], 2, 1, some (3, .fineBlock)⟩ } (unitOf .renewalSub (some 0) 17 g)
    let close (r : RenewProgress) := deciding (settling claimed 0 (slotOf 6 0 0 0 0 0 1 40 0)) { batchOf 0 with sub := .renew r }
      (unitOf .closing (some 0) 18 [])
    Decides sub .renewalSub ∧ Decides (close ⟨[], 2, 0, none⟩) .closing ∧
    outcomeAfter sub .renewalSubUnit = some (.cut, 3, 0) ∧
    outcomeAfter (close ⟨[], 2, 0, none⟩) .closingUnit = some (.done, 2, 0) ∧
    outcomeAfter (close ⟨[], 2, 1, some (3, .fineBlock)⟩) .closingUnit = some (.partially, 2, 259) ∧
    outcomeAfter (close ⟨[], 0, 2, some (3, .fineBlock)⟩) .closingUnit = some (.fineBlock, 0, 515) := by decide +kernel

/-- Stream 1's patron 2 acts on title 8, whose queue is empty. -/
def onTitle (k : EntryKind) (day pickup : Nat) (p : Patron) (t : Title) (m : Summary) (more : List (Target × List Byte)) : State :=
  entryUnit claimed 1 k (slotOf k.code 8 0 day pickup 0 0 0 0)
    ([(.record .patrons 2, patronRec p), (.record .titles 8, titleRec t), (.summary, sumRec m),
      (.record .holds 9, encodeHold (Hold.freeForm (some 10)))] ++ more)

def emptyTitle : Title := ⟨[5], 0, none, none⟩

/-- HOLD_PLACE at the bounds of its checks, and the placement. -/
theorem test_hold_place :
    let s (day pickup : Nat) (p : Patron) (t : Title) (m : Summary) (c : Item) :=
      onTitle .holdPlace day pickup p t m [(.record .items 5, itemRec c)]
    let o (s : State) := outcomeAfter s .holdPlace
    let p := patronOf 0 []
    let away : Item := { idleItem 8 with loc := some 3 }
    let none4 := 4294967295
    Decides (s none4 2 p emptyTitle sumOf away) (.entry .holdPlace) ∧
    [o (s none4 63 p emptyTitle sumOf away), o (s none4 64 p emptyTitle sumOf away),
      o (s none4 2 { p with ban := some 600 } emptyTitle sumOf away),
      o (s none4 2 { p with ban := some 601 } emptyTitle sumOf away), o (s 600 2 p emptyTitle sumOf away),
      o (s 601 2 p emptyTitle sumOf away), o (s 65536 2 p emptyTitle sumOf away),
      o (s none4 2 { p with activeHolds := 3 } emptyTitle sumOf away),
      o (s none4 2 p emptyTitle { sumOf with freeCount := 0 } away),
      o (s none4 2 p emptyTitle sumOf (lentItem 8 2 610 600)), o (s none4 2 p emptyTitle sumOf (idleItem 8))] =
      [(.done, 1, 1), (.badTarget, 64, 0), (.done, 1, 1), (.holdBan, 601, 0), (.badDay, 600, 0), (.done, 1, 1),
        (.badDay, 65536, 0), (.holdLimit, 3, 3), (.poolFull, 0, 0), (.haveCopy, 5, 0), (.copyHere, 5, 0)].map some := by decide +kernel

/-- The placement's change list, a hold of the patron in the queue already, a full queue, and a KIOSK without a watch. -/
theorem test_hold_place_more :
    let s := onTitle .holdPlace 4294967295 2 (patronOf 0 []) emptyTitle sumOf []
    let mine := onTitle .holdPlace 4294967295 2 (patronOf 0 []) ⟨[], 1, some 12, some 12⟩ sumOf
      [(.record .holds 12, encodeHold (holdOf .waiting 2 8 none))]
    let kiosk := entryUnit claimed 0 .holdPlace (slotOf 7 8 0 4294967295 2 0 0 0 0)
      [(.record .patrons 1, patronRec (patronOf 0 [])), (.record .titles 8, titleRec emptyTitle), (.summary, sumRec sumOf)]
    holdPlaceChecks (theCtx s) (theWork s) = none ∧ (theWork s).sum.freeHead = some 9 ∧
    ((theWork s).title 8).last ≠ some 9 ∧
    changesAfter s .holdPlace = [.record .holds 9, .record .titles 8, .record .patrons 2, .summary, .desk 1] ∧
    outcomeAfter mine .holdPlace = some (.holdExists, 1, 0) ∧ outcomeAfter kiosk .holdPlace = some (.notShown, 8, 0) := by
  decide +kernel

/-- Patron 2's hold 12 on title 8, in each state. -/
def ownHoldUnit (k : EntryKind) (day : Nat) (h : Hold) : State :=
  onTitle k day 0 (patronOf 0 []) ⟨[], 1, some 12, some 12⟩ sumOf
    [(.record .holds 12, encodeHold h), (.record .items 5, itemRec (asideItem 8 12))]

theorem test_hold_cancel_and_pause :
    let w := holdOf .waiting 2 8 none
    let sus : Hold := { w with state := .suspended, suspend := some 610 }
    let shelf (d : Nat) : Hold := shelfHold 2 8 5 d
    let way : Hold := { shelf 0 with state := .inTransit, deadline := none }
    let c (h : Hold) := outcomeAfter (ownHoldUnit .holdCancel 0 h) .holdCancel
    let p (day : Nat) (h : Hold) := outcomeAfter (ownHoldUnit .holdPause day h) .holdPause
    Decides (ownHoldUnit .holdCancel 0 w) (.entry .holdCancel) ∧ Decides (ownHoldUnit .holdPause 0 w) (.entry .holdPause) ∧
    [c { w with patron := some 3 }, c w, c sus, c (shelf 600), c (shelf 599), c way, p 0 way, p 0 (shelf 600),
      p 0 (shelf 599), p 4294967295 w, p 1 w, p 600 w, p 65536 w, p 0 w, p 0 sus, p 601 w, p 65535 sus] =
      [(.noHold, 0, 0), (.done, 1, 0), (.done, 1, 0), (.done, 1, 0), (.noHold, 0, 1), (.done, 1, 0), (.holdBusy, 1, 0),
        (.holdBusy, 2, 0), (.noHold, 0, 1), (.badDay, 0, 0), (.badDay, 1, 0), (.badDay, 600, 0), (.badDay, 65536, 0),
        (.done, 0, 0), (.done, 0, 0), (.done, 601, 0), (.done, 65535, 0)].map some := by decide +kernel

/-- A lapsed hold of title 8's queue is expired out of that queue, also when it names title 9 (log 61). -/
theorem test_lapsed_hold_leaves_its_queue :
    let s (t : Nat) := ownHoldUnit .holdCancel 0 (shelfHold 2 t 5 599)
    (theWork (s 8)).ref .titles ((theWork (s 8)).hold 12).title = some 8 ∧ (theCtx (s 8)).patron < (theWork (s 8)).count .patrons ∧
    [s 8, s 9].map (fun x => changesAfter x .holdCancel) =
      [[.record .titles 8, .record .holds 12, .record .patrons 2, .record .items 5, .summary, .desk 1],
        [.record .titles 8, .record .holds 12, .record .patrons 2, .record .items 5, .summary, .desk 1]] := by decide +kernel

/-- PAY and WAIVE at the bounds of their checks. -/
theorem test_pay_and_waive :
    let g (b : Nat) := [(.record .patrons 2, patronRec (patronOf b [])), (.summary, sumRec sumOf)]
    let pay (a b : Nat) := entryUnit claimed 1 .pay (slotOf 10 0 a 0 0 0 0 0 0) (g b)
    let waive (a b : Nat) := entryUnit claimed 1 .waive (slotOf 11 0 a 0 0 5 0 0 0) (g b)
    Decides (pay 1 1) (.entry .pay) ∧ Decides (waive 1 1) (.entry .waive) ∧
    [outcomeAfter (pay 0 5) .pay, outcomeAfter (pay 1 1) .pay, outcomeAfter (pay 9999999 9999999) .pay,
      outcomeAfter (pay 10000000 5) .pay, outcomeAfter (pay 6 5) .pay, outcomeAfter (waive 1000 1200) .waive,
      outcomeAfter (waive 1001 1200) .waive, outcomeAfter (waive 6 5) .waive] =
      [(.badAmount, 0, 0), (.done, 0, 1), (.done, 0, 9999999), (.badAmount, 10000000, 0), (.overBalance, 5, 6),
        (.done, 200, 5), (.overWaiveLimit, 1001, 1000), (.overBalance, 5, 6)].map some := by decide +kernel

/-- ARRIVE at the hold's branch, at another, and of an item not on its way; PATRON_BAR on and off. -/
theorem test_arrive_and_bar :
    let way (pickup : Nat) : Hold := { shelfHold 2 8 4 0 with state := .inTransit, deadline := none, pickup := pickup }
    let s (c : Item) (h : Hold) := entryUnit claimed 1 .arrive (slotOf 12 4 0 0 0 0 0 0 0)
      [(.record .items 4, itemRec c), (.record .holds 11, encodeHold h)]
    let bar (flags : Nat) (p : Patron) := entryUnit claimed 1 .patronBar (slotOf 13 3 0 0 0 0 0 0 flags)
      [(.record .patrons 3, patronRec p)]
    Decides (s (asideItem 8 11) (way 2)) (.entry .arrive) ∧ Decides (bar 2 (patronOf 0 [])) (.entry .patronBar) ∧
    outcomeAfter (s (asideItem 8 11) (way 2)) .arrive = some (.done, 607, 2) ∧
    outcomeAfter (s (asideItem 8 11) (way 3)) .arrive = some (.wrongBranch, 3, 0) ∧
    outcomeAfter (s (idleItem 8) (way 2)) .arrive = some (.notInTransit, 0, 0) ∧
    outcomeAfter (bar 2 (patronOf 0 [])) .patronBar = some (.done, 0, 2) ∧
    outcomeAfter (bar 0 { patronOf 0 [] with bar := true }) .patronBar = some (.done, 1, 2) := by decide +kernel

/-- The units beside the entry kinds. -/
theorem test_other_units :
    let s (b : CurrentBatch) (u : WorkUnit) := deciding (settling claimed 0 (slotOf 1 8 0 0 0 0 0 0 0)) b u
    let sub := s { batchOf 0 with sub := .claim 1 [4, 5] } (unitOf .freshenSub (some 0) 16
      [(.record .patrons 1, patronRec (patronOf 0 [4, 5])), (.record .items 4, itemRec (lentItem 7 1 590 599)), (.summary, sumRec sumOf)])
    let skip := s { batchOf 0 with next := 1 } (unitOf .skip (some 0) 19 [])
    let fault := s (batchOf 0) { unitOf .fault (some 0) 21 [] with failed := some (.record .items 4) }
    let ends (c : Option CutCause) (sub : SubUnits) := s { batchOf 0 with cut := c, sub := sub } (unitOf .endBatch (some 0) 20 [])
    (∀ x : State × UnitKind, x ∈ [(sub, .freshenSub), (skip, .skip), (fault, .fault), (ends none .none, .endBatch),
      (ends (some .warmReset) (.claim 1 [4]), .endBatch)] → Decides x.1 x.2) ∧
    [outcomeAfter sub .freshenSubUnit, outcomeAfter skip .skipUnit, outcomeAfter fault .faultUnit] =
      [some (.done, 1, 25), some (.skipped, 0, 0), some (.storeFault, 4, 4)] ∧
    [theUnit (after (exec .endUnit (ends none .none))), theUnit (after (exec .endUnit (ends (some .disabled) (.claim 1 [4]))))].map
        (fun u => u.changes) =
      [[.desk ⟨0, some ⟨.fresh, .complete, 1, 0⟩, 0, [⟨0, 1, .cancelled, 77, 0, 0⟩]⟩],
        [.desk ⟨0, some ⟨.fresh, .cut, 1, 0⟩, 0, [⟨0, 1, .cut, 77, 1, 0⟩]⟩]] := by decide +kernel

/-- Nothing to charge by day 600 for an item due on day 700; a borrower out of range; what a unit marks spoiling. -/
theorem test_freshen_spoils :
    let w (due b : Nat) := workOf
      [(.record .items 4, itemRec (lentItem 7 b due 580)), (.record .patrons 1, patronRec (patronOf 0 [4])), (.summary, sumRec sumOf)]
    ((w 700 1).freshen 600 4).images.map Image.target = [.record .items 4] ∧ (((w 700 1).freshen 600 4).item 4).charged = some 600 ∧
    (w 590 1024).ref .patrons ((w 590 1024).item 4).borrower = none ∧ (w 590 1).ref .patrons (some 1023) = some 1023 ∧
    ((w 590 1).freshen 600 4).spoilList = [] ∧
    (((w 590 1).freshen 600 4).setItem 4 (idleItem 7)).spoilList = [.record .items 4] := by decide +kernel

/-- Links out of range: the walk ends, a set-aside hold is none, a last hold is none, a borrower has no list. -/
theorem test_out_of_range :
    let w (first : Nat) := workOf [(.record .titles 7, titleRec ⟨[4], 2, some first, some 11⟩)]
    let lend := onItem .lend (asideItem 7 1024) (patronOf 0 []) []
    let back := onItem .returnItem (lentItem 1024 1024 610 600) (patronOf 0 [4]) []
    let arrive := entryUnit claimed 1 .arrive (slotOf 12 4 0 0 0 0 0 0 0) [(.record .items 4, itemRec (asideItem 8 1024))]
    (w 1024).walk 2 (some 1024) = [] ∧ (w 1023).queue 7 = (w 1023).walk 2 (some 1023) ∧ (w 1024).queue 7 = [] ∧
    (theWork lend).ref .holds (some 1024) = none ∧ outcomeAfter lend .lend = some (.reserved, 0, 0) ∧
    (theWork back).ref .patrons (some 1024) = none ∧ outcomeAfter back .returnItem = some (.done, 0, 0) ∧
    changesAfter back .returnItem = [.record .items 4, .summary, .desk 0] ∧
    outcomeAfter arrive .arrive = some (.notInTransit, 0, 0) ∧
    outcomeAfter (onTitle .holdPlace 4294967295 2 (patronOf 0 []) emptyTitle { sumOf with freeHead := some 1024 } []) .holdPlace =
      some (.poolFull, 0, 0) ∧
    (let s := ownHoldUnit .holdCancel 0 { shelfHold 2 8 5 599 with copy := some 1024 };
      (theWork s).ref .items (some 1024) = none ∧ outcomeAfter s .holdCancel = some (.noHold, 0, 1) ∧
      changesAfter s .holdCancel = [.record .titles 8, .record .holds 12, .record .patrons 2, .summary, .desk 1]) := by
  decide +kernel

/-- END_UNIT orders its records: three entries, the second provisional or not begun. -/
theorem test_end_unit_order :
    let o (n : Nat) : OutcomeRec := ⟨n, 10, .done, 77, 0, 0⟩
    let s (os : List OutcomeRec) (c : Option CutCause) :=
      deciding ((settling claimed 0 (slotOf 1 8 0 0 0 0 0 0 0)).updStream 0 (fun t => { t with closedCount := 3 }))
        { batchOf 0 with next := 1, outcomes := os, cut := c, sub := .claim 1 [4] } (unitOf .endBatch (some 0) 20 [])
    let records (s : State) : List (Nat × OutcomeCode × Nat) := (theUnit (after (exec .endUnit s))).changes.flatMap (fun g =>
      match g with
      | .desk d => d.records.map (fun r => (r.entry, r.code, r.d1))
      | _ => [])
    Decides (s [o 0] none) .endBatch ∧ Decides (s [o 0, o 1] (some .disabled)) .endBatch ∧
    [o 0].map (fun x => x.entry) = List.range 1 ∧ [o 0, o 1].map (fun x => x.entry) = List.range (1 + 1) ∧
    records (s [o 0] none) = [(0, .done, 0), (1, .cancelled, 0), (2, .cancelled, 0)] ∧
    records (s [o 0, o 1] (some .disabled)) = [(0, .done, 0), (1, .cut, 1), (2, .cut, 0)] := by decide +kernel

/-! ## The Day Sweep -/

/-- A pass toward day 600 at record 4. -/
def passing (p : SweepPhase) (pos : Nat) : State :=
  { ready with sweep := { Sweep.reset with phase := p, target := 600, position := pos, sweptThrough := 590 } }

/-- A sweep unit stands at its decide. -/
def sweepUnit (o : Offer) (g : List (Target × List Byte)) : State :=
  let s := passing .items 4
  { s with engine := { s.engine with unit := some (unitOf (.sweep o) none 35 g) }, sweep := { s.sweep with offer := some o } }

abbrev Sweeps (o : Offer) (g : List (Target × List Byte)) : Prop := AtSweepDecide (sweepUnit o g) o (theUnit (sweepUnit o g)) setup

def freshenWork (charged : Nat) : List (Target × List Byte) :=
  [(.record .items 4, itemRec (lentItem 7 1 590 charged)), (.record .patrons 1, patronRec (patronOf 0 [4])), (.summary, sumRec sumOf)]

def sweepChanges (o : Offer) (g : List (Target × List Byte)) (c : Instr) : Nat × List Target :=
  ((theUnit (after (exec c (sweepUnit o g)))).code, changesAfter (sweepUnit o g) c)

theorem test_sweep_units :
    (Sweeps (.item 4) (freshenWork 599) ∧ Sweeps (.item 4) (freshenWork 600) ∧ Sweeps (.item 4) (shelved 599 0) ∧
      Sweeps (.resume 12) queueOf ∧ Sweeps (.progress true) [(.summary, sumRec sumOf)]) ∧
    sweepChanges (.item 4) (freshenWork 599) .sweepFreshen = (32, [.record .items 4, .record .patrons 1, .summary]) ∧
    sweepChanges (.item 4) (shelved 599 0) .sweepExpiry =
      (33, [.record .titles 7, .record .holds 11, .record .patrons 1, .record .items 4, .summary]) ∧
    sweepChanges (.resume 12) queueOf .sweepResume = (34, [.record .holds 12]) ∧
    sweepChanges (.progress true) [(.summary, sumRec sumOf)] .sweepProgress = (35, [.summary]) ∧
    (after (exec .sweepFreshen (sweepUnit (.item 4) (freshenWork 600)))).sweep.position = 5 ∧
    (after (exec .sweepExpiry (sweepUnit (.item 4) (shelved 600 0)))).engine.unit = none := by decide +kernel

/-- The facts the sweep units' clauses rest on, at the day and a day away. -/
theorem test_sweep_clauses :
    let f (c : Nat) := workOf (freshenWork c)
    let r (d : Nat) : Hold := { holdOf .suspended 2 7 none with suspend := some d }
    ((f 599).item 4).state = .onLoan ∧ ((f 599).item 4).charged = some 599 ∧ ((f 600).item 4).charged = some 600 ∧
    ((f 599).freshen 600 4).sum ≠ (f 599).sum ∧ (theUnit (sweepUnit (.item 4) [])).reported = true ∧
    ((workOf queueOf).hold 12).state = .suspended ∧ ((workOf queueOf).hold 12).suspend = some 600 ∧
    ((workOf queueOf).hold 12).title = some 7 ∧ resumable (r 600) 600 = true ∧ resumable (r 601) 600 = false ∧
    lapsed (shelfHold 1 7 4 599) 600 = true ∧ lapsed (shelfHold 1 7 4 600) 600 = false := by decide +kernel

/-- An examination read of item 4, of its set-aside hold, of hold 4, with these contents in memory. -/
def examining (e : Examined) (bs : List Byte) : State :=
  let s := poke (passing (match e with | .hold _ => .holds | _ => .items) 4) (ready.targetOff e.target) bs
  issue { s with sweep := { s.sweep with reading := some (6, e) } } .sweepRead (s.targetOff e.target) (.read e.target.len)

theorem test_exam_read (e : Examined) (he : e ∈ [Examined.item 4, .asideHold 4 11, .hold 4]) :
    ExamRead (examining e []) (issuedOwn (examining e [])) e := by
  simp only [List.mem_cons, List.not_mem_nil, or_false] at he
  rcases he with rfl | rfl | rfl <;> decide +kernel

/-- Offers, and records passed, at the target day and a day before it. -/
theorem test_exam_judged :
    let x (e : Examined) (bs : List Byte) := (after (exec (.sweepReadDone .done) (examining e bs))).sweep
    let r (d : Nat) : Hold := { holdOf .suspended 2 7 none with suspend := some d }
    (x (.item 4) (itemRec (lentItem 7 1 610 599))).offer = some (.item 4) ∧
    (x (.item 4) (itemRec (lentItem 7 1 610 600))).position = 5 ∧
    (x (.item 4) (itemRec (asideItem 7 1023))).reading = some (10, .asideHold 4 1023) ∧
    (x (.item 4) (itemRec (asideItem 7 1024))).position = 5 ∧
    (x (.asideHold 4 11) (encodeHold (shelfHold 1 7 4 599))).offer = some (.item 4) ∧
    (x (.asideHold 4 11) (encodeHold (shelfHold 1 7 4 600))).position = 5 ∧
    (x (.hold 4) (encodeHold (r 600))).offer = some (.resume 4) ∧ (x (.hold 4) (encodeHold (r 601))).position = 5 ∧
    (after (exec .sweepReadTimeout (examining (.item 4) []))).sweep.skipped = 1 := by decide +kernel

/-- A record met in the in-flight set is read again. -/
theorem test_exam_touched :
    let s := examining (.item 4) []
    let t : State := { s with path := s.path.touch [.record .items 4] }
    (Examined.item 4).target ∈ (issuedOwn t).touched ∧
    (after (exec (.sweepReadDone .done) t)).sweep.reading = some (10, .item 4) := by decide +kernel

/-- The sweep goes on at the last record of a phase and past it. -/
theorem test_examine_bounds :
    (passing .items 1023).sweepExamine.sweep.reading = some (10, .item 1023) ∧
    (passing .items 1024).sweepExamine.sweep.offer = some (.progress false) ∧
    (passing .holds 1023).sweepExamine.sweep.reading = some (10, .hold 1023) ∧
    (passing .holds 1024).sweepExamine.sweep.offer = some (.progress true) ∧
    (passing .items 0).loader.part = .ready ∧ (passing .items 0).engine.running = true ∧
    (passing .items 0).sweepReading = false := by decide +kernel

/-- A suspended hold whose title is out of range resumes without a seek. -/
theorem test_resume_without_title :
    let g := [(.record .holds 12, encodeHold { holdOf .suspended 2 1024 none with suspend := some 600 })]
    Sweeps (.resume 12) g ∧ (workOf g).ref .titles ((workOf g).hold 12).title = none ∧
    sweepChanges (.resume 12) g .sweepResume = (34, [.record .holds 12]) := by decide +kernel

/-! ## The setup words -/

/-- A SUPERVISOR's write of a whole setup word. -/
def setupWrite (s : State) (w : Nat) (ls : List Lane) : State := downstream s (writeReq 2 w ls)

theorem test_setup_write (w : Nat) (hw : w ∈ [Config.calendarOff, Config.applyOff, Config.formatOff, Config.warmOff]) :
    let s := setupWrite ready w (lanes [89, 2, 0, 0, 0, 0, 0, 0])
    SetupWrite s 5 (issuedUp s) w := by
  simp only [List.mem_cons, List.not_mem_nil, or_false] at hw
  rcases hw with rfl | rfl | rfl | rfl <;> decide +kernel

/-- Days 599, 600 and 601 against day 600, and a write of the word in part. -/
theorem test_calendar :
    let day (d : Nat) := lanes (leBytes 2 d ++ zeros 6)
    let t (ls : List Lane) := (after (exec (.calendarWrite 5 .done) (setupWrite ready Config.calendarOff ls))).loader
    let part := noLane :: (day 601).tail
    (calendarDay (strobedCells 3840 (day 601)) = some 601 ∧ calendarDay (strobedCells 3840 part) = none) ∧
    (t (day 601)).today = some 601 ∧ (t (day 600)).today = some 600 ∧ (t (day 599)).result = ⟨.calendarBackward, 0⟩ ∧
    (t (day 599)).today = some 600 ∧ (t part).today = some 600 ∧ ready.loader.today = some 600 ∧
    0 < ready.regionCount .items ∧
    (after (exec (.calendarWrite 5 .done) (setupWrite ready Config.calendarOff (day 601)))).sweep.phase = .items ∧
    (after (exec (.calendarWrite 5 .done) (setupWrite (inPart ready .unset) Config.calendarOff (day 601)))).loader.today =
      some 600 := by decide +kernel

/-- Requests in each part state. -/
theorem test_requests :
    let t (p : PartState) (c : Nat → Answer → Instr) (w : Nat) :=
      (after (exec (c 5 .done) (setupWrite (inPart ready p) w (lanes (zeros 8))))).loader
    (t .ready .applyRequest Config.applyOff).requests = [.apply] ∧ (t .ready .warmResetRequest Config.warmOff).requests = [.warmReset] ∧
    (t .unset .formatRequest Config.formatOff).requests = [] ∧ (t .formatting .formatRequest Config.formatOff).result = ⟨.busy, 0⟩ ∧
    (t .formatting .warmResetRequest Config.warmOff).requests = [.warmReset] ∧
    (t .unformatted .formatRequest Config.formatOff).job = .reading .format .regions [] ∧
    (t .unset .applyRequest Config.applyOff).job = .reading .apply .regions [] := by decide +kernel

/-- A setup read under way: of a content before the last, and of the last. -/
def setupReading (k : RequestKind) (p : SetupPart) (b : Memory) : State :=
  issue (withJob ready (.reading k p b)) .setupRead p.off (.read p.len)

theorem test_setup_read :
    let s := setupReading .apply .regions []
    let l (b : Memory) := setupReading .apply .calendar b
    SetupRead s (issuedOwn s) .apply .regions [] ∧ SetupPart.regions.following = some .streams ∧
    SetupRead (l block) (issuedOwn (l block)) .apply .calendar block ∧
    (s.ownData (issuedOwn s) .done).isSome = true ∧
    waiting (after (exec (.setupReadDone .done) s)) = [.setupRead] ∧
    (after (exec (.setupReadDone .done) (l []))).loader.result = ⟨.misaligned, 1⟩ ∧
    (after (exec .setupReadTimeout s)).loader.result = ⟨.readFault, 0⟩ := by decide +kernel

/-- A field of the block set to a value. -/
def setField (off n v : Nat) : Memory := block.writeLanes off (lanesOf (leBytes n v))

/-- Each failure of validation, at the bound of the range. -/
theorem test_validation :
    [setField 0 4 61440, setField 0 4 65537, setField 4 4 0, setField 4 4 525312, setField 12 4 1049600].map
        (fun b => validate b none) =
      [.error ⟨.misaligned, 1⟩, .error ⟨.misaligned, 1⟩, .error ⟨.badCount, 1⟩, .error ⟨.badCount, 1⟩, .error ⟨.badCount, 2⟩] ∧
    [setField 32 4 1073737728, setField 8 4 65536, setField 193 1 16, setField 256 1 41, setField 272 2 9].map
        (fun b => validate b none) =
      [.error ⟨.beyondAperture, 5⟩, .error ⟨.overlap, 513⟩, .error ⟨.outOfRange, 193⟩, .error ⟨.outOfRange, 256⟩,
        .error ⟨.outOfRange, 272⟩] ∧
    [setField 65 1 0, setField 189 1 4, setField 66 1 64].map (fun b => validate b none) =
      [.error ⟨.outOfRange, 65⟩, .error ⟨.outOfRange, 189⟩, .error ⟨.outOfRange, 66⟩] ∧
    validate block (some regionsOf) = .ok (blockSetup block) ∧
    validate (setField 36 4 2048) (some regionsOf) = .error ⟨.regionsFixed, 0⟩ := by decide +kernel

/-- Stream 0 disabled, stream 8 enabled. -/
def otherSetup : Setup :=
  { setup with streams := (setup.streams.set 0 ⟨false, .kiosk, 2, true⟩).set 8 ⟨true, .kiosk, 2, true⟩ }

theorem test_apply :
    let s := withJob queued (.validated .apply otherSetup)
    let t := after (exec .applySetup s)
    (s.inReset = false ∧ s.loader.part = .ready ∧ ∀ n : StreamId, (∀ e, (s.stream n).idleTimer = some e → e < 60) ∧
      (s.stream n).collectTimer = none) ∧
    (t.stream 0).session = .off ∧ (t.stream 0).answer = .fresh ∧ t.queue = [] ∧ (t.stream 8).session = .vacant ∧
    (t.stream 1).session = .claimed 2 ∧ t.loader.result = ⟨.accepted, 0⟩ ∧
    (after (exec .applySetup (inPart s .unset))).loader.part = .starting := by
  refine ⟨⟨rfl, rfl, ?_⟩, by decide +kernel⟩
  intro n
  refine ⟨?_, ?_⟩
  · intro e h
    have : ∀ m : StreamId, (queued.stream m).idleTimer = none ∨ (queued.stream m).idleTimer = some 0 := by decide +kernel
    rcases this n with h1 | h1
    · have h2 : (queued.stream n).idleTimer = some e := h
      rw [h1] at h2; cases h2
    · have h2 : (queued.stream n).idleTimer = some e := h
      rw [h1] at h2; injection h2 with h3; omega
  · have : ∀ m : StreamId, (queued.stream m).collectTimer = none := by decide +kernel
    exact this n

/-- Session words at an apply (R51, R39): stream 3's grade changes, stream 4's attention enable, stream 9's branch while it stays OFF. -/
theorem test_apply_session_words :
    let grades := ((setup.streams.set 3 ⟨true, .desk, 2, true⟩).set 4 ⟨true, .kiosk, 2, false⟩).set 9 ⟨false, .kiosk, 5, true⟩
    let s := withJob ready (.validated .apply { setup with streams := grades })
    waiting (after (exec .applySetup s)) = [.sessionWord 3, .sessionWord 9] ∧
    (after (exec .applySetup s)).sessionWord 9 = [0, 0, 5, 0, 255, 255, 255, 255] := by decide +kernel

/-- The current batch of a stream that an apply disables is to be cut. -/
theorem test_apply_cuts_current :
    let s := withJob (current (settling claimed 0 []) (batchOf 0)) (.validated .apply otherSetup)
    (s.stream 0).session ≠ .off ∧ (otherSetup.streams[0]).enable = false ∧ (s.stream 0).batch = .settling ∧
    (after (exec .applySetup s)).engine.batch = some { batchOf 0 with cut := some .disabled } := by decide +kernel
theorem test_apply_settled : StreamsSettled (withJob queued (.validated .apply otherSetup)) := by
  unfold StreamsSettled; decide +kernel

/-- A format refused for a claim, and accepted with one batch COLLECTING and none CLAIMED. -/
def unclaimedCollecting : State := ready.slotWrite 0 ((List.range 32).zip goodSlot)

theorem test_format :
    let busy := withJob claimed (.validated .format setup)
    let s := withJob unclaimedCollecting (.validated .format setup)
    (busy.inReset = false ∧ (busy.stream 0).session = .claimed 1 ∧ s.queue = [] ∧ s.engine.batch = none) ∧
    (∀ n : StreamId, (s.stream n).session.isClaimed = false ∧
      ((s.stream n).batch = .idle ∧ (s.stream n).collectTimer = none ∨ (s.stream n).batch = .collecting)) ∧
    (after (exec .format busy)).loader.result = ⟨.busy, 0⟩ ∧ (after (exec .format s)).loader.part = .formatting ∧
    waiting (after (exec .format s)) = [.status, .format] ∧ ((after (exec .format s)).stream 0).batch = .idle := by decide +kernel
theorem test_format_settled : StreamsSettled (withJob unclaimedCollecting (.validated .format setup)) := by
  unfold StreamsSettled; decide +kernel

/-- A format write downstream, at a place of the order. -/
def formatting (p : FormatStep) (r : Bool) : State :=
  issue (withJob (inPart ready .formatting) (.formatting ⟨p, r, 600⟩)) .format 8192 (.write (lanes (zeros 8)))

theorem test_format_writes :
    (∀ p : FormatStep, p ∈ [.stampZero, .desk 31, .record .holds 1023, .stamp] → ∀ r : Bool,
      FormatWritten (formatting p r) (issuedOwn (formatting p r)) (lanes (zeros 8)) ⟨p, r, 600⟩) ∧
    ready.formatNext (.desk 31) = some (.record .patrons 0) ∧ ready.formatNext (.record .patrons 1022) = some (.record .patrons 1023) ∧
    ready.formatNext (.record .patrons 1023) = some (.record .cards 0) ∧ ready.formatNext (.record .holds 1023) = some .summaryRest ∧
    (after (exec (.formatWriteDone .done) (formatting .stamp false))).loader.part = .ready ∧
    waiting (after (exec (.formatWriteDone (.error 0)) (formatting .stampZero false))) = [.status, .format] ∧
    (after (exec (.formatWriteDone (.error 0)) (formatting .stampZero true))).loader.part = .unformatted := by decide +kernel

theorem test_warm_reset :
    let s := withRequests (current (settling queued 1 []) (batchOf 1)) [.warmReset]
    let t := after (exec .warmReset s)
    (s.inReset = false ∧ s.loader.requests = .warmReset :: [] ∧ s.loader.job = .idle ∧ s.loader.part = .ready ∧
      s.engine.running = true ∧ s.engine.unit = none ∧ (s.stream 1).batch = .settling) ∧
    t.engine.batch = some { batchOf 1 with cut := some .warmReset } ∧
    (t.stream 0).session = .vacant ∧ (t.stream 0).answer = .fresh ∧ t.queue = [] ∧ (t.stream 31).session = .off ∧
    t.loader.requests = [] ∧ (withRequests (inPart ready .unformatted) [.warmReset]).warmDue = true := by decide +kernel

/-- Answer writes held for format go on in the order they were raised; failed writes of the stamp, of its zeroing and of a record. -/
theorem test_format_held_and_failed :
    let w (n : Nat) (t : OwnTag) : OwnReq := ⟨n, t, 0, .write (lanes [1]), none⟩
    let s0 := formatting .stamp false
    let s : State := { s0 with path := { s0.path with
      ownSlot := some (w 2 .status), raised := [w 3 .status, w 7 .status], formatHeld := [w 4 (.answer 0), w 5 (.answer 1)] } }
    let fail (p : FormatStep) (r : Bool) := (after (exec (.formatWriteDone (.error 1)) (poke (formatting p r) 8192 [9, 9, 9]))).mem
    (∀ q ∈ s.path.raised ++ s.path.formatHeld, q.serial ≤ s.serial) ∧
    ((after (exec (.formatWriteDone .done) s)).path.raised.map (fun q => q.serial)) = [3, 4, 5, 7, 10, 11] ∧
    fail .stamp true = [(8192, 9), (8193, 9), (8194, 9)] ∧ fail .stampZero false = [(8193, 9), (8194, 9)] ∧
    fail .stampZero true = [] ∧ fail (.record .holds 0) true = [(8193, 9), (8194, 9)] := by decide +kernel

/-- A warm reset in UNFORMATTED with an apply behind it. -/
theorem test_warm_reset_unformatted :
    let s := withRequests (inPart ready .unformatted) [.warmReset, .apply]
    s.loader.job = .idle ∧ s.loader.part = .unformatted ∧
    (after (exec .warmReset s)).loader = { s.loader with requests := [], job := .reading .apply .regions [] } ∧
    (after (exec .warmReset (withRequests (current (settling claimed 0 []) { batchOf 0 with cut := some .disabled }) [.warmReset]))).engine.batch =
      some { batchOf 0 with cut := some .warmReset } := by decide +kernel

/-! ## Layouts, and clauses that several statements share -/

/-- In UNSET and STARTING, slot, close and cancel writes are taken by nothing; a response that an own write holds still waits. -/
theorem test_desks_do_not_act :
    let slot := writeReq 0 16384 (lanes [1, 2, 3, 4, 5, 6, 7, 8])
    let cancel := writeReq 0 (deskAddr 0 520) (⟨true, 0⟩ :: List.replicate 7 noLane)
    let s (p : PartState) (r : Request) := inPart (downstream claimed r) p
    let held := issue (s .starting cancel) (.answer 0) (deskAddr 0 528) (.write (lanes [1])) (some 5)
    (∀ p : PartState, p ∈ [.unset, .starting] → ∀ r : Request, r ∈ [slot, closeReq 0 1, cancel] →
      WriteDownstream (s p r) 5 (issuedUp (s p r)) ∧ (issuedUp (s p r)).up.tag = 5 ∧ NoSetupWord (s p r) r ∧
      NoOwnWriteHolds (s p r) 5 ∧ (∃ o ∈ (s p r).path.outstanding, o.tag = 5) ∧ (s p r).coversSlots r = decide (r = slot) ∧
      (s p r).coversCancel r = decide (r = cancel) ∧
      (countByte ((s p r).deskCells 0 r) = if r = closeReq 0 1 then some 1 else none)) ∧
    (∀ p : PartState, p ∈ [.unset, .starting] →
      (after (exec (.entrySlotWrite 5 .done) (s p slot))).streams = claimed.streams ∧
      (after (exec (.closeWord 5 .done) (s p (closeReq 0 1)))).streams = claimed.streams ∧
      (after (exec (.cancelWord 5 .done) (s p cancel))).streams = claimed.streams ∧
      (after (exec (.cancelWord 5 .done) (s p cancel))).path.returned.map (fun x => x.answer.ok) = [true]) ∧
    WriteDownstream held 5 (issuedUp held) ∧ ¬NoOwnWriteHolds held 5 ∧
    (after (exec (.cancelWord 5 .done) held)).path.returned = [] := by decide +kernel

/-- The forms in which a unit writes items and holds, by state: what a column of R31 or R32 leaves no value is absent, also where it stood (R24). -/
theorem test_written_forms :
    let c (st : ItemState) : Item := ⟨7, 0, 2, true, st, none, 0, some 1, some 590, 5, some 580, some 11⟩
    let h (st : HoldState) : Hold := ⟨st, 2, some 1, some 7, 590, some 600, some 4, some 605, some 12⟩
    let w := workOf [(.record .items 4, itemRec { lentItem 7 1 590 580 with aside := some 11 }),
      (.record .patrons 1, patronRec (patronOf 0 [4])), (.summary, sumRec sumOf)]
    (c .available).written = ⟨7, 0, 2, true, .available, none, 0, none, none, 5, none, none⟩ ∧
    (c .onLoan).written = { c .onLoan with aside := none } ∧
    (c .setAside).written = ⟨7, 0, 2, true, .setAside, none, 0, none, none, 5, none, some 11⟩ ∧
    (h .free).written = ⟨.free, 2, none, none, 590, none, none, none, some 12⟩ ∧
    (h .waiting).written = ⟨.waiting, 2, some 1, some 7, 590, none, none, none, some 12⟩ ∧
    (h .suspended).written = ⟨.suspended, 2, some 1, some 7, 590, some 600, none, none, some 12⟩ ∧
    (h .inTransit).written = ⟨.inTransit, 2, some 1, some 7, 590, none, some 4, none, some 12⟩ ∧
    (h .onShelf).written = ⟨.onShelf, 2, some 1, some 7, 590, none, some 4, some 605, some 12⟩ ∧
    (w.item 4).aside = some 11 ∧ ((w.freshen 600 4).item 4).aside = none ∧
    (w.setItem 4 (w.item 4)).item 4 = lentItem 7 1 590 580 ∧ ((w.setHold 9 (h .waiting)).hold 9) = (h .waiting).written := by
  decide +kernel

/-- A response held for two own writes, of which one is answered; and one whose earlier answer write was answered error. -/
theorem test_held_response_twice :
    let w (tag : OwnTag) := issue (downstream ready (closeReq 0 1)) tag (deskAddr 0 528) (.write (lanes [1])) (some 5)
    let two (tag : OwnTag) : State := { w tag with path := { (w tag).path with
      raised := [⟨8, .sessionWord 0, deskAddr 0 800, .write (lanes [1]), some 5⟩] } }
    let failed (tag : OwnTag) : State := (w tag).updOutstanding 5 (fun o => { o with failed := true })
    let c (tag : OwnTag) (a : Answer) : Instr := if tag = .answer 0 then .answerWriteResponse 0 a else .ownWriteResponse 6 a
    (∀ tag : OwnTag, tag ∈ [.sessionWord 0, .answer 0] →
      ¬NoOwnWriteHolds ((two tag).dropOwn 6) 5 ∧ NoOwnWriteHolds ((failed tag).dropOwn 6) 5 ∧
      (∀ o ∈ (failed tag).path.outstanding, o.tag = 5 → o.failed = true) ∧
      (after (exec (c tag .done) (two tag))).path.returned = [] ∧ (after (exec (c tag (.error 0)) (two tag))).path.returned = [] ∧
      (after (exec (c tag (.error 0)) (two tag))).path.outstanding.map (fun o => o.failed) = [decide (tag = .answer 0)] ∧
      (after (exec (c tag .done) (failed tag))).path.returned.map (fun x => x.answer.ok) = [false]) ∧
    (two (.answer 0)).pullOwn (fun q => decide (q.tag = .answer 0) && q.holds.isSome) = some (issuedOwn (w (.answer 0))) ∧
    (two (.sessionWord 0)).pullOwn (fun q => decide (q.serial = 6) && routineWrite q) = some (issuedOwn (w (.sessionWord 0))) := by
  decide +kernel

/-- The fields of an entry, its outcome record, and what a unit takes at its gather. -/
theorem test_entry_layout :
    let bs := leBytes 1 6 ++ leBytes 1 3 ++ leBytes 2 0x1234 ++ leBytes 4 70000 ++ leBytes 4 9999999 ++ leBytes 4 610 ++
      [9, 0xF5, 1, 40, 2, 255, 4, 255] ++ zeros 8
    let s := entryUnit claimed 1 .pay bs []
    parseEntry bs = ⟨6, true, true, 0x1234, 70000, 9999999, 610, 9, 5, 1, 40, [2, 4]⟩ ∧ s.entryOf 1 0 = parseEntry bs ∧
    s.outcomeRec 1 0 ⟨.done, 1, 2⟩ = ⟨0, 6, .done, 0x1234, 1, 2⟩ ∧ (theUnit s).owner = some 1 ∧ (theUnit s).entry = some 0 ∧
    (theCtx s).patron = 2 ∧ (theCtx s).branch = 2 ∧ (theCtx s).grade = some .desk ∧
    (parseEntry (slotOf 7 8 0 4294967295 2 0 0 0 0)).until = none := by decide +kernel

/-- The words the part writes, and the bytes of a card. -/
theorem test_words :
    encodeStatus .ready ⟨.overlap, 513⟩ 65535 = [4, 6, 1, 2, 255, 255, 0, 0] ∧
    claimed.sessionWord 1 = [2, 2, 2, 0, 2, 0, 0, 0] ∧ claimed.sessionWord 3 = [1, 1, 2, 0, 255, 255, 255, 255] ∧
    claimed.sessionWord 31 = [0, 0, 2, 0, 255, 255, 255, 255] ∧ encodeCalendar 600 = [88, 2, 0, 0, 0, 0, 0, 0] ∧
    (parseCard (cardRec 70000 1)).patron = 70000 ∧ (parseCard (cardRec 5 1)).state = .lost ∧
    (parseCard (cardRec 5 3)).state = .withdrawn := by decide +kernel

/-- A read of a dropped pass: its data are discarded; its error is counted and skips nothing. -/
theorem test_exam_dropped :
    let s := examining (.item 4) (itemRec (lentItem 7 1 610 599))
    let d (r : Option (Nat × Examined)) : State := { s with sweep := { s.sweep with reading := r, stopped := true } }
    (∀ r : Option (Nat × Examined), r ∈ [none, some (8, .item 0)] →
      (∀ x, (d r).sweep.reading = some x → x.1 ≠ (issuedOwn (d r)).req.serial) ∧
      (d r).pullOwn (fun q => decide (q.tag = .sweepRead)) = some (issuedOwn (d r)) ∧
      (after (exec (.sweepReadDone .done) (d r))).sweep = (d r).sweep ∧
      (after (exec (.sweepReadDone .done) (d r))).loader = (d r).loader ∧
      (after (exec .sweepReadTimeout (d r))).sweep = (d r).sweep ∧
      (after (exec .sweepReadTimeout (d r))).loader.faults = 1 ∧
      waiting (after (exec (.sweepReadDone (.error 0)) (d r))) = [.status]) := by
  intro s d r hr
  simp only [List.mem_cons, List.not_mem_nil, or_false] at hr
  rcases hr with rfl | rfl
  · refine ⟨(by intro x hx; cases hx), ?_⟩; decide +kernel
  · refine ⟨(by intro x hx; injection hx with hx; subst hx; decide +kernel), ?_⟩; decide +kernel

/-- One write over the apply and the format word: any command whose part it covers answers it, and both are taken. -/
theorem test_setup_write_covers_two :
    let s := downstream ready (writeReq 2 Config.applyOff (lanes (zeros 16)))
    WriteDownstream s 5 (issuedUp s) ∧ NoOwnWriteHolds s 5 ∧
    (writeCommands 5 .done).map (fun x => x.2 s (issuedUp s).up.req) = [false, false, false, false, true, true, false] ∧
    ((s.handedOn (issuedUp s)).setupWordsTaken (issuedUp s).up.req).loader.requests = [.apply, .format] ∧
    (∀ c : Instr, c ∈ [.applyRequest 5 .done, .formatRequest 5 .done] →
      (after (exec c s)).loader.requests = [.apply, .format] ∧
      (after (exec c s)).path.returned.map (fun x => x.answer.ok) = [true]) ∧
    (inPart ready .starting).takeRequest .apply = inPart ready .starting ∧
    ((inPart ready .unset).takeRequest .apply).loader.job = .reading .apply .regions [] ∧
    ((inPart (withRequests ready [.warmReset]) .unformatted).takeRequest .format).loader.requests = [.warmReset, .format] := by
  decide +kernel

/-- Where the fields of the block stand. -/
theorem test_block_layout :
    blockField block 12 4 = 1024 ∧ ((blockRegions block).entry .items) = ⟨606208, 1024⟩ ∧
    (blockSetup block).streams[1] = ⟨true, .desk, 2, true⟩ ∧ (blockSetup block).streams[31] = ⟨false, .kiosk, 2, true⟩ ∧
    (blockSetup block).classOf 7 = ⟨21, 2, 25, 1000, 1⟩ ∧ (blockSetup block).limits = limitsOf ∧
    blockDay (addPart block .calendar [88, 2, 0, 0, 0, 0, 0, 0]) = 600 ∧
    blockFaults (addPart block .status [0, 0, 0, 0, 9, 1, 0, 0]) = 265 ∧
    (addPart block .limits (zeros 20)).read 275 = 0 ∧ (addPart block .limits (zeros 20)).read 255 = block.read 255 := by
  decide +kernel

/-- An apply under which running timers are due at once: an idle and a collect timer of streams that stay enabled, and a collect timer of one OFF. -/
theorem test_apply_timers :
    let c : State := ((ready.slotWrite 3 ((List.range 32).zip goodSlot)).slotWrite 31 ((List.range 32).zip goodSlot)).updStream 0
      (fun t => { t with session := .claimed 1, idleTimer := some 60, guardHits := 7 })
    let late (n : StreamId) (s : State) : State := s.updStream n (fun t => { t with collectTimer := some 20 })
    let s := withJob (late 3 (late 31 c)) (.validated .apply setup)
    let t := after (exec .applySetup s)
    s.loader.part = .ready ∧ IdleTimerDue (s.stream 0) setup ∧ CollectTimerDue (s.stream 3) setup ∧ CollectTimerDue (s.stream 31) setup ∧
    (s.stream 3).batch = .collecting ∧ (s.stream 31).batch = .collecting ∧ (s.stream 31).session = .off ∧
    (t.stream 0).session = .vacant ∧ (t.stream 0).answer = .fresh ∧ (t.stream 0).guardHits = 7 ∧
    (t.stream 3).batch = .idle ∧ (t.stream 3).answer = .fresh ∧ (t.stream 31).batch = .idle ∧ (t.stream 31).answer = .fresh := by
  refine ⟨by decide +kernel, ⟨60, by decide +kernel, by decide +kernel⟩, ⟨20, by decide +kernel, by decide +kernel⟩,
    ⟨20, by decide +kernel, by decide +kernel⟩, ?_⟩
  decide +kernel

/-- An answer write of desk 3 held for format stays held until format's write of desk 3 is answered, and goes on then, and at FORMAT_FAULT. -/
theorem test_format_held_desk :
    let w : OwnReq := ⟨9, .answer 3, 0, .write (lanes [1]), none⟩
    let s (p : FormatStep) (r : Bool) : State := { formatting p r with path := { (formatting p r).path with formatHeld := [w] } }
    let t (p : FormatStep) := (after (exec (.formatWriteDone .done) (s p false))).path.formatHeld
    w.tag.answerOf = some 3 ∧ t .note = [w] ∧ t (.desk 2) = [w] ∧ t (.desk 3) = [] ∧ t (.desk 31) = [] ∧
    ready.formatNext (.desk 2) = some (.desk 3) ∧ ready.formatNext (.desk 3) = some (.desk 4) ∧
    w ∈ (after (exec (.formatWriteDone .done) (s (.desk 3) false))).ownWaiting ∧
    (after (exec (.formatWriteDone (.error 0)) (s .note true))).path.formatHeld = [] ∧
    w ∈ (after (exec (.formatWriteDone (.error 0)) (s .note true))).ownWaiting ∧
    (ready.formatBytes 600 (.record .holds 1023)).2 = encodeHold (Hold.freeForm none) ∧
    ((ready.formatBytes 600 (.record .patrons 0)).2)[81]? = some 0 := by decide +kernel

/-- What is recorded as a read is issued: an answer write of its stream raised and unanswered, or none, and their count. -/
theorem test_recorded_at_issue :
    let q : OwnReq := ⟨6, .working 0, deskAddr 0 528, .write (lanes [2]), none⟩
    let s (up : Bool) (n : Nat) : State := { ready.updStream 0 (fun t => { t with answersRaised := 3 }) with
      path := { ready.path with upSlot := some ⟨5, readReq n 65536 1⟩, raised := if up then [q] else [] } }
    let i (s : State) : Nat × Bool := (((issuedUp (after (exec .arbiterGrant s))).answersAtIssue),
      (issuedUp (after (exec .arbiterGrant s))).answerPending)
    (s true 0).inReset = false ∧ i (s true 0) = (3, true) ∧ i (s false 0) = (3, false) ∧ i (s true 1) = (0, false) ∧
    (OwnTag.image (some 4)).answerOf = some 4 ∧ OwnTag.note.answerOf = none := by decide +kernel

/-- WRITTEN: own reads downstream have met the records of the change list; a collection changes the hold, its title and the patron in this order. -/
theorem test_written_touches_and_order :
    let n := writing .note .note (.entry .pay) [endImage] [] false
    let r : IssuedOwn := ⟨⟨4, .sweepRead, 606208, .read 64, none⟩, zeros 64, []⟩
    let s : State := { n with path := { n.path with ownIssued := n.path.ownIssued ++ [r] } }
    let w := workOf queueOf
    UnitWrite s .note (fun t => decide (t = .note)) (issuedOwn s) (theUnit s) (lanes [1]) ∧
    (after (exec (.noteWriteDone .done) s)).path.ownIssued = [{ r with touched := [.desk 0] }] ∧
    (w.hold 11).title = some 7 ∧ 7 < w.count .titles ∧ (w.title 7).first = some 11 ∧
    (w.collect 1 11).images.map Image.target = [.record .titles 7, .record .holds 11, .record .patrons 1] ∧
    (w.unlink 7 12).images.map Image.target = [.record .holds 11, .record .titles 7] ∧
    putImage (w.collect 1 11).images (.hold 11 [] (Hold.freeForm none)) ≠ (w.collect 1 11).images ∧
    (putImage (w.collect 1 11).images (.hold 11 [] (Hold.freeForm none))).map Image.target =
      [.record .titles 7, .record .holds 11, .record .patrons 1] := by decide +kernel

/-- A halt starts the idle timer of the CLAIMED stream whose batch it answers. -/
theorem test_halt_idle :
    let h := writing .clear .clear (.entry .pay) [endImage] [] true
    (h.stream 0).session = .claimed 1 ∧ (h.stream 0).idleTimer = none ∧
    ((after (exec (.unitEnd (.error 0)) h)).stream 0).idleTimer = some 0 := by decide +kernel

/-- The kinds in which the first unit of a RENEW_SET goes on, and those with which the units of the sweep begin. -/
theorem test_unit_kinds :
    let s (first last : Nat) := (entryUnit claimed 0 .renewSet (slotOf 6 0 0 0 0 0 first last 0)
      [(.record .patrons 1, patronRec (patronOf 0 [4])), (.record .items 4, itemRec (lentItem 7 1 610 600)),
        (.record .titles 7, titleRec ⟨[4], 0, none, none⟩), (.summary, sumRec sumOf)]).updStream 0
        (fun t => { t with watches := [⟨.patrons, 1, .unspoiled⟩] })
    let u (s : State) := let x := theUnit (after (exec .renewSet s)); (x.kind, x.code)
    u (s 1 40) = (.renewalSub, 17) ∧ u (s 2 2) = (.closing, 18) ∧ u (s 0 40) = (.entry .renewSet, 6) ∧
    [Offer.item 3, .resume 3, .progress true].map (fun o =>
      (theUnit (after (exec .unitBoundary (offering ready o .batch)))).code) = [32, 34, 35] := by decide +kernel

/-- The unit that finishes the last entry carries the header with the records kept on chip; one before it its own record alone. -/
theorem test_last_entry :
    let s (n : Nat) := (entryUnit claimed 0 .pay (slotOf 10 0 5 0 0 0 0 0 0)
      [(.record .patrons 1, patronRec (patronOf 9 [])), (.summary, sumRec sumOf)]).updStream 0
        (fun t => { t with closedCount := n, guardHits := 7 })
    let x : OutcomeRec := ⟨0, 10, .done, 77, 4, 5⟩
    let image (s : State) := (theUnit (after (exec .pay s))).changes.getLast?
    let two := deciding (s 2) { batchOf 0 with next := 1, outcomes := [x] } (unitOf (.entry .pay) (some 0) 10 (theUnit (s 2)).gathered)
    image (s 1) = some (.desk ⟨0, some ⟨.fresh, .complete, 1, 7⟩, 0, [x]⟩) ∧ image (s 2) = some (.desk ⟨0, none, 0, [x]⟩) ∧
    ((after (exec .pay (s 2))).engine.batch.map (fun b => (b.next, b.prevDone, b.outcomes))) = some (1, true, [x]) ∧
    (two.stream 0).closedCount = 1 + 1 ∧
    ((theUnit (after (exec .pay two))).changes.any (fun g => match g with
      | .desk d => decide (d.header = some ⟨.fresh, .complete, 2, 7⟩) && decide (d.first = 0) && decide (d.records.length = 2) &&
          decide (d.records.head? = some x)
      | _ => false)) = true ∧
    putOutcome [x] { x with d1 := 9 } = [{ x with d1 := 9 }] := by decide +kernel

/-- When a burst crosses, and what the port asks of a request: an empty slot, a hold list not full, nothing of its stream held aside. -/
theorem test_accepts :
    let r := readReq 0 65536 1
    let p (f : Path → Path) : State := { ready with path := f ready.path }
    (readReq 0 69631 1).crosses = false ∧ (readReq 0 69631 2).crosses = true ∧ ready.accepts r = true ∧
    (p (fun x => { x with upSlot := some ⟨5, r⟩ })).accepts r = false ∧ (p (fun x => { x with holdFull := true })).accepts r = false ∧
    (p (fun x => { x with aside := [⟨5, r⟩] })).accepts r = false ∧ (p (fun x => { x with aside := [⟨5, readReq 1 0 1⟩] })).accepts r = true ∧
    (p (fun x => { x with holdList := [⟨5, r⟩] })).accepts r = false := by decide +kernel

/-- A pass-through request goes on past a start-up hold list that waits, after STARTING (R5): not behind one of its own stream held aside (R19), nor
while the list is full (R6). -/
theorem test_pass_through_past_hold_list :
    let r := readReq 3 1073741824 1
    let u (tag : Nat) : UpReq := ⟨tag, readReq 0 65536 1⟩
    let s (full : Bool) : State := { heldBack [u 7] [u 8] true with path := { (heldBack [u 7] [u 8] true).path with holdFull := full } }
    let t := after (exec (.upstreamRequest r) (s false))
    (s false).accepts r = true ∧ Admitted (s false) r ∧ t.path.upSlot.map (·.req) = some r ∧ t.path.holdList = [u 8] ∧
    (s false).accepts (readReq 0 1073741824 1) = false ∧ (s true).accepts r = false := by decide +kernel

/-- A crossing burst, and a write with no strobe left, behind a close whose response is pending; and pass-through behind a close in the hold list. -/
theorem test_behind_a_close :
    let s : State := { claimed with path := { claimed.path with outstanding := [⟨5, 0, true, false, none⟩] } }
    let t (r : Request) := after (exec (.upstreamRequest r) s)
    let held := after (exec (.upstreamRequest (closeReq 0 1)) (inPart claimed .starting))
    (t (readReq 0 69624 2)).path.aside = [] ∧ (t (readReq 0 69624 2)).path.outstanding.map (fun o => o.answer.isSome) = [false, true] ∧
    (t (writeReq 0 65536 (lanes (zeros 8)))).path.aside = [] ∧ (t (readReq 0 65536 1)).path.aside.length = 1 ∧
    held.path.holdList.length = 1 ∧ (after (exec (.upstreamRequest (readReq 0 1073741824 1)) held)).path.upSlot.isSome = true := by
  decide +kernel

/-- A write of the close word's other bytes: no CLOSE, and nothing becomes of the batch. -/
theorem test_close_word_without_count :
    let s := downstream (collecting goodSlot) (writeReq 0 (deskAddr 0 512) (noLane :: lanes [1, 2, 3, 4, 5, 6, 7]))
    WriteDownstream s 5 (issuedUp s) ∧ (issuedUp s).up.tag = 5 ∧ (∃ c ∈ s.deskCells 0 (issuedUp s).up.req, 512 < c.1 ∧ c.1 < 520) ∧
    countByte (s.deskCells 0 (issuedUp s).up.req) = none ∧ s.coversSlots (issuedUp s).up.req = false ∧
    s.coversCancel (issuedUp s).up.req = false ∧ NoSetupWord s (issuedUp s).up.req ∧ NoOwnWriteHolds s 5 ∧
    (∃ o ∈ s.path.outstanding, o.tag = 5) ∧ (after (exec (.apertureWriteResponse 5 .done) s)).streams = s.streams ∧
    (after (exec (.apertureWriteResponse 5 .done) s)).path.returned.map (fun x => x.answer.ok) = [true] := by decide +kernel

/-- What start-up keeps of the note, a failed scan before the last desk and of the last, and a desk image of no bytes. -/
theorem test_startup_keeps :
    let job (s : State) := match s.loader.job with
      | .startup st => some (st.step, st.count, st.images)
      | _ => none
    let head := issue (poke (starting .readNoteHead block 0 []) 4097 [3, 0, 1, 2]) .startupRead 4097 (.read 4)
    let image := issue (poke (starting (.readImage 0) block 2 [badImage]) 4160 deskImageBytes) .startupRead 4160 (.read 384)
    let scan (n : StreamId) := after (exec .startupReadTimeout (startRead (.scanDesk n) block (deskAddr n 528) 1 0 []))
    let run (o : Nat) : RawImage := ⟨7, o, 3, 0, List.replicate 368 7⟩
    job (after (exec (.startupReadDone .done) head)) = some (.readImage 0, 2, []) ∧
    job (after (exec (.startupReadDone .done) image)) = some (.readImage 1, 2, [badImage, parseImage deskImageBytes]) ∧
    (parseImage deskImageBytes).kind = 7 ∧ (parseImage deskImageBytes).run = 16 ∧ (parseImage deskImageBytes).index = 31 ∧
    (parseImage deskImageBytes).length = 256 ∧ waiting (scan 0) = [.status, .startupRead] ∧
    waiting (scan 31) = [.status, .startupWrite none] ∧ (scan 31).loader.faults = 1 ∧
    [run 272, run 273].map ready.imageTarget = [some (.desk 3), none] ∧ (ready.replayWrite (run 272) (.desk 3)).2 = [] := by
  decide +kernel

/-- Where the fields of records stand, and what values out of range read as. -/
theorem test_record_fields :
    let at_ (len off : Nat) (v : List Byte) := zeros off ++ v ++ zeros (len - off - v.length)
    let p (o : Nat) (v : List Byte) := parsePatron (at_ 256 o v)
    let c (o : Nat) (v : List Byte) := parseItem (at_ 64 o v)
    (p 82 [1, 2]).expiry = 513 ∧ (p 84 [1, 2, 3, 4]).balance = 67305985 ∧ (p 88 [41]).loans.length = 40 ∧ (p 91 [2]).bar = true ∧
    (p 92 [255, 255, 255, 255]).ban = none ∧ (parseTitle (at_ 256 116 [33])).copies.length = 32 ∧
    (parseTitle (at_ 256 118 [9])).queueLen = 9 ∧ (c 4 [0xFB]).cls = 3 ∧ (c 5 [0xC5]).home = 5 ∧ (c 6 [3]).circulates = true ∧
    (c 6 [2]).circulates = false ∧ (c 8 [2]).state = .setAside ∧ (c 8 [3]).state = .available ∧ (c 9 [255]).loc = none ∧
    (c 28 [7]).aside = some 7 ∧ (parseHold (at_ 64 0 [5])).state = .free ∧ (parseHold (at_ 64 24 [7])).deadline = some 7 ∧
    (parseSummary (at_ 80 70 [2])).phase = .holds ∧ (parseSummary (at_ 80 78 [7])).skipped = 7 := by decide +kernel

/-- Plain, guarded and mark bytes at the bounds of the records' fields, and the grade the Guard takes. -/
theorem test_field_plan :
    [80, 81, 82, 83, 84, 255].map Region.patrons.fieldKind = [.plain, .mark, .plain, .plain, .guarded, .guarded] ∧
    [4, 5, 6].map Region.cards.fieldKind = [.plain, .mark, .plain] ∧
    [116, 117, 118, 127, 128].map Region.titles.fieldKind = [.plain, .mark, .guarded, .guarded, .plain] ∧
    [6, 7, 8].map Region.items.fieldKind = [.plain, .mark, .guarded] ∧ [1, 2, 3].map Region.holds.fieldKind = [.guarded, .mark, .guarded] ∧
    (ready.updStream 1 (fun t => { t with session := .barred })).guardGrade 1 = none := by decide +kernel

/-- Four requests of two streams: of stream 0 the second waits for the first, which has no response; stream 1's is returned at once, and both of stream
0 in their order when the first is completed. -/
theorem test_responses_in_order :
    let o (t : Nat) (n : StreamId) (a : Option UpAnswer) : Outstanding := ⟨t, n, false, false, a⟩
    let s : State := { ready with path := { ready.path with
      outstanding := [o 1 0 none, o 2 0 (some ⟨true, []⟩), o 3 1 (some ⟨true, []⟩), o 4 1 none] } }
    s.flush.path.returned.map (·.tag) = s.path.returned.map (·.tag) ++ [3] ∧
    s.flush.path.outstanding.map (·.tag) = [1, 2, 4] ∧
    (s.complete 1 ⟨false, []⟩).path.returned.map (fun x => (x.tag, x.answer.ok)) =
      s.path.returned.map (fun x => (x.tag, x.answer.ok)) ++ [(1, false), (2, true), (3, true)] ∧
    (s.complete 1 ⟨false, []⟩).path.outstanding.map (·.tag) = [4] ∧
    (∃ x ∈ s.flush.path.outstanding, x.tag = 2 ∧ x.answer = some ⟨true, []⟩ ∧
      ∃ p ∈ s.flush.path.outstanding.takeWhile (fun p => decide (p ≠ x)), p.stream = x.stream ∧ p.answer = none) := by
  decide +kernel

/-- A write of the close word's count byte, of a byte beside it, and of the last byte of the cancel word: the first and the last hold further requests
aside. -/
theorem test_which_writes_close :
    let w (off : Nat) := writeReq 0 (deskAddr 0 off) ((List.range 8).map (fun j => if j = off % 8 then ⟨true, 1⟩ else noLane))
    let closes (off : Nat) := (after (exec (.upstreamRequest (w off)) claimed)).path.outstanding.map (·.closes)
    closes 512 = [true] ∧ closes 513 = [false] ∧ closes 527 = [true] ∧
    claimed.accepts (w 512) = true ∧ claimed.accepts (w 513) = true ∧ claimed.accepts (w 527) = true := by decide +kernel

/-- A later day while a sweep unit runs: its offer stands and nothing is read; its end clears the offer and the new pass reads item 0. One not begun
is withdrawn, and item 0 read at once. -/
theorem test_pass_during_a_unit :
    let later (s : State) := after (exec (.calendarWrite 5 .done)
      (setupWrite s Config.calendarOff (lanes (leBytes 2 601 ++ zeros 6))))
    let atThree := offering ready (.item 3) .batch
    let s := later (after (exec .unitBoundary atThree))
    (theUnit s).reported = false ∧ s.sweep.offer = some (.item 3) ∧ s.sweep.reading = none ∧ s.sweep.position = 0 ∧
    (later atThree).sweep.offer = none ∧ OwnTag.sweepRead ∈ waiting (later atThree) ∧ OwnTag.sweepRead ∉ waiting s ∧
    (let t := s.endUnit (theUnit s);
      t.sweep.offer = none ∧ t.sweep.position = 0 ∧ t.sweep.reading.map Prod.snd = some (.item 0) ∧
        OwnTag.sweepRead ∈ waiting t) ∧
    (let t := s.abandon (theUnit s) (.record .items 3);
      t.sweep.offer = none ∧ t.sweep.position = 0 ∧ t.sweep.skipped = 1 ∧ t.sweep.reading.map Prod.snd = some (.item 0)) := by
  decide +kernel

/-- A seek of a copy that is AVAILABLE with loan fields still present, without a ready hold: no image. -/
theorem test_seek_changes_nothing :
    let w := workOf [(.record .items 4, itemRec { idleItem 7 with renewals := 2, accrued := 5 }),
      (.record .titles 7, titleRec ⟨[4], 0, none, none⟩)]
    w.idleCopy 7 4 = true ∧ (w.seek 600 7).1.images = [] ∧ (w.offer 600 4 7).1.images ≠ [] := by decide +kernel

/-- An own write a response waits for, answered error: counted and shown; the status word's and one answered done: neither. -/
theorem test_own_write_counted :
    let s (g : OwnTag) := issue (downstream ready (writeReq 0 16896 (lanes (zeros 8)))) g Config.statusOff (.write (lanes [1])) (some 5)
    let t (g : OwnTag) (a : Answer) := after (exec (.ownWriteResponse 6 a) (s g))
    (t (.sessionWord 0) (.error 0)).loader.faults = 1 ∧ waiting (t (.sessionWord 0) (.error 0)) = [.status] ∧
    (t .status (.error 0)).loader.faults = 0 ∧ waiting (t .status (.error 0)) = [] ∧
    (t (.sessionWord 0) .done).loader.faults = 0 ∧ waiting (t (.sessionWord 0) .done) = [] ∧
    (t (.sessionWord 0) .done).path.outstanding = [] := by decide +kernel

end Sys2Proof.Tests
end

section
/-! Obligation O25. The check code of a slot (R60): the register run backwards from zero gives the bits it was fed, so running the
computation over all 32 bytes is the test of the last two. -/

namespace Sys2Proof.Machine

/-- The bits of a byte in the order R60 takes them, the most significant first. -/
def byteBits (b : Byte) : List Bool := (List.range 8).map b.getMsbD

@[simp] theorem byteBits_length (b : Byte) : (byteBits b).length = 8 := by simp [byteBits]

theorem crcByte_eq_foldl_byteBits (r : BitVec 16) (b : Byte) : crcByte r b = (byteBits b).foldl crcBit r := rfl

theorem byteBits_getD (b : Byte) (i : Nat) : (byteBits b).getD i false = b.getMsbD i := by
  by_cases hi : i < 8
  · simp [byteBits, hi]
  · simp [byteBits, hi, BitVec.getMsbD_of_ge b i (by omega)]

/-- Two bytes one after the other, as bits, are the bits of the 16-bit word with the first byte high. -/
theorem byteBits_append_getD (hi lo : Byte) (i : Nat) :
    (byteBits hi ++ byteBits lo).getD i false = (hi ++ lo).getMsbD i := by
  rw [BitVec.getMsbD_append]
  by_cases h : i < 8
  · rw [List.getD_append _ _ _ _ (by simpa using h), byteBits_getD, if_neg (by omega)]
  · rw [List.getD_append_right _ _ _ _ (by simpa using h), byteBits_getD, if_pos (by omega), byteBits_length]

theorem crcBit_eq_ite_xor (r : BitVec 16) (b : Bool) :
    crcBit r b = if r.getLsbD 15 ^^ b then (r <<< 1) ^^^ 0x3D65#16 else r <<< 1 := by
  rw [crcBit, BitVec.msb_eq_getLsbD_last, Bool.xor_comm, Bool.bne_eq_xor]

@[simp] theorem crcBit_msb (r : BitVec 16) : crcBit r r.msb = r <<< 1 := by simp [crcBit]

/-- The shift enters a zero at the bottom and the generator ends in a one, so the lowest bit tells whether the bit differed from the
register's top bit. -/
theorem crcBit_getMsbD_last (r : BitVec 16) (b : Bool) : (crcBit r b).getMsbD 15 = (b != r.msb) := by
  unfold crcBit
  split <;> simp_all

theorem eq_zero_iff_getMsbD (r : BitVec 16) : r = 0#16 ↔ ∀ i < 16, r.getMsbD i = false :=
  ⟨fun h => by simp [h], fun h => BitVec.eq_of_getMsbD_eq fun i hi => by simp [h i hi]⟩

/-- Why the test of R60 works: at most 16 bits bring the register to zero exactly when they are its leading bits and the rest of it is
zero. -/
theorem foldl_crcBit_eq_zero_iff (l : List Bool) (hl : l.length ≤ 16) (r : BitVec 16) :
    l.foldl crcBit r = 0#16 ↔ ∀ i < 16, r.getMsbD i = l.getD i false := by
  induction l generalizing r with
  | nil => simp [eq_zero_iff_getMsbD]
  | cons b l ih =>
    have hlen : l.length ≤ 15 := Nat.le_of_succ_le_succ hl
    rw [List.foldl_cons, ih (by omega)]
    have hlast : l.getD 15 false = false := List.getD_eq_default _ _ hlen
    by_cases hb : b = r.msb
    · subst hb
      constructor
      · intro h i hi
        cases i with
        | zero => rfl
        | succ i => simpa [Nat.add_comm 1 i, show i < 16 by omega] using h i (by omega)
      · intro h i hi
        rcases Nat.lt_or_eq_of_le (Nat.le_of_lt_succ hi) with hi | rfl
        · simpa [Nat.add_comm 1 i, show i < 16 by omega] using h (i + 1) (by omega)
        · rw [hlast]; simp
    · constructor
      · intro h
        exact absurd (h 15 (by omega)) (by rw [crcBit_getMsbD_last, hlast]; simp [hb])
      · intro h
        exact absurd (h 0 (by omega)).symm hb

/-- Two further bytes bring the register to zero exactly when they are the register, high byte first. -/
theorem crcByte_crcByte_eq_zero_iff (r : BitVec 16) (hi lo : Byte) :
    crcByte (crcByte r hi) lo = 0#16 ↔ r = hi ++ lo := by
  rw [crcByte_eq_foldl_byteBits, crcByte_eq_foldl_byteBits, ← List.foldl_append,
    foldl_crcBit_eq_zero_iff _ (by simp)]
  simp only [byteBits_append_getD]
  exact ⟨BitVec.eq_of_getMsbD_eq, fun h i _ => by rw [h]⟩

/-- A 16-bit word is its two bytes exactly when the numbers agree. -/
theorem eq_append_iff_toNat (r : BitVec 16) (hi lo : Byte) :
    r = hi ++ lo ↔ r.toNat = 256 * hi.toNat + lo.toNat := by
  rw [← BitVec.toNat_inj, BitVec.toNat_append, ← Nat.shiftLeft_add_eq_or_of_lt lo.isLt, Nat.shiftLeft_eq]
  omega

theorem checkCode_append (bs cs : List Byte) : checkCode (bs ++ cs) = cs.foldl crcByte (checkCode bs) :=
  List.foldl_append

/-- A slot is its first 30 bytes and the two bytes of its check code. -/
theorem slot_eq_append (bs : List Byte) (h : bs.length = 32) :
    ∃ (p : List Byte) (hi lo : Byte), p.length = 30 ∧ bs = p ++ [hi, lo] := by
  obtain ⟨hi, lo, hlast⟩ := List.length_eq_two.mp (show (bs.drop 30).length = 2 by simp [h])
  exact ⟨bs.take 30, hi, lo, by simp [h], by rw [← hlast, List.take_append_drop]⟩

/-- The test of bytes 30 and 31, for a slot given by its first 30 bytes and these two. -/
theorem checkCorrect_append_iff (p : List Byte) (hi lo : Byte) (h : p.length = 30) :
    checkCorrect (p ++ [hi, lo]) = true ↔ (checkCode p).toNat = 256 * hi.toNat + lo.toNat := by
  have htake : (p ++ [hi, lo]).take 30 = p := List.take_left' h
  have hhi : fieldAt (p ++ [hi, lo]) 30 1 = hi.toNat := by simp [fieldAt, leNat, h]
  have hlo : fieldAt (p ++ [hi, lo]) 31 1 = lo.toNat := by
    simp [fieldAt, leNat, List.drop_append, List.drop_of_length_le, h]
  rw [checkCorrect, decide_eq_true_iff, htake, hhi, hlo, eq_comm]

/-- The computation over all 32 bytes ends at zero exactly when the last two are the code of the first 30. -/
theorem checkCode_append_eq_zero_iff (p : List Byte) (hi lo : Byte) :
    checkCode (p ++ [hi, lo]) = 0#16 ↔ (checkCode p).toNat = 256 * hi.toNat + lo.toNat := by
  rw [checkCode_append, ← eq_append_iff_toNat]
  exact crcByte_crcByte_eq_zero_iff (checkCode p) hi lo

/-- Settles O25: a byte is eight bits of the register's recursion, and both tests of a slot say that its last two bytes are the code of
the first 30. -/
theorem checkCodeOfASlot : Obligations.CheckCodeOfASlot := by
  refine ⟨rfl, fun bs b => checkCode_append bs [b], crcBit_eq_ite_xor, fun bs hbs => ?_⟩
  obtain ⟨p, hi, lo, hp, rfl⟩ := slot_eq_append bs hbs
  rw [checkCorrect_append_iff p hi lo hp, checkCode_append_eq_zero_iff]
  exact ⟨by simp [List.take_left' hp, hp], Iff.rfl⟩

end Sys2Proof.Machine
end

section
/-! Obligation O40. What an offer does with the hold it chooses (R123), what a trap writes (R124), and that a seek is an offer of the
first idle copy or nothing (R125). -/

namespace Sys2Proof.Machine

/-- A SUSPENDED hold is ready from its suspend-until day on (R121). -/
theorem readyHold_iff (T : Nat) (x : Hold) :
    readyHold T x = true ↔ (x.state = .waiting ∨ (x.state = .suspended ∧ ∃ d, x.suspend = some d ∧ d ≤ T)) := by
  cases hs : x.state <;> simp [readyHold, hs, Option.any_eq_true]

/-! ## The hold an offer chooses (R123) -/

theorem chosenHold_of_circulates {w : Work} {c : Nat} (hc : (w.item c).circulates = true) (T t : Nat) :
    w.chosenHold T c t = (w.queue t).find? (fun y => readyHold T y.2) := if_pos hc

theorem chosenHold_eq_none_iff (w : Work) (T c t : Nat) :
    w.chosenHold T c t = none ↔ (w.item c).circulates = false ∨ ∀ y ∈ w.queue t, readyHold T y.2 = false := by
  cases hc : (w.item c).circulates with
  | false => simp [Work.chosenHold, hc]
  | true => simp [chosenHold_of_circulates hc]

theorem chosenHold_isSome_iff {w : Work} {c : Nat} (hc : (w.item c).circulates = true) (T t : Nat) :
    (w.chosenHold T c t).isSome = true ↔ ∃ y ∈ w.queue t, readyHold T y.2 = true := by
  rw [chosenHold_of_circulates hc, List.find?_isSome]

theorem offer_of_chosenHold_none {w : Work} {T c t : Nat} (h : w.chosenHold T c t = none) :
    w.offer T c t = (w.setItem c (w.item c).leftAvailable, 0) := by
  rw [Work.offer, h]

theorem offer_of_chosenHold_some {w : Work} {T c t : Nat} {x : Nat × Hold} (h : w.chosenHold T c t = some x) :
    w.offer T c t = w.trap T c x.1 := by
  rw [Work.offer, h]

/-! ## Trap (R124) -/

theorem onlyRecords_trap (w : Work) (T c h : Nat) :
    OnlyRecords w (w.trap T c h).1 [.record .items c, .record .holds h] :=
  ((OnlyRecords.refl w _).setItem _ (by simp)).setHold _ (by simp)

@[simp] theorem trap_sum (w : Work) (T c h : Nat) : (w.trap T c h).1.sum = w.sum := by simp [Work.trap]

@[simp] theorem trap_item (w : Work) (T c h : Nat) : (w.trap T c h).1.item c = (w.item c).setAsideFor h := by
  simp [Work.trap]

@[simp] theorem trap_hold (w : Work) (T c h : Nat) :
    (w.trap T c h).1.hold h = (w.hold h).trapped c (decide ((w.item c).place = (w.hold h).pickup))
      (daySum T w.setup.limits.shelfDays) := by
  simp [Work.trap]

/-- A copy that stands at the pickup branch goes on the shelf, with a deadline. -/
theorem trap_here {w : Work} {c h : Nat} (hp : (w.item c).place = (w.hold h).pickup) (T : Nat) :
    (w.trap T c h).2 = 2 ∧ (w.trap T c h).1.hold h =
      { w.hold h with
        state := .onShelf, suspend := none, copy := some c
        deadline := some (min (T + w.setup.limits.shelfDays) 65535) } := by
  rw [trap_hold, decide_eq_true hp]
  exact ⟨by simp [Work.trap, hp], rfl⟩

/-- A copy that stands elsewhere goes in transit, with none. -/
theorem trap_elsewhere {w : Work} {c h : Nat} (hp : (w.item c).place ≠ (w.hold h).pickup) (T : Nat) :
    (w.trap T c h).2 = 1 ∧ (w.trap T c h).1.hold h =
      { w.hold h with state := .inTransit, suspend := none, copy := some c, deadline := none } := by
  rw [trap_hold, decide_eq_false hp]
  exact ⟨by simp [Work.trap, hp], rfl⟩

/-! ## Seek (R125) -/

theorem idleCopy_iff (w : Work) (t c : Nat) : w.idleCopy t c = true ↔
    (c < w.setup.regions.items.count ∧ (w.item c).title = t ∧ (w.item c).state = .available ∧
      (w.item c).circulates = true) := by
  rw [Work.idleCopy, Work.copyOf]
  simp only [Bool.and_eq_true, decide_eq_true_iff, and_assoc]
  exact Iff.rfl

theorem seek_of_no_idleCopy {w : Work} {t : Nat} (h : ∀ c ∈ (w.title t).copies, w.idleCopy t c = false) (T : Nat) :
    w.seek T t = (w, 0) := by
  rw [Work.seek, List.find?_eq_none.mpr (by simpa using h)]

/-- The copy a seek takes circulates, so the offer is made exactly when the queue has a ready hold. -/
theorem seek_of_idleCopy {w : Work} {t c : Nat} (h : (w.title t).copies.find? (w.idleCopy t) = some c) (T : Nat) :
    ((∀ y ∈ w.queue t, readyHold T y.2 = false) → w.seek T t = (w, 0)) ∧
    ((∃ y ∈ w.queue t, readyHold T y.2 = true) → w.seek T t = w.offer T c t) := by
  obtain ⟨-, -, -, hcirc⟩ := (idleCopy_iff w t c).mp (List.find?_some h)
  have hseek : w.seek T t = if (w.chosenHold T c t).isSome then w.offer T c t else (w, 0) := by rw [Work.seek, h]
  rw [hseek]
  constructor
  · intro hnone
    rw [(chosenHold_eq_none_iff w T c t).mpr (.inr hnone)]
    rfl
  · intro hready
    exact if_pos ((chosenHold_isSome_iff hcirc T t).mpr hready)

/-- Settles O40: an offer does what its chosen hold says, a trap or the copy left AVAILABLE, and a seek makes one such offer. -/
theorem offerTrapsTheOldestReadyHold : Obligations.OfferTrapsTheOldestReadyHold := by
  refine ⟨readyHold_iff, fun w T c t => ⟨fun hnone => ?_, fun h x hcirc hfind => ?_⟩, idleCopy_iff,
    fun w T t => ⟨fun h => seek_of_no_idleCopy h T, fun c h => seek_of_idleCopy h T⟩⟩
  · rw [offer_of_chosenHold_none ((chosenHold_eq_none_iff w T c t).mpr hnone)]
    have hitem : (w.setItem c (w.item c).leftAvailable).item c = (w.item c).leftAvailable := by simp
    exact ⟨rfl, (OnlyRecords.refl w _).setItem _ (by simp), setItem_sum .., hitem⟩
  · rw [offer_of_chosenHold_some ((chosenHold_of_circulates hcirc T t).trans hfind)]
    exact ⟨onlyRecords_trap w T c h, trap_sum .., trap_item .., fun hp => trap_here hp T,
      fun hp => trap_elsewhere hp T⟩

end Sys2Proof.Machine
end

section
/-! Obligations O4, O5 and O6. Every command either keeps memory and the laws of the streams (the `keeps_` lemmas) or lands an answered
write, which keeps the canonical form of memory; both hold at reset. -/

namespace Sys2Proof.Machine

/-! ## The laws at reset -/

theorem stream_reset (n : StreamId) : State.reset.stream n = Stream.reset := by
  simp [State.stream, State.reset]

theorem settled_reset : Stream.reset.settled = Stream.reset := rfl

/-- The stream laws hold of a state whose streams and fault count are those of reset. -/
theorem laws_of_reset_streams {t : State} (hs : t.streams = State.reset.streams) (hf : t.loader.faults = 0) :
    StreamsSettled t ∧ StreamsBounded t ∧ ClaimsUnique t ∧ FaultsBounded t := by
  have hstream : ∀ n, t.stream n = Stream.reset := fun n => (stream_of_streams_eq hs n).trans (stream_reset n)
  refine ⟨fun n => ?_, fun n => ?_, fun m n p hm _ => ?_, ?_⟩
  · rw [hstream]; exact settled_reset
  · rw [hstream]; simp [Stream.bounded, Stream.reset]
  · rw [hstream] at hm; simp [Stream.reset] at hm
  · simp [FaultsBounded, hf]

/-- Settles O6: no stream of the reset state holds anything, and memory lists nothing. -/
theorem invariantsHoldAtReset : Obligations.InvariantsHoldAtReset :=
  ⟨nil_wf, laws_of_reset_streams rfl rfl⟩

/-! ## What every command keeps -/

/-- The invariants of O4 and O5 go over from one state to another. -/
structure Lawful (s t : State) : Prop where
  memory : MemoryCanonical s → MemoryCanonical t
  settled : StreamsSettled s → StreamsSettled t
  bounded : StreamsBounded s → StreamsBounded t
  claims : ClaimsUnique s → ClaimsUnique t
  faults : FaultsBounded s → FaultsBounded t

theorem Lawful.refl (s : State) : Lawful s s := ⟨id, id, id, id, id⟩

theorem Lawful.trans {r s t : State} (h : Lawful r s) (k : Lawful s t) : Lawful r t :=
  ⟨k.memory ∘ h.memory, k.settled ∘ h.settled, k.bounded ∘ h.bounded, k.claims ∘ h.claims, k.faults ∘ h.faults⟩

theorem Keeps.lawful {s t : State} (h : Keeps s t) : Lawful s t :=
  ⟨fun hm => by rw [MemoryCanonical, h.mem]; exact hm, h.settled, h.bounded, h.claims, h.faults⟩

/-- Memory replaced by memory that is canonical when the old one was. -/
theorem lawful_setMem (s : State) {m : Memory} (hm : s.mem.wf → m.wf) : Lawful s { s with mem := m } :=
  ⟨hm, id, id, id, id⟩

theorem lawful_ite {c : Prop} [Decidable c] {s a b : State} (ha : Lawful s a) (hb : Lawful s b) :
    Lawful s (if c then a else b) := by
  split
  · exact ha
  · exact hb

/-- A command of a part out of reset keeps what its effect keeps. -/
theorem lawful_live {f : State → State} (hf : ∀ s, Lawful s (f s)) (s : State) : Lawful s (s.live f) :=
  lawful_ite (Lawful.refl s) (hf s)

/-! ## The landing of a write -/

theorem lawful_landOwn (s : State) (q : OwnReq) (a : Answer) : Lawful s (s.landOwn q a) := by
  unfold State.landOwn
  split
  · exact Lawful.refl s
  · exact lawful_setMem s (land_wf _ _ _ _)

theorem lawful_landOwnWhole (s : State) (q : OwnReq) (a : Answer) : Lawful s (s.landOwnWhole q a) := by
  unfold State.landOwnWhole
  split
  · exact Lawful.refl s
  · exact lawful_setMem s (landWhole_wf _ _ _ _)

theorem lawful_landStartup (s : State) (st : Startup) (q : OwnReq) (a : Answer) : Lawful s (s.landStartup st q a) := by
  unfold State.landStartup
  split
  · exact lawful_landOwn s q a
  · exact lawful_landOwnWhole s q a

theorem lawful_landFormat (s : State) (f : Formatting) (q : OwnReq) (a : Answer) : Lawful s (s.landFormat f q a) := by
  unfold State.landFormat
  split
  · exact lawful_landOwnWhole s q a
  · exact lawful_landOwn s q _
  · exact lawful_landOwn s q a

/-! ## Reset and start-up -/

/-- A reset leaves the laws of the streams as they hold at reset. -/
theorem lawful_afterReset (s : State) {m : Memory} (hm : s.mem.wf → m.wf) : Lawful s (s.afterReset m) := by
  obtain ⟨hset, hbound, hclaims, hfaults⟩ := laws_of_reset_streams (t := s.afterReset m) rfl rfl
  exact ⟨hm, fun _ => hset, fun _ => hbound, fun _ => hclaims, fun _ => hfaults⟩

theorem lawful_release (s : State) (n : Fin 16) : Lawful s (s.release n) := by
  have hpins : Lawful (s.afterReset s.mem) { s.afterReset s.mem with inReset := false, base := n.val * Config.apertureSize } :=
    ⟨id, id, id, id, id⟩
  exact ((lawful_afterReset s id).trans hpins).trans (keeps_startupRead _ _ _ _).lawful

theorem lawful_startupReadAnswered (d : IssuedOwn → Option (List Byte)) (s : State) : Lawful s (s.startupReadAnswered d) := by
  unfold State.startupReadAnswered
  split
  next i st _ _ =>
    dsimp only
    split
    · exact ((keeps_dropOwn s _).trans (keeps_startupReadOk _ _ _)).lawful
    · exact ((keeps_dropOwn s _).trans (keeps_startupReadFailed _ _)).lawful
  · exact Lawful.refl s

theorem lawful_startupWriteAnswered (a : Answer) (s : State) : Lawful s (s.startupWriteAnswered a) := by
  unfold State.startupWriteAnswered
  split
  · exact Lawful.refl s
  next i _ =>
    split
    · exact (lawful_landOwnWhole s _ _).trans (keeps_dropOwn _ _).lawful
    · split
      · exact (lawful_landStartup s _ _ _).trans ((keeps_dropOwn _ _).trans (keeps_startupWritten _ _ _ _)).lawful
      · exact Lawful.refl s

/-! ## The inline path -/

theorem lawful_upAnswered (tag : Nat) (about : Request → Bool) (f : State → IssuedUp → State)
    (hf : ∀ t i, Lawful t (f t i)) (s : State) : Lawful s (s.upAnswered tag about f) := by
  unfold State.upAnswered
  split
  · exact lawful_ite ((keeps_dropUp s tag).lawful.trans (hf _ _)) (Lawful.refl s)
  · exact Lawful.refl s

theorem lawful_passBack (s : State) (i : IssuedUp) (a : Answer) : Lawful s (s.passBack i a) := by
  unfold State.passBack
  dsimp only
  split
  · exact (lawful_setMem s (land_wf _ _ _ _)).trans ((keeps_complete _ _ _).trans (keeps_drain _)).lawful
  · split <;> exact ((keeps_complete s _ _).trans (keeps_drain _)).lawful

theorem lawful_writeBack (s : State) (i : IssuedUp) (a : Answer) : Lawful s (s.writeBack i a) :=
  (lawful_setMem s (land_wf _ _ _ _)).trans (lawful_ite ((keeps_handOn _ _).trans (keeps_respond _ _)).lawful
    ((keeps_complete _ _ _).trans (keeps_drain _)).lawful)

theorem lawful_writeAnswered (tag : Nat) (a : Answer) (about : State → Request → Bool) (s : State) :
    Lawful s (s.writeAnswered tag a about) :=
  lawful_upAnswered tag _ _ (fun t i => lawful_writeBack t i a) s

theorem lawful_ownWriteAnswered (s : State) (i : IssuedOwn) (a : Answer) (b : Bool) : Lawful s (s.ownWriteAnswered i a b) :=
  (lawful_landOwnWhole s _ _).trans ((keeps_dropOwn _ _).trans
    ((keeps_ite _ (Keeps.refl _) (keeps_storeFault _)).trans (keeps_releaseHeld _ _ _))).lawful

/-! ## Units, the sweep's reads, the Setup Loader -/

theorem lawful_unitWriteAnswered (p : Phase) (a : Answer) (want : OwnTag → Bool) (done : State → WorkUnit → State)
    (hdone : ∀ s u, Keeps s (done s u)) (s : State) : Lawful s (s.unitWriteAnswered p a want done) := by
  unfold State.unitWriteAnswered
  split
  · exact (lawful_landOwn s _ _).trans ((keeps_dropOwn _ _).trans (keeps_ite _ (hdone _ _) (keeps_writeError _ _ _))).lawful
  · exact Lawful.refl s

theorem lawful_applyWriteAnswered (a : Answer) (s : State) : Lawful s (s.applyWriteAnswered a) := by
  unfold State.applyWriteAnswered
  split
  · exact lawful_unitWriteAnswered _ _ _ _ keeps_writeImages s
  · exact lawful_unitWriteAnswered _ _ _ _ keeps_raiseNext s

theorem keeps_sweepRead (a : Answer) (s : State) : Keeps s
    (match s.pullOwn (fun q => decide (q.tag = .sweepRead)) with
      | some i => (s.dropOwn i.req.serial).sweepReadAnswered i a
      | none => s) := by
  split
  · exact (keeps_dropOwn s _).trans (keeps_sweepReadAnswered _ _ _)
  · exact Keeps.refl s

theorem keeps_setupReadAnswered (d : IssuedOwn → Option (List Byte)) (s : State) : Keeps s (s.setupReadAnswered d) := by
  unfold State.setupReadAnswered
  split
  · split
    · exact (keeps_dropOwn s _).trans (keeps_partRead _ _ _ _ _)
    · exact (keeps_dropOwn s _).trans (keeps_partFailed _)
  · exact Keeps.refl s

/-! ## One command, one step -/

/-- Every command has a next state, and the invariants go over to it. -/
theorem exec_lawful (c : Instr) (s : State) : ∃ t, exec c s = .next t ∧ Lawful s t := by
  cases c with
  | coldReset landed => exact ⟨_, rfl, lawful_afterReset s (landCut_wf _ _ _)⟩
  | coldResetRelease n => exact ⟨_, rfl, lawful_ite (lawful_release s n) (Lawful.refl s)⟩
  | startupReadDone a => exact ⟨_, rfl, lawful_live (fun s => lawful_startupReadAnswered _ s) s⟩
  | startupWriteDone a => exact ⟨_, rfl, lawful_live (fun s => lawful_startupWriteAnswered a s) s⟩
  | upstreamRequest r => exact ⟨_, rfl, lawful_ite (keeps_takeUpstream s r).lawful (Lawful.refl s)⟩
  | arbiterGrant =>
    exact ⟨_, rfl, lawful_live (fun s => ((keeps_grant s).trans ((keeps_refillOwn _).trans (keeps_drain _))).lawful) s⟩
  | passThroughResponse tag a =>
    exact ⟨_, rfl, lawful_live (fun s => lawful_upAnswered tag _ _ (fun t i => lawful_passBack t i a) s) s⟩
  | apertureWriteResponse tag a => exact ⟨_, rfl, lawful_live (fun s => lawful_writeAnswered tag a _ s) s⟩
  | entrySlotWrite tag a => exact ⟨_, rfl, lawful_live (fun s => lawful_writeAnswered tag a _ s) s⟩
  | closeWord tag a => exact ⟨_, rfl, lawful_live (fun s => lawful_writeAnswered tag a _ s) s⟩
  | cancelWord tag a => exact ⟨_, rfl, lawful_live (fun s => lawful_writeAnswered tag a _ s) s⟩
  | answerWriteResponse n a =>
    refine ⟨_, rfl, lawful_live (fun s => ?_) s⟩
    split
    · exact lawful_ownWriteAnswered s _ a true
    · exact Lawful.refl s
  | ownWriteResponse tag a =>
    refine ⟨_, rfl, lawful_live (fun s => ?_) s⟩
    split
    · exact lawful_ownWriteAnswered s _ a false
    · exact Lawful.refl s
  | readDataArrival tag a =>
    exact ⟨_, rfl, lawful_live (fun s => lawful_upAnswered tag _ _ (fun t i => (keeps_readArrives t i a).lawful) s) s⟩
  | answerStateRead tag a =>
    exact ⟨_, rfl, lawful_live (fun s => lawful_upAnswered tag _ _
      (fun t i => ((keeps_answerRead t i a).trans (keeps_readArrives _ i a)).lawful) s) s⟩
  | idleExpiry n =>
    exact ⟨_, rfl, lawful_live (fun s => lawful_ite (keeps_idleExpire s n).lawful (Lawful.refl s)) s⟩
  | collectTimerExpiry n =>
    exact ⟨_, rfl, lawful_live (fun s => lawful_ite (keeps_collectExpire s n).lawful (Lawful.refl s)) s⟩
  | unitBoundary => exact ⟨_, rfl, lawful_ite (keeps_boundary s).lawful (Lawful.refl s)⟩
  | gatherReadResponse a => exact ⟨_, rfl, lawful_live (fun s => (keeps_gatherAnswered s _).lawful) s⟩
  | gatherReadTimeout => exact ⟨_, rfl, lawful_live (fun s => (keeps_gatherAnswered s _).lawful) s⟩
  | claim => exact ⟨_, rfl, (keeps_decideClaim s).lawful⟩
  | release => exact ⟨_, rfl, (keeps_decideRelease s).lawful⟩
  | lend => exact ⟨_, rfl, (keeps_decideEntry s _ _).lawful⟩
  | returnItem => exact ⟨_, rfl, (keeps_decideEntry s _ _).lawful⟩
  | renew => exact ⟨_, rfl, (keeps_decideEntry s _ _).lawful⟩
  | renewSet => exact ⟨_, rfl, (keeps_decideRenewSet s).lawful⟩
  | renewalSubUnit => exact ⟨_, rfl, (keeps_decideRenewalSub s).lawful⟩
  | closingUnit => exact ⟨_, rfl, (keeps_decideClosing s).lawful⟩
  | holdPlace => exact ⟨_, rfl, (keeps_decideEntry s _ _).lawful⟩
  | holdCancel => exact ⟨_, rfl, (keeps_decideEntry s _ _).lawful⟩
  | holdPause => exact ⟨_, rfl, (keeps_decideEntry s _ _).lawful⟩
  | pay => exact ⟨_, rfl, (keeps_decideEntry s _ _).lawful⟩
  | waive => exact ⟨_, rfl, (keeps_decideEntry s _ _).lawful⟩
  | arrive => exact ⟨_, rfl, (keeps_decideEntry s _ _).lawful⟩
  | patronBar => exact ⟨_, rfl, (keeps_decideEntry s _ _).lawful⟩
  | streamReopen => exact ⟨_, rfl, (keeps_decideReopen s).lawful⟩
  | freshenSubUnit => exact ⟨_, rfl, (keeps_decideFreshenSub s).lawful⟩
  | skipUnit => exact ⟨_, rfl, (keeps_decideSkip s).lawful⟩
  | endUnit => exact ⟨_, rfl, (keeps_decideEnd s).lawful⟩
  | faultUnit => exact ⟨_, rfl, (keeps_decideFault s).lawful⟩
  | sweepFreshen => exact ⟨_, rfl, (keeps_decideSweepFreshen s).lawful⟩
  | sweepExpiry => exact ⟨_, rfl, (keeps_decideSweepExpiry s).lawful⟩
  | sweepResume => exact ⟨_, rfl, (keeps_decideSweepResume s).lawful⟩
  | sweepProgress => exact ⟨_, rfl, (keeps_decideSweepProgress s).lawful⟩
  | noteWriteDone a => exact ⟨_, rfl, lawful_unitWriteAnswered _ a _ _ keeps_raiseNext s⟩
  | applyWriteDone a => exact ⟨_, rfl, lawful_applyWriteAnswered a s⟩
  | unitEnd a => exact ⟨_, rfl, lawful_unitWriteAnswered _ a _ _ keeps_endUnit s⟩
  | sweepReadDone a => exact ⟨_, rfl, lawful_live (fun s => (keeps_sweepRead a s).lawful) s⟩
  | sweepReadTimeout => exact ⟨_, rfl, lawful_live (fun s => (keeps_sweepRead (.error 0) s).lawful) s⟩
  | calendarWrite tag a => exact ⟨_, rfl, lawful_live (fun s => lawful_writeAnswered tag a _ s) s⟩
  | applyRequest tag a => exact ⟨_, rfl, lawful_live (fun s => lawful_writeAnswered tag a _ s) s⟩
  | formatRequest tag a => exact ⟨_, rfl, lawful_live (fun s => lawful_writeAnswered tag a _ s) s⟩
  | warmResetRequest tag a => exact ⟨_, rfl, lawful_live (fun s => lawful_writeAnswered tag a _ s) s⟩
  | applySetup =>
    refine ⟨_, rfl, lawful_live (fun s => ?_) s⟩
    split
    · exact (keeps_applyAccepted s _).lawful
    · exact Lawful.refl s
  | setupReadDone a => exact ⟨_, rfl, lawful_live (fun s => (keeps_setupReadAnswered _ s).lawful) s⟩
  | setupReadTimeout => exact ⟨_, rfl, lawful_live (fun s => (keeps_setupReadAnswered _ s).lawful) s⟩
  | format =>
    refine ⟨_, rfl, lawful_live (fun s => ?_) s⟩
    split
    · exact lawful_ite (keeps_formatAccepted s _).lawful ((keeps_setResult s _).trans (keeps_endJob _)).lawful
    · exact Lawful.refl s
  | formatWriteDone a =>
    refine ⟨_, rfl, lawful_live (fun s => ?_) s⟩
    split
    · exact (lawful_landFormat s _ _ _).trans ((keeps_dropOwn _ _).trans (keeps_formatWritten _ _ _)).lawful
    · exact Lawful.refl s
  | warmReset => exact ⟨_, rfl, lawful_ite (keeps_warmResetNow s).lawful (Lawful.refl s)⟩
  | startupReadTimeout => exact ⟨_, rfl, lawful_live (fun s => lawful_startupReadAnswered _ s) s⟩

/-- One second changes only the two timers of each stream. -/
theorem keeps_second (s : State) : Keeps s s.second := by
  have hone : Gentle (fun t : Stream =>
      { t with idleTimer := t.idleTimer.map (· + 1), collectTimer := t.collectTimer.map (· + 1) }) :=
    gentle_of_eq (fun _ => rfl) (fun _ => rfl) (fun _ => rfl) (fun _ => rfl)
  exact Keeps.foldl _ (fun x n => keeps_updStream x n hone) _ s

theorem lawful_setPending (s : State) (cs : List Instr) : Lawful s { s with pending := cs } := ⟨id, id, id, id, id⟩

theorem lawful_idleStep (s : State) : Lawful s s.idleStep :=
  lawful_ite (keeps_second s).lawful (lawful_setPending s _)

/-- Every step has a next state, and the invariants go over to it. -/
theorem step_lawful {s t : State} (h : step s = .next t) : Lawful s t := by
  unfold step at h
  split at h
  next c cs _ =>
    obtain ⟨v, hv, hl⟩ := exec_lawful c { s with pending := cs }
    rw [hv] at h
    cases h
    exact (lawful_setPending s cs).trans hl
  · cases h
    exact lawful_idleStep s

/-- Settles O4: every step hands the invariants on. -/
theorem everyStepKeepsMemoryCanonical : Obligations.EveryStepKeepsMemoryCanonical :=
  fun _ _ hm h => (step_lawful h).memory hm

/-- Settles O5: every step hands the invariants on. -/
theorem everyStepKeepsTheStreamLaws : Obligations.EveryStepKeepsTheStreamLaws :=
  fun _ _ ⟨hset, hbound, hclaims, hfaults⟩ h =>
    ⟨(step_lawful h).settled hset, (step_lawful h).bounded hbound, (step_lawful h).claims hclaims,
      (step_lawful h).faults hfaults⟩

end Sys2Proof.Machine
end

section
/-! Obligations O1, O2, O3, O8, O9 and O44. One step, the state at reset, the reset pin, and LEND's checks in their order. -/

namespace Sys2Proof.Machine

/-! ## A sweep over all streams -/

/-- An operation on each stream in turn, which leaves the other streams: each entry is what its own turn makes of it. -/
theorem stream_foldl {P : State → Prop} {F : StreamId → Stream → Stream} {g : State → StreamId → State}
    (hP : ∀ x n, P x → P (g x n)) (hself : ∀ x n, P x → (g x n).stream n = F n (x.stream n))
    (hother : ∀ x n m, P x → m ≠ n → (g x n).stream m = x.stream m) (l : List StreamId) (hl : l.Nodup) :
    ∀ s, P s → ∀ m, (l.foldl g s).stream m = if m ∈ l then F m (s.stream m) else s.stream m := by
  induction l with
  | nil => intro s _ m; simp
  | cons n l ih =>
    intro s hs m
    obtain ⟨hn, hl⟩ := List.nodup_cons.mp hl
    rw [List.foldl_cons, ih hl _ (hP s n hs) m]
    by_cases hm : m = n
    · subst hm; simp [hn, hself s m hs]
    · simp [hm, hother s n m hs hm]

theorem stream_foldl_all {P : State → Prop} {F : StreamId → Stream → Stream} {g : State → StreamId → State}
    (hP : ∀ x n, P x → P (g x n)) (hself : ∀ x n, P x → (g x n).stream n = F n (x.stream n))
    (hother : ∀ x n m, P x → m ≠ n → (g x n).stream m = x.stream m) {s : State} (hs : P s) (m : StreamId) :
    (allStreams.foldl g s).stream m = F m (s.stream m) := by
  rw [stream_foldl hP hself hother allStreams allStreams_nodup s hs m, if_pos (mem_allStreams m)]

/-- What a settled entry keeps, field by field. -/
theorem settled_eq_iff (t : Stream) : t.settled = t ↔
    (t.session.isClaimed = false → t.watches = []) ∧
    (t.idleTimer.isSome ↔ t.session.isClaimed = true ∧ t.batch = .idle) ∧
    (t.session = .off → t.checkFails = 0) := by
  rcases t with ⟨session, fails, timer, hits, watches, batch, cap, w, tn, ct, cc, ca, an, ar⟩
  cases session <;> cases timer <;> by_cases hb : batch = .idle <;>
    simp [Stream.settled, Session.isClaimed, hb, eq_comm, and_comm]

/-! ## The empty queue -/

/-- A settled entry stays settled as its timers run. -/
theorem settled_later {t : Stream} (h : t.settled = t) :
    ({ t with idleTimer := t.idleTimer.map (· + 1), collectTimer := t.collectTimer.map (· + 1) } : Stream).settled =
      { t with idleTimer := t.idleTimer.map (· + 1), collectTimer := t.collectTimer.map (· + 1) } := by
  rw [settled_eq_iff] at h ⊢
  simpa using h

theorem onlyParts_second (s : State) : OnlyParts s s.second [.streams] :=
  OnlyParts.foldl _ (fun x n => onlyParts_updStream x n _) _ s

theorem stream_second {s : State} (hs : StreamsSettled s) (n : StreamId) : s.second.stream n =
    { s.stream n with
      idleTimer := (s.stream n).idleTimer.map (· + 1)
      collectTimer := (s.stream n).collectTimer.map (· + 1) } := by
  rw [State.second, stream_forall_updStream (fun _ t =>
    { t with idleTimer := t.idleTimer.map (· + 1), collectTimer := t.collectTimer.map (· + 1) })]
  exact settled_later (hs n)

theorem mem_dueTimers (s : State) (c : Instr) : c ∈ s.dueTimers ↔ ∃ n : StreamId,
    (c = .idleExpiry n ∧ s.idleDue n = true) ∨ (c = .collectTimerExpiry n ∧ s.collectDue n = true) := by
  simp only [State.dueTimers, List.mem_flatten, List.mem_map, mem_allStreams, true_and, exists_exists_eq_and,
    List.mem_append]
  refine exists_congr fun n => or_congr ?_ ?_
  · cases s.idleDue n <;> simp
  · cases s.collectDue n <;> simp

theorem step_of_empty {s : State} (h : s.pending = []) : step s = .next s.idleStep := by
  simp [step, h]

/-- Settles O2: nothing due and the second passes, or the due expiries are the new queue. -/
theorem emptyQueueIsOneSecond : Obligations.EmptyQueueIsOneSecond := by
  intro s hp hs
  rw [step_of_empty hp, State.idleStep]
  constructor
  · intro hnone
    have hempty : s.dueTimers = [] := by
      rw [List.eq_nil_iff_forall_not_mem]
      intro c hc
      obtain ⟨n, hn⟩ := (mem_dueTimers s c).mp hc
      simp [hnone n] at hn
    rw [hempty]
    exact ⟨s.second, rfl, onlyParts_second s, stream_second hs⟩
  · rintro ⟨n, hn⟩
    have hsome : s.dueTimers ≠ [] := by
      rcases hn with hn | hn
      · exact List.ne_nil_of_mem ((mem_dueTimers s _).mpr ⟨n, .inl ⟨rfl, hn⟩⟩)
      · exact List.ne_nil_of_mem ((mem_dueTimers s _).mpr ⟨n, .inr ⟨rfl, hn⟩⟩)
    rw [if_neg (by simpa using hsome)]
    refine ⟨_, rfl, ?_, mem_dueTimers s⟩
    intro p hp
    cases p <;> simp [Unchanged] at hp ⊢

/-- Settles O1: the step runs the command at the front. -/
theorem stepRunsFrontCommand : Obligations.StepRunsFrontCommand := by
  intro c cs s h
  simp only [step, h]

/-! ## Reset -/

theorem flagAt_replicate_false (w : Nat) : flagAt (Vector.replicate 64 false) w = false := by
  rw [flagAt, Vector.toList_replicate, List.getD_eq_getElem?_getD, List.getElem?_replicate]
  split <;> rfl

/-- Settles O3: the fields of the reset state, read off; each stream's entry is the one of reset. -/
theorem resetValues : Obligations.ResetValues := by
  refine ⟨rfl, rfl, rfl, rfl, fun n => ?_, ?_⟩
  · rw [stream_reset]
    exact ⟨rfl, rfl, rfl, rfl, rfl, rfl, rfl, rfl, rfl, rfl, rfl,
      fun w => ⟨flagAt_replicate_false w, flagAt_replicate_false w⟩⟩
  · repeat' constructor

@[simp] theorem cutLanes_length : ∀ (k : Nat) (ls : List Lane), (cutLanes k ls).length = ls.length
  | _, [] => by simp [cutLanes]
  | 0, _ :: ls => by simp [cutLanes, cutLanes_length 0 ls]
  | k + 1, l :: ls => by
    unfold cutLanes
    split <;> simp [cutLanes_length _ ls]

/-- Writes cut off leave every byte that none of them covers. -/
theorem read_landCut_outside (x : Nat) : ∀ (ws : List (Nat × List Lane)) (m : Memory) (ks : List Nat),
    (∀ w ∈ ws, x < w.1 ∨ w.1 + w.2.length ≤ x) → (landCut m ws ks).read x = m.read x
  | [], m, ks, _ => by rw [landCut]
  | w :: ws, m, ks, h => by
    obtain ⟨hw, hws⟩ := List.forall_mem_cons.mp h
    have hone : ∀ k, (m.writeLanes w.1 (cutLanes k w.2)).read x = m.read x :=
      fun k => read_writeLanes_outside _ _ _ _ (by rwa [cutLanes_length])
    cases ks with
    | nil => rw [landCut, read_landCut_outside x ws _ _ hws, hone]
    | cons k ks => rw [landCut, read_landCut_outside x ws _ _ hws, hone]

/-- Settles O8: a cold reset is the reset state but for memory, base and the model's own records. -/
theorem coldResetLosesAllOnChipState : Obligations.ColdResetLosesAllOnChipState :=
  fun landed s => ⟨_, rfl, rfl, rfl, rfl, rfl, rfl, rfl, rfl, rfl, rfl,
    fun x hx => read_landCut_outside x _ s.mem landed hx⟩

/-- Settles O9: the release samples the pins and raises the read of the status word; out of reset nothing changes. -/
theorem releaseSamplesThePins : Obligations.ReleaseSamplesThePins := by
  intro n s
  constructor
  · intro hr
    refine ⟨s.release n, ?_, ?_⟩
    · simp [exec, execColdResetRelease, hr]
    · have hmem : (s.release n).mem = s.mem := by simp [State.release, State.startupRead, State.afterReset]
      have hstreams : (s.release n).streams = State.reset.streams := raise_streams _ _ _ _ _ rfl
      refine ⟨?_, ?_, hmem, hstreams, ?_, ?_, ?_, ?_, ?_, awaits_raise _ _ _ _ _, ?_⟩ <;>
        simp [State.release, State.startupRead, State.afterReset, State.setStartup, State.reset, Loader.reset,
          Config.apertureSize]
  · intro hr
    simp [exec, execColdResetRelease, hr]

/-! ## LEND's checks -/

/-- The first failing check of a list is that of the first two, or of the rest. -/
theorem findSome_id_cons (a : Option Outcome) (l : List (Option Outcome)) :
    (a :: l).findSome? id = orElseCheck a (l.findSome? id) := by
  cases a <;> simp [orElseCheck]

theorem standing_eq (k : Ctx) (p : Patron) : standing k p =
    orElseCheck (if p.bar then some (plain .patronBarred) else none)
      (orElseCheck (if p.expiry < k.day then some ⟨.patronExpired, p.expiry, 0⟩ else none)
        (if k.setup.limits.blockThreshold ≤ p.balance then
          some ⟨.fineBlock, p.balance, k.setup.limits.blockThreshold⟩ else none)) := by
  unfold standing
  by_cases h1 : p.bar <;> by_cases h2 : p.expiry < k.day <;> simp [h1, h2, orElseCheck]

theorem orElseCheck_none (a : Option Outcome) : orElseCheck a none = a := by cases a <;> rfl

theorem orElseCheck_assoc (a b c : Option Outcome) : orElseCheck (orElseCheck a b) c = orElseCheck a (orElseCheck b c) := by
  cases a <;> rfl

/-- Settles O44: the checks written as one list, the first that fails decides. -/
theorem lendChecksInOrder : Obligations.LendChecksInOrder := by
  refine ⟨fun k p => ?_, fun k w => ?_⟩
  · simp only [findSome_id_cons, List.findSome?_nil, orElseCheck_none, standing_eq]
  · simp only [findSome_id_cons, List.findSome?_nil, orElseCheck_none, lendChecks, standing_eq, orElseCheck_assoc]
    cases (w.item k.entry.target).circulates <;> rfl

end Sys2Proof.Machine
end

section
/-! Obligation O7. Where each field of a record stands, and that the records a unit writes are read back as they were. -/

namespace Sys2Proof.Machine

/-! ## Runs of bytes -/

@[simp] theorem leBytes_length (n v : Nat) : (leBytes n v).length = n := by
  induction n generalizing v with
  | zero => rfl
  | succ n ih => simp [leBytes, ih]

/-- The last byte first: what a number written in `n` bytes reads as. -/
@[simp] theorem leNat_leBytes (n v : Nat) : leNat (leBytes n v) = v % 256 ^ n := by
  induction n generalizing v with
  | zero => simp [leBytes, leNat, Nat.mod_one]
  | succ n ih =>
    have hsplit : v % 256 ^ (n + 1) = v % 256 + 256 * (v / 256 % 256 ^ n) := by
      rw [pow_succ, mul_comm, Nat.mod_mul]
    simp [leBytes, leNat, ih, hsplit]

@[simp] theorem put4_length (v : Option Nat) : (put4 v).length = 4 := by cases v <;> simp [put4]
@[simp] theorem put1_length (v : Option Nat) : (put1 v).length = 1 := by cases v <;> simp [put1]
@[simp] theorem putBool_length (b : Bool) : (putBool b).length = 1 := by cases b <;> simp [putBool]
@[simp] theorem zeros_length (n : Nat) : (zeros n).length = n := by simp [zeros]

@[simp] theorem putPlaces_length (n : Nat) (l : List Nat) : (putPlaces n l).length = 4 * n := by
  induction n generalizing l with
  | zero => rfl
  | succ n ih => cases l <;> simp [putPlaces, ih] <;> omega

/-! ## Fields of a run -/

theorem fieldAt_append_left {xs ys : List Byte} {off n : Nat} (h : off + n ≤ xs.length) :
    fieldAt (xs ++ ys) off n = fieldAt xs off n := by
  rw [fieldAt, fieldAt, List.drop_append_of_le_length (by omega), List.take_append_of_le_length (by simp; omega)]

theorem fieldAt_append_right {xs ys : List Byte} {off n : Nat} (h : xs.length ≤ off) :
    fieldAt (xs ++ ys) off n = fieldAt ys (off - xs.length) n := by
  rw [fieldAt, fieldAt, List.drop_append, List.drop_of_length_le h, List.nil_append]

theorem fieldAt_take {raw : List Byte} {k off n : Nat} (h : off + n ≤ k) :
    fieldAt (raw.take k) off n = fieldAt raw off n := by
  rw [fieldAt, fieldAt, List.drop_take, List.take_take, min_eq_left (by omega)]

theorem fieldAt_drop (raw : List Byte) (k off n : Nat) : fieldAt (raw.drop k) off n = fieldAt raw (k + off) n := by
  rw [fieldAt, fieldAt, List.drop_drop]

theorem fieldAt_leBytes (n v : Nat) : fieldAt (leBytes n v) 0 n = v % 256 ^ n := by
  rw [fieldAt, List.drop_zero, List.take_of_length_le (by simp), leNat_leBytes]

theorem fieldAt_leBytes_of_lt {n v : Nat} (h : v < 256 ^ n) : fieldAt (leBytes n v) 0 n = v := by
  rw [fieldAt_leBytes, Nat.mod_eq_of_lt h]

theorem opt4_put4 {v : Option Nat} (h : ∀ k, v = some k → k < Config.absent4) : opt4 (fieldAt (put4 v) 0 4) = v := by
  cases v with
  | none => rw [put4, fieldAt_leBytes]; rfl
  | some k =>
    have hk : k < 4294967295 := h k rfl
    rw [put4, fieldAt_leBytes_of_lt (by omega), opt4, if_neg (by simp only [Config.absent4]; omega)]

theorem opt1_put1 {v : Option Nat} (h : ∀ k, v = some k → k < Config.absent1) : opt1 (fieldAt (put1 v) 0 1) = v := by
  cases v with
  | none => rw [put1, fieldAt_leBytes]; rfl
  | some k =>
    have hk : k < 255 := h k rfl
    rw [put1, fieldAt_leBytes_of_lt (by omega), opt1, if_neg (by simp only [Config.absent1]; omega)]

theorem fieldAt_putBool (b : Bool) : decide (fieldAt (putBool b) 0 1 ≠ 0) = b := by cases b <;> decide

/-! ## Lists of places -/

@[simp] theorem placesAt_length (bs : List Byte) (off n : Nat) : (placesAt bs off n).length = n := by
  induction n generalizing off with
  | zero => rfl
  | succ n ih => simp [placesAt, ih]

theorem placesAt_getElem? (bs : List Byte) (n : Nat) : ∀ (off j : Nat), j < n →
    (placesAt bs off n)[j]? = some (fieldAt bs (off + 4 * j) 4) := by
  induction n with
  | zero => intro off j h; omega
  | succ n ih =>
    intro off j h
    cases j with
    | zero => simp [placesAt]
    | succ j => rw [placesAt, List.getElem?_cons_succ, ih _ _ (by omega)]; congr 2; omega

theorem placesAt_append_right (xs ys : List Byte) (n : Nat) : ∀ o, placesAt (xs ++ ys) (xs.length + o) n = placesAt ys o n := by
  induction n with
  | zero => intro o; rfl
  | succ n ih =>
    intro o
    rw [placesAt, placesAt, fieldAt_append_right (by omega), Nat.add_sub_cancel_left, Nat.add_assoc, ih]

theorem placesAt_drop (bs : List Byte) (k n : Nat) : ∀ o, placesAt (bs.drop k) o n = placesAt bs (k + o) n := by
  induction n with
  | zero => intro o; rfl
  | succ n ih => intro o; rw [placesAt, placesAt, fieldAt_drop, ih, Nat.add_assoc]

/-- The places written of a list are read back. -/
theorem placesAt_putPlaces (l : List Nat) (hl : ∀ i ∈ l, i < 4294967296) : ∀ n, l.length ≤ n →
    placesAt (putPlaces n l) 0 l.length = l := by
  induction l with
  | nil => intro n _; rfl
  | cons x xs ih =>
    intro n hn
    obtain ⟨hx, hxs⟩ := List.forall_mem_cons.mp hl
    obtain ⟨n, rfl⟩ : ∃ k, n = k + 1 := ⟨n - 1, by simp at hn; omega⟩
    have hrest := placesAt_append_right (leBytes 4 x) (putPlaces n xs) xs.length 0
    rw [leBytes_length] at hrest
    rw [putPlaces, List.length_cons, placesAt, fieldAt_append_left (by simp), fieldAt_leBytes_of_lt (by omega),
      hrest, ih hxs n (by simpa using hn)]

/-- The places beyond the list are written absent, every bit one (R27). -/
theorem putPlaces_beyond (n : Nat) : ∀ (l : List Nat) (o : Nat), 4 * l.length ≤ o → o < 4 * n →
    (putPlaces n l)[o]? = some 0xFF := by
  induction n with
  | zero => intro l o _ h; omega
  | succ n ih =>
    intro l o hl ho
    cases l with
    | nil =>
      rw [putPlaces]
      by_cases h4 : o < 4
      · rw [List.getElem?_append_left (by simpa using h4)]
        have hbytes : put4 none = [0xFF, 0xFF, 0xFF, 0xFF] := by decide
        rw [hbytes]
        interval_cases o <;> rfl
      · rw [List.getElem?_append_right (by simpa using h4)]
        exact ih [] _ (by simp) (by simp; omega)
    | cons x xs =>
      rw [List.length_cons] at hl
      rw [putPlaces, List.getElem?_append_right (by simp; omega)]
      exact ih xs _ (by simp; omega) (by simp; omega)

/-! ## Codes -/

theorem itemState_ofCode_onLoan (v : Nat) : ItemState.ofCode v = .onLoan ↔ v = 1 := by
  unfold ItemState.ofCode; split <;> simp_all

theorem itemState_ofCode_setAside (v : Nat) : ItemState.ofCode v = .setAside ↔ v = 2 := by
  unfold ItemState.ofCode; split <;> simp_all

theorem holdState_ofCode_iff (v : Nat) {x : HoldState} (hx : x ≠ .free) : HoldState.ofCode v = x ↔ v = x.code := by
  unfold HoldState.ofCode
  split <;> cases x <;> simp_all [HoldState.code]

theorem sweepPhase_ofCode_items (v : Nat) : SweepPhase.ofCode v = .items ↔ v = 1 := by
  unfold SweepPhase.ofCode; split <;> simp_all

theorem sweepPhase_ofCode_holds (v : Nat) : SweepPhase.ofCode v = .holds ↔ v = 2 := by
  unfold SweepPhase.ofCode; split <;> simp_all

theorem cardState_ofCode_eq (v : Nat) :
    CardState.ofCode v = if v = 0 then .active else if v = 1 then .lost else .withdrawn := by
  unfold CardState.ofCode; split <;> simp_all

theorem itemState_readBack (x : ItemState) : ItemState.ofCode (fieldAt (leBytes 1 x.code) 0 1) = x := by cases x <;> decide
theorem holdState_readBack (x : HoldState) : HoldState.ofCode (fieldAt (leBytes 1 x.code) 0 1) = x := by cases x <;> decide
theorem sweepPhase_readBack (x : SweepPhase) : SweepPhase.ofCode (fieldAt (leBytes 1 x.code) 0 1) = x := by cases x <;> decide

/-! ## Records read back -/

theorem parseHold_encodeHold {h : Hold} (hp : h.pickup < 256) (hd : h.placed < 65536)
    (ho : ∀ v ∈ [h.patron, h.title, h.suspend, h.copy, h.deadline, h.next], ∀ k, v = some k → k < Config.absent4) :
    parseHold (encodeHold h) = h := by
  simp only [List.mem_cons, List.not_mem_nil, or_false, forall_eq_or_imp, forall_eq] at ho
  obtain ⟨h1, h2, h3, h4, h5, h6⟩ := ho
  simp [parseHold, encodeHold, fieldAt_append_left, fieldAt_append_right, holdState_readBack, opt4_put4 h1, opt4_put4 h2,
    opt4_put4 h3, opt4_put4 h4, opt4_put4 h5, opt4_put4 h6, fieldAt_leBytes_of_lt (n := 1) hp,
    fieldAt_leBytes_of_lt (n := 2) hd, -List.append_assoc]

theorem parseItem_encodeItem {raw : List Byte} {c : Item} (hraw : raw.length = Region.items.size)
    (ht : c.title = (parseItem raw).title) (hc : c.cls = (parseItem raw).cls) (hh : c.home = (parseItem raw).home)
    (hk : c.circulates = (parseItem raw).circulates) (hl : ∀ k, c.loc = some k → k < Config.absent1)
    (hn : c.renewals < 256) (ha : c.accrued < 4294967296)
    (ho : ∀ v ∈ [c.borrower, c.due, c.charged, c.aside], ∀ k, v = some k → k < Config.absent4) :
    parseItem (encodeItem raw c) = c := by
  simp only [List.mem_cons, List.not_mem_nil, or_false, forall_eq_or_imp, forall_eq] at ho
  obtain ⟨h1, h2, h3, h4⟩ := ho
  simp only [parseItem] at ht hc hh hk
  simp [parseItem, encodeItem, fieldAt_append_left, fieldAt_append_right, fieldAt_take, hraw, Region.size,
    itemState_readBack, opt4_put4 h1, opt4_put4 h2, opt4_put4 h3, opt4_put4 h4, opt1_put1 hl,
    fieldAt_leBytes_of_lt (n := 1) hn, fieldAt_leBytes_of_lt (n := 4) ha, ← ht, ← hc, ← hh, ← hk, -List.append_assoc]

theorem parseTitle_encodeTitle {raw : List Byte} {t : Title} (hraw : raw.length = Region.titles.size)
    (hc : t.copies = (parseTitle raw).copies) (hq : t.queueLen < 256)
    (ho : ∀ v ∈ [t.first, t.last], ∀ k, v = some k → k < Config.absent4) :
    parseTitle (encodeTitle raw t) = t := by
  simp only [List.mem_cons, List.not_mem_nil, or_false, forall_eq_or_imp, forall_eq] at ho
  obtain ⟨h1, h2⟩ := ho
  simp only [parseTitle] at hc
  have hplaces : ∀ n, placesAt (encodeTitle raw t) 128 n = placesAt raw 128 n := fun n => by
    have h := placesAt_append_right
      (raw.take 118 ++ leBytes 1 t.queueLen ++ [0] ++ put4 t.first ++ put4 t.last) (raw.drop 128) n 0
    rw [placesAt_drop] at h
    simpa [encodeTitle, hraw, Region.size] using h
  have hlen : fieldAt (encodeTitle raw t) 116 1 = fieldAt raw 116 1 := by
    simp [encodeTitle, fieldAt_append_left, fieldAt_take, hraw, Region.size, -List.append_assoc]
  rw [parseTitle, hplaces, hlen, ← hc]
  simp [encodeTitle, fieldAt_append_left, fieldAt_append_right, hraw, Region.size, opt4_put4 h1, opt4_put4 h2,
    fieldAt_leBytes_of_lt (n := 1) hq, -List.append_assoc]

/-- A patron record is its part before the loan list, of 96 bytes, and the list's 40 places. -/
theorem encodePatron_split {raw : List Byte} (hraw : raw.length = Region.patrons.size) (p : Patron) :
    ∃ head : List Byte, encodePatron raw p = head ++ putPlaces 40 p.loans ∧ head.length = 96 :=
  ⟨_, rfl, by simp [hraw, Region.size]⟩

theorem parsePatron_encodePatron {raw : List Byte} {p : Patron} (hraw : raw.length = Region.patrons.size)
    (he : p.expiry = (parsePatron raw).expiry) (hb : p.balance < 4294967296) (hn : p.loans.length ≤ 40)
    (hl : ∀ i ∈ p.loans, i < 4294967296) (ha : p.activeHolds < 256) (hs : p.noShow < 256)
    (ho : ∀ k, p.ban = some k → k < Config.absent4) : parsePatron (encodePatron raw p) = p := by
  have hplaces : placesAt (encodePatron raw p) 96 p.loans.length = p.loans := by
    obtain ⟨head, hsplit, hhead⟩ := encodePatron_split hraw p
    have h := placesAt_append_right head (putPlaces 40 p.loans) p.loans.length 0
    rw [hhead] at h
    rw [hsplit, h, placesAt_putPlaces _ hl _ hn]
  have hlen : fieldAt (encodePatron raw p) 88 1 = p.loans.length := by
    simp [encodePatron, fieldAt_append_left, fieldAt_append_right, hraw, Region.size,
      fieldAt_leBytes_of_lt (n := 1) (show p.loans.length < 256 ^ 1 by omega), -List.append_assoc]
  simp only [parsePatron] at he
  rw [parsePatron, hlen, Nat.min_eq_left hn, hplaces]
  simp [encodePatron, fieldAt_append_left, fieldAt_append_right, fieldAt_take, hraw, Region.size, ← he, opt4_put4 ho,
    fieldAt_leBytes_of_lt (n := 4) hb, fieldAt_leBytes_of_lt (n := 1) ha, fieldAt_leBytes_of_lt (n := 1) hs,
    fieldAt_putBool, -ne_eq, -decide_not, -List.append_assoc]

theorem encodeSummary_length {m : Summary} (hs : m.stamp.length = 8) : (encodeSummary m).length = 80 := by
  unfold encodeSummary
  simp only [List.length_append, leBytes_length, put4_length, List.length_cons, List.length_nil, hs]

theorem parseSummary_encodeSummary {m : Summary} (hs : m.stamp.length = 8)
    (hf : ∀ k, m.freeHead = some k → k < Config.absent4) (hc : m.freeCount < 4294967296)
    (hmoney : ∀ v ∈ [m.charged, m.paid, m.waived], v < 281474976710656)
    (hcounts : ∀ v ∈ [m.placed, m.collected, m.expired, m.cancelled, m.lent, m.returned, m.renewed, m.position],
      v < 4294967296)
    (hdays : ∀ v ∈ [m.target, m.sweptThrough, m.skipped], v < 65536) : parseSummary (encodeSummary m) = m := by
  simp only [List.mem_cons, List.not_mem_nil, or_false, forall_eq_or_imp, forall_eq] at hmoney hcounts hdays
  obtain ⟨m1, m2, m3⟩ := hmoney
  obtain ⟨c1, c2, c3, c4, c5, c6, c7, c8⟩ := hcounts
  obtain ⟨d1, d2, d3⟩ := hdays
  have hstamp : (encodeSummary m).take 8 = m.stamp := by
    unfold encodeSummary
    simp only [List.append_assoc]
    exact List.take_left' hs
  rw [parseSummary, hstamp]
  unfold encodeSummary
  simp [fieldAt_append_left, fieldAt_append_right, hs, opt4_put4 hf, sweepPhase_readBack,
    fieldAt_leBytes_of_lt (n := 4) hc, fieldAt_leBytes_of_lt (n := 6) m1, fieldAt_leBytes_of_lt (n := 6) m2,
    fieldAt_leBytes_of_lt (n := 6) m3, fieldAt_leBytes_of_lt (n := 4) c1, fieldAt_leBytes_of_lt (n := 4) c2,
    fieldAt_leBytes_of_lt (n := 4) c3, fieldAt_leBytes_of_lt (n := 4) c4, fieldAt_leBytes_of_lt (n := 4) c5,
    fieldAt_leBytes_of_lt (n := 4) c6, fieldAt_leBytes_of_lt (n := 4) c7, fieldAt_leBytes_of_lt (n := 4) c8,
    fieldAt_leBytes_of_lt (n := 2) d1, fieldAt_leBytes_of_lt (n := 2) d2, fieldAt_leBytes_of_lt (n := 2) d3,
    -List.append_assoc]

/-! ## Records as a unit writes them, and the words -/

theorem item_written_available {c : Item} (h : c.state = .available) :
    c.written = { c with borrower := none, due := none, charged := none, aside := none } := by simp [Item.written, h]
theorem item_written_onLoan {c : Item} (h : c.state = .onLoan) : c.written = { c with aside := none } := by
  simp [Item.written, h]
theorem item_written_setAside {c : Item} (h : c.state = .setAside) :
    c.written = { c with borrower := none, due := none, charged := none } := by simp [Item.written, h]

theorem hold_written_free {x : Hold} (h : x.state = .free) : x.written =
    { x with patron := none, title := none, suspend := none, copy := none, deadline := none } := by simp [Hold.written, h]
theorem hold_written_waiting {x : Hold} (h : x.state = .waiting) : x.written =
    { x with suspend := none, copy := none, deadline := none } := by simp [Hold.written, h]
theorem hold_written_suspended {x : Hold} (h : x.state = .suspended) : x.written =
    { x with copy := none, deadline := none } := by simp [Hold.written, h]
theorem hold_written_inTransit {x : Hold} (h : x.state = .inTransit) : x.written =
    { x with suspend := none, deadline := none } := by simp [Hold.written, h]
theorem hold_written_onShelf {x : Hold} (h : x.state = .onShelf) : x.written = { x with suspend := none } := by
  simp [Hold.written, h]

theorem opt1_byte (b : Byte) : opt1 b.toNat = if b = 0xFF then none else some b.toNat := by
  have h : b.toNat = Config.absent1 ↔ b = 0xFF := by
    rw [← BitVec.toNat_inj]; rfl
  simp [opt1, h]

theorem ref_eq_some_iff (w : Work) (r : Region) (i : Option Nat) (k : Nat) :
    w.ref r i = some k ↔ i = some k ∧ k < (w.setup.regions.entry r).count := by
  rw [Work.ref, Option.filter_eq_some_iff, decide_eq_true_iff]
  rfl

theorem put4_none : put4 none = [0xFF, 0xFF, 0xFF, 0xFF] := by decide

/-- The session word shows the stream's grade unless its session is OFF. -/
theorem sessionWord_eq {s : State} {n : StreamId} {c : StreamCfg} (hc : s.cfg n = some c) : s.sessionWord n =
    encodeSessionWord (s.stream n).session (if (s.stream n).session = .off then 0 else c.grade.code) c.branch := by
  simp only [State.sessionWord, State.grade, State.branch, hc]
  split <;> simp

theorem sessionWord_cases {s : State} {n : StreamId} {c : StreamCfg} (hc : s.cfg n = some c) :
    ((s.stream n).session = .off → s.sessionWord n = [0, 0] ++ leBytes 1 c.branch ++ [0, 0xFF, 0xFF, 0xFF, 0xFF]) ∧
    ((s.stream n).session = .vacant →
      s.sessionWord n = [1] ++ leBytes 1 c.grade.code ++ leBytes 1 c.branch ++ [0, 0xFF, 0xFF, 0xFF, 0xFF]) ∧
    (∀ p, (s.stream n).session = .claimed p →
      s.sessionWord n = [2] ++ leBytes 1 c.grade.code ++ leBytes 1 c.branch ++ [0] ++ leBytes 4 p) ∧
    ((s.stream n).session = .barred →
      s.sessionWord n = [3] ++ leBytes 1 c.grade.code ++ leBytes 1 c.branch ++ [0, 0xFF, 0xFF, 0xFF, 0xFF]) := by
  have h0 : leBytes 1 0 = [0] := by decide
  have h1 : leBytes 1 1 = [1] := by decide
  have h2 : leBytes 1 2 = [2] := by decide
  have h3 : leBytes 1 3 = [3] := by decide
  rw [sessionWord_eq hc]
  refine ⟨fun h => ?_, fun h => ?_, fun p h => ?_, fun h => ?_⟩ <;>
    simp [h, encodeSessionWord, Session.code, put4_none, h0, h1, h2, h3]

theorem encodeTitle_tail {raw : List Byte} {t : Title} (hraw : raw.length = Region.titles.size) :
    (encodeTitle raw t).take 118 = raw.take 118 ∧ (encodeTitle raw t).drop 128 = raw.drop 128 := by
  constructor
  · simp [encodeTitle, hraw, Region.size]
  · have h := List.drop_left' (l₁ := raw.take 118 ++ leBytes 1 t.queueLen ++ [0] ++ put4 t.first ++ put4 t.last)
      (l₂ := raw.drop 128) (i := 128) (by simp [hraw, Region.size])
    simpa [encodeTitle] using h

/-- Settles O7: the places of the fields are the parsers' own, and each record is read back part after part. -/
theorem recordsReadBack : Obligations.RecordsReadBack := by
  refine ⟨fun v b w r i k => ⟨rfl, opt1_byte b, ref_eq_some_iff w r i k⟩, ?patron, ?title, ?item, ?hold, by decide, ?summary,
    fun bs b off n v => ⟨rfl, rfl, rfl, leBytes_length n v, leNat_leBytes n v⟩,
    fun c => ⟨item_written_available, item_written_onLoan, item_written_setAside⟩,
    fun h => ⟨hold_written_free, hold_written_waiting, hold_written_suspended, hold_written_inTransit, hold_written_onShelf⟩,
    fun w i c h => ⟨by simp, (OnlyRecords.refl w _).setItem _ (by simp), by simp, (OnlyRecords.refl w _).setHold _ (by simp)⟩,
    fun bs => ⟨rfl, cardState_ofCode_eq _⟩, fun _ _ _ => rfl, ⟨by decide, by decide, by decide⟩,
    fun s n c hc => sessionWord_cases hc, fun _ => rfl, ?holdBack, ?itemBack, ?patronBack, ?titleBack, ?summaryBack⟩
  case patron =>
    rintro bs p rfl
    refine ⟨rfl, rfl, by simp [parsePatron], fun j hj => ?_, rfl, rfl, by simp [parsePatron], rfl⟩
    exact placesAt_getElem? _ _ _ _ (by simpa [parsePatron] using hj)
  case title =>
    rintro bs t rfl
    refine ⟨by simp [parseTitle], fun j hj => ?_, rfl, rfl, rfl⟩
    exact placesAt_getElem? _ _ _ _ (by simpa [parseTitle] using hj)
  case item =>
    rintro bs c rfl
    exact ⟨rfl, rfl, rfl, by simp [parseItem], itemState_ofCode_onLoan _, itemState_ofCode_setAside _, rfl, rfl, rfl, rfl,
      rfl, rfl, rfl⟩
  case hold =>
    rintro bs h rfl
    exact ⟨fun x hx => holdState_ofCode_iff _ hx, rfl, rfl, rfl, rfl, rfl, rfl, rfl, rfl⟩
  case summary =>
    rintro bs m rfl
    exact ⟨rfl, rfl, rfl, rfl, rfl, rfl, rfl, rfl, rfl, rfl, rfl, rfl, rfl, rfl, sweepPhase_ofCode_items _,
      sweepPhase_ofCode_holds _, rfl, rfl, rfl⟩
  case holdBack =>
    exact fun h hp hd ho => ⟨parseHold_encodeHold hp hd ho, by simp [encodeHold, Region.size]⟩
  case itemBack =>
    intro raw c hraw ht hc hh hk hl hn ha ho
    exact ⟨parseItem_encodeItem hraw ht hc hh hk hl hn ha ho, by simp [encodeItem, hraw, Region.size],
      by simp [encodeItem, hraw, Region.size]⟩
  case patronBack =>
    intro raw p hraw he hb hn hl ha hs ho
    obtain ⟨head, hsplit, hhead⟩ := encodePatron_split hraw p
    refine ⟨parsePatron_encodePatron hraw he hb hn hl ha hs ho, by simp [encodePatron, hraw, Region.size],
      by simp [encodePatron, hraw, Region.size], fun o h1 h2 => ?_⟩
    rw [hsplit, List.getElem?_append_right (by omega)]
    exact putPlaces_beyond 40 p.loans _ (by omega) (by omega)
  case titleBack =>
    intro raw t hraw hc hq ho
    exact ⟨parseTitle_encodeTitle hraw hc hq ho, by simp [encodeTitle, hraw, Region.size], encodeTitle_tail hraw⟩
  case summaryBack =>
    intro m hs hf hc hmoney hcounts hdays
    exact ⟨parseSummary_encodeSummary hs hf hc hmoney hcounts hdays, encodeSummary_length hs⟩

end Sys2Proof.Machine
end

section
/-! What an operation adds: the parts it changes, and that every own request standing still stands. The lemmas of the operations that
raise own requests, count store faults and set results, for the commands of start-up, of the desks and of the Setup Loader. -/

namespace Sys2Proof.Machine

/-! ## Parts -/

/-- One more operation that stays within the parts listed. -/
theorem OnlyParts.andThen {r s t : State} {ps qs : List Part} (h : OnlyParts r s ps) (k : OnlyParts s t qs)
    (hq : ∀ p ∈ qs, p ∈ ps := by decide) : OnlyParts r t ps :=
  h.trans k (fun _ => id) hq

theorem onlyParts_loader (s : State) (l : Loader) : OnlyParts s { s with loader := l } [.loader] := by
  intro p hp; cases p <;> simp [Unchanged] at hp ⊢

theorem onlyParts_sweep (s : State) (x : Sweep) : OnlyParts s { s with sweep := x } [.sweep] := by
  intro p hp; cases p <;> simp [Unchanged] at hp ⊢

theorem onlyParts_queue (s : State) (q : List StreamId) : OnlyParts s { s with queue := q } [.commitQueue] := by
  intro p hp; cases p <;> simp [Unchanged] at hp ⊢

theorem onlyParts_mem (s : State) (m : Memory) : OnlyParts s { s with mem := m } [.memory] := by
  intro p hp; cases p <;> simp [Unchanged] at hp ⊢

theorem onlyParts_dropOwn (s : State) (k : Nat) : OnlyParts s (s.dropOwn k) [.issued] := by
  intro p hp; cases p <;> simp [Unchanged, State.dropOwn] at hp ⊢

theorem onlyParts_landOwn (s : State) (q : OwnReq) (a : Answer) : OnlyParts s (s.landOwn q a) [.memory] := by
  unfold State.landOwn
  split
  · exact OnlyParts.refl s _
  · exact onlyParts_mem s _

theorem onlyParts_landOwnWhole (s : State) (q : OwnReq) (a : Answer) : OnlyParts s (s.landOwnWhole q a) [.memory] := by
  unfold State.landOwnWhole
  split
  · exact OnlyParts.refl s _
  · exact onlyParts_mem s _

theorem onlyParts_refillOwn (s : State) : OnlyParts s s.refillOwn [.raised] := by
  unfold State.refillOwn
  split
  · intro p hp; cases p <;> simp [Unchanged] at hp ⊢
  · exact OnlyParts.refl s _

/-! ## Operations under which every own request still stands -/

/-- `s` goes to `t`: only these parts change, and every own request not yet answered still stands. -/
structure Grows (s t : State) (ps : List Part) : Prop where
  parts : OnlyParts s t ps
  stands : ∀ q ∈ s.ownWaiting, q ∈ t.ownWaiting
  base : t.base = s.base

theorem Grows.refl (s : State) (ps : List Part) : Grows s s ps := ⟨OnlyParts.refl s ps, fun _ => id, rfl⟩

/-- One more operation that stays within the parts listed. -/
theorem Grows.andThen {r s t : State} {ps qs : List Part} (h : Grows r s ps) (k : Grows s t qs)
    (hq : ∀ p ∈ qs, p ∈ ps := by decide) : Grows r t ps :=
  ⟨h.parts.andThen k.parts hq, fun q hm => k.stands q (h.stands q hm), k.base.trans h.base⟩

theorem Grows.mono {s t : State} {ps qs : List Part} (h : Grows s t ps) (hp : ∀ p ∈ ps, p ∈ qs := by decide) :
    Grows s t qs :=
  ⟨h.parts.mono hp, h.stands, h.base⟩

/-- An operation that leaves the own requests and the pins alone. -/
theorem OnlyParts.grows {s t : State} {ps : List Part} (h : OnlyParts s t ps) (hissued : Part.issued ∉ ps := by decide)
    (hraised : Part.raised ∉ ps := by decide) (hpins : Part.pins ∉ ps := by decide) : Grows s t ps :=
  ⟨h, fun q hq => by rwa [ownWaiting_of_unchanged (h _ hissued) (h _ hraised)], (h _ hpins).2⟩

theorem Awaits.grows {s t : State} {ps : List Part} {k : OwnTag} {o : Nat} {b : OwnBody} (h : Awaits s k o b)
    (hg : Grows s t ps) : Awaits t k o b := by
  obtain ⟨q, hq, htag, haddr, hbody⟩ := h
  exact ⟨q, hg.stands q hq, htag, by rw [haddr, hg.base], hbody⟩

theorem Grows.ite {c : Prop} [Decidable c] {s a b : State} {ps : List Part} (ha : Grows s a ps) (hb : Grows s b ps) :
    Grows s (if c then a else b) ps := by
  split
  · exact ha
  · exact hb

theorem Grows.foldl {α : Type} {ps : List Part} (f : State → α → State) (h : ∀ s a, Grows s (f s a) ps) (l : List α) :
    ∀ s, Grows s (l.foldl f s) ps := by
  induction l with
  | nil => intro s; exact Grows.refl s ps
  | cons a l ih => intro s; exact (h s a).andThen (ih _) (fun _ => id)

/-! ## Raising -/

theorem grows_raise (s : State) (t : OwnTag) (o : Nat) (b : OwnBody) (h : Option Nat) (ht : t.answerOf = none := by rfl) :
    Grows s (s.raise t o b h) [.raised] :=
  ⟨onlyParts_raise s t o b h ht, fun _ hq => mem_ownWaiting_raise hq t o b h, raise_base s t o b h⟩

theorem grows_raise_answer (s : State) (t : OwnTag) (o : Nat) (b : OwnBody) (h : Option Nat) :
    Grows s (s.raise t o b h) [.raised, .streams] :=
  ⟨onlyParts_raise' s t o b h, fun _ hq => mem_ownWaiting_raise hq t o b h, raise_base s t o b h⟩

theorem grows_raiseWrite (s : State) (t : OwnTag) (o : Nat) (bs : List Byte) (h : Option Nat)
    (ht : t.answerOf = none := by rfl) : Grows s (s.raiseWrite t o bs h) [.raised] :=
  grows_raise s t o _ h ht

theorem awaits_raiseWrite (s : State) (t : OwnTag) (o : Nat) (bs : List Byte) (h : Option Nat) :
    Awaits (s.raiseWrite t o bs h) t o (.write (lanesOf bs)) := awaits_raise s t o _ h

/-- Raising a request changes of the streams only the count of answer writes. -/
theorem stream_countAnswer (s : State) (t : OwnTag) (m : StreamId) : (s.countAnswer t).stream m =
    if t.answerOf = some m then ({ s.stream m with answersRaised := (s.stream m).answersRaised + 1 } : Stream).settled
    else s.stream m := by
  unfold State.countAnswer
  split
  next n hn =>
    rw [stream_updStream, hn]
    by_cases hm : m = n
    · subst hm; simp
    · rw [if_neg hm, if_neg (fun h => hm (Option.some.inj h).symm)]
  next hn => rw [hn, if_neg (by simp)]

theorem stream_raise (s : State) (t : OwnTag) (o : Nat) (b : OwnBody) (h : Option Nat) (m : StreamId) :
    (s.raise t o b h).stream m =
      if t.answerOf = some m then ({ s.stream m with answersRaised := (s.stream m).answersRaised + 1 } : Stream).settled
      else s.stream m := by
  unfold State.raise
  rw [stream_of_streams_eq (refillOwn_streams _), stream_countAnswer]
  rfl

theorem stream_raise_ne {s : State} {t : OwnTag} {m : StreamId} (ht : t.answerOf ≠ some m) (o : Nat) (b : OwnBody)
    (h : Option Nat) : (s.raise t o b h).stream m = s.stream m := by
  rw [stream_raise, if_neg ht]

theorem stream_raise_self {s : State} {t : OwnTag} {m : StreamId} (ht : t.answerOf = some m) (o : Nat) (b : OwnBody)
    (h : Option Nat) : (s.raise t o b h).stream m =
      ({ s.stream m with answersRaised := (s.stream m).answersRaised + 1 } : Stream).settled := by
  rw [stream_raise, if_pos ht]

/-! ## The status word, store faults and results (R170) -/

theorem grows_raiseStatus (s : State) : Grows s (s.raiseStatus .status) [.raised] := grows_raiseWrite s _ _ _ _

theorem grows_raiseStartupStatus (s : State) : Grows s (s.raiseStatus .startupStatus) [.raised] :=
  grows_raiseWrite s _ _ _ _

@[simp] theorem raiseStatus_loader (s : State) (t : OwnTag) : (s.raiseStatus t).loader = s.loader := raise_loader s _ _ _ _

theorem statusRaised_raiseStatus (s : State) :
    StatusRaised (s.raiseStatus .status) s.loader.part s.loader.result s.loader.faults := awaits_raiseWrite s _ _ _ _

theorem grows_setLoader_raiseStatus (s : State) (l : Loader) :
    Grows s (({ s with loader := l } : State).raiseStatus .status) [.loader, .raised] :=
  ((onlyParts_loader s l).grows.mono).andThen (grows_raiseStatus _)

theorem grows_storeFault (s : State) : Grows s s.storeFault [.loader, .raised] :=
  Grows.ite (grows_setLoader_raiseStatus s _) (Grows.refl s _)

theorem grows_setResult (s : State) (r : SetupResult) : Grows s (s.setResult r) [.loader, .raised] :=
  Grows.ite (Grows.refl s _) (grows_setLoader_raiseStatus s _)

theorem storeFault_of_lt {s : State} (h : s.loader.faults < 65535) : s.storeFault =
    ({ s with loader := { s.loader with faults := s.loader.faults + 1 } } : State).raiseStatus := if_pos h

theorem storeFault_of_full {s : State} (h : ¬ s.loader.faults < 65535) : s.storeFault = s := if_neg h

@[simp] theorem storeFault_loader (s : State) : s.storeFault.loader = oneMoreFault s.loader := by
  by_cases h : s.loader.faults < 65535
  · rw [storeFault_of_lt h, raiseStatus_loader, oneMoreFault, if_pos h]
  · rw [storeFault_of_full h, oneMoreFault, if_neg h]

@[simp] theorem setResult_loader (s : State) (r : SetupResult) : (s.setResult r).loader = { s.loader with result := r } := by
  unfold State.setResult
  by_cases h : s.loader.result = r
  · rw [if_pos h, ← h]
  · rw [if_neg h]; simp

/-- A loader changed and the status word raised. -/
theorem statusShown_raiseStatus {s : State} (v : State) : StatusShown s (v.raiseStatus .status) :=
  .inr ⟨.status, by simp, by rw [raiseStatus_loader]; exact statusRaised_raiseStatus v⟩

theorem StatusShown.refl (s : State) : StatusShown s s := .inl ⟨rfl, rfl, rfl⟩

theorem statusShown_storeFault (s : State) : StatusShown s s.storeFault := by
  unfold State.storeFault
  split
  · exact statusShown_raiseStatus _
  · exact StatusShown.refl s

theorem statusShown_setResult (s : State) (r : SetupResult) : StatusShown s (s.setResult r) := by
  unfold State.setResult
  split
  · exact StatusShown.refl s
  · exact statusShown_raiseStatus _

theorem StatusShown.trans {r s t : State} {ps : List Part} (h : StatusShown r s) (k : StatusShown s t) (hg : Grows s t ps) :
    StatusShown r t := by
  rcases k with ⟨hpart, hresult, hfaults⟩ | k
  · rcases h with h | ⟨tag, htag, h⟩
    · exact .inl ⟨hpart.trans h.1, hresult.trans h.2.1, hfaults.trans h.2.2⟩
    · exact .inr ⟨tag, htag, by rw [hpart, hresult, hfaults]; exact h.grows hg⟩
  · exact .inr k

theorem statusRaised_storeFault {s : State} (h : s.loader.faults < 65535) :
    StatusRaised s.storeFault s.loader.part s.loader.result (s.loader.faults + 1) := by
  rw [storeFault_of_lt h]
  exact statusRaised_raiseStatus _

theorem streams_of_grows {s t : State} {ps : List Part} (h : Grows s t ps) (hs : Part.streams ∉ ps := by decide) (n : StreamId) :
    t.stream n = s.stream n := stream_of_streams_eq (h.parts _ hs) n

/-! ## Own requests being answered -/

theorem pullOwn_list_some {want : OwnReq → Bool} {i : IssuedOwn} : ∀ (earlier l : List IssuedOwn),
    pullOwn want earlier l = some i → want i.req = true ∧ i ∈ l
  | _, [], h => by simp [pullOwn] at h
  | earlier, j :: l, h => by
    unfold pullOwn at h
    split at h
    next hw =>
      split at h
      · simp at h
      · cases h; exact ⟨hw, List.mem_cons_self⟩
    · obtain ⟨hw, hm⟩ := pullOwn_list_some _ l h
      exact ⟨hw, List.mem_cons_of_mem _ hm⟩

theorem pullOwn_some {s : State} {want : OwnReq → Bool} {i : IssuedOwn} (h : s.pullOwn want = some i) :
    want i.req = true ∧ i ∈ s.path.ownIssued := pullOwn_list_some [] _ h

/-! ## Start-up's own requests -/

theorem grows_setStartup (s : State) (st : Startup) : Grows s (s.setStartup st) [.loader] := (onlyParts_loader s _).grows

theorem grows_setJob (s : State) (j : Job) : Grows s (s.setJob j) [.loader] := (onlyParts_loader s _).grows

theorem grows_startupRead (s : State) (st : Startup) (o l : Nat) : Grows s (s.startupRead st o l) [.loader, .raised] :=
  (grows_setStartup s st).mono.andThen (grows_raise _ _ _ _ _)

theorem grows_startupWrite (s : State) (st : Startup) (d : Option StreamId) (o : Nat) (ls : List Lane) :
    Grows s (s.startupWrite st d o ls) [.loader, .raised, .streams] :=
  (grows_setStartup s st).mono.andThen (grows_raise_answer _ _ _ _ _)

theorem grows_startupWrite_none (s : State) (st : Startup) (o : Nat) (ls : List Lane) :
    Grows s (s.startupWrite st none o ls) [.loader, .raised] :=
  (grows_setStartup s st).mono.andThen (grows_raise _ _ _ _ _)

theorem awaits_startupRead (s : State) (st : Startup) (o l : Nat) : Awaits (s.startupRead st o l) .startupRead o (.read l) :=
  awaits_raise _ _ _ _ _

theorem awaits_startupWrite (s : State) (st : Startup) (d : Option StreamId) (o : Nat) (ls : List Lane) :
    Awaits (s.startupWrite st d o ls) (.startupWrite d) o (.write ls) := awaits_raise _ _ _ _ _

@[simp] theorem startupRead_loader (s : State) (st : Startup) (o l : Nat) :
    (s.startupRead st o l).loader = { s.loader with job := .startup st } := raise_loader _ _ _ _ _

@[simp] theorem startupWrite_loader (s : State) (st : Startup) (d : Option StreamId) (o : Nat) (ls : List Lane) :
    (s.startupWrite st d o ls).loader = { s.loader with job := .startup st } := raise_loader _ _ _ _ _

/-! ## A pending request begun (R172) -/

theorem readPart_eq_begun (s : State) (k : RequestKind) (p : SetupPart) (b : Memory) :
    (s.readPart k p b).loader = { s.loader with job := .reading k p b } := raise_loader _ _ _ _ _

theorem grows_readPart (s : State) (k : RequestKind) (p : SetupPart) (b : Memory) :
    Grows s (s.readPart k p b) [.loader, .raised] :=
  (grows_setJob s _).mono.andThen (grows_raise _ _ _ _ _)

theorem grows_startRequest (s : State) : Grows s s.startRequest [.loader, .raised] := by
  unfold State.startRequest
  split
  · exact ((onlyParts_loader s _).grows.mono).andThen (grows_readPart _ _ _ _)
  · exact ((onlyParts_loader s _).grows.mono).andThen (grows_readPart _ _ _ _)
  · exact Grows.refl s _

@[simp] theorem startRequest_loader (s : State) : s.startRequest.loader = s.loader.begun := by
  unfold State.startRequest Loader.begun
  split
  next h1 h2 => rw [readPart_eq_begun]; simp [h1, h2]
  next h1 h2 => rw [readPart_eq_begun]; simp [h1, h2]
  next h1 h2 =>
    split
    next k rs hj hr =>
      cases k with
      | apply => exact absurd hr (h1 rs hj)
      | format => exact absurd hr (h2 rs hj)
      | warmReset => rfl
    · rfl

theorem grows_startAtOnce (s : State) : Grows s s.startAtOnce [.loader, .raised] :=
  Grows.ite (grows_startRequest s) (Grows.refl s _)

theorem startAtOnce_loader {s : State} (h : s.loader.part = .unset ∨ s.loader.part = .unformatted) :
    s.startAtOnce.loader = s.loader.begun := by
  rw [State.startAtOnce, if_pos h, startRequest_loader]

theorem startAtOnce_of_other {s : State} (h1 : s.loader.part ≠ .unset) (h2 : s.loader.part ≠ .unformatted) :
    s.startAtOnce = s := by
  rw [State.startAtOnce, if_neg (by simp [h1, h2])]

end Sys2Proof.Machine
end

section
/-! Obligations O10, O11 and O12. The reads of the start-up order: the setup block, the format stamp, the note and the desks, answered or
failed. -/

namespace Sys2Proof.Machine

/-! ## A start-up read is answered -/

theorem live_eq {s : State} (h : s.inReset = false) (f : State → State) : s.live f = f s := by simp [State.live, h]

theorem startupReadAnswered_some {s : State} {i : IssuedOwn} {st : Startup} (h : AtStartup s startupReads i st)
    {d : IssuedOwn → Option (List Byte)} {x : List Byte} (hd : d i = some x) :
    s.startupReadAnswered d = (s.dropOwn i.req.serial).startupReadOk st x := by
  obtain ⟨-, hpull, hjob⟩ := h
  have hp : s.pullOwn (fun q => decide (q.tag = .startupRead)) = some i := hpull
  simp only [State.startupReadAnswered, State.startupJob, hp, hjob, hd]

theorem startupReadAnswered_none {s : State} {i : IssuedOwn} {st : Startup} (h : AtStartup s startupReads i st)
    {d : IssuedOwn → Option (List Byte)} (hd : d i = none) :
    s.startupReadAnswered d = (s.dropOwn i.req.serial).startupReadFailed st := by
  obtain ⟨-, hpull, hjob⟩ := h
  have hp : s.pullOwn (fun q => decide (q.tag = .startupRead)) = some i := hpull
  simp only [State.startupReadAnswered, State.startupJob, hp, hjob, hd]

theorem exec_startupReadDone {s : State} {i : IssuedOwn} {st : Startup} {a : Answer} {data : List Byte}
    (h : AtStartup s startupReads i st) (hd : s.ownData i a = some data) :
    exec (.startupReadDone a) s = .next ((s.dropOwn i.req.serial).startupReadOk st data) := by
  rw [exec, execStartupReadDone, live_eq h.1, startupReadAnswered_some h hd]

theorem exec_startupReadTimeout {s : State} {i : IssuedOwn} {st : Startup} (h : AtStartup s startupReads i st) :
    exec .startupReadTimeout s = .next ((s.dropOwn i.req.serial).startupReadFailed st) := by
  rw [exec, execStartupReadTimeout, live_eq h.1, startupReadAnswered_none h rfl]

/-- After the answered request has left the list, what `v` adds to the rest adds to the whole. -/
theorem parts_of_dropOwn {s v : State} {k : Nat} {ps qs : List Part} (h : Grows (s.dropOwn k) v ps)
    (hp : ∀ p ∈ ps, p ∈ qs := by decide) (hi : Part.issued ∈ qs := by decide) : OnlyParts s v qs :=
  (onlyParts_dropOwn s k).trans h.parts (by simpa using hi) hp

/-! ## The start-up order ends -/

theorem grows_drain (s : State) : Grows s s.drain [.upstream, .streams] := (onlyParts_drain s).grows

theorem grows_startupEnds (s : State) (p : PartState) : Grows s (s.startupEnds p) [.loader, .raised, .upstream, .streams] :=
  (((onlyParts_loader s _).grows.mono.andThen (grows_raiseStartupStatus _)).andThen (grows_startAtOnce _)).andThen
    (grows_drain _)

theorem startupEnds_loader (s : State) {p : PartState} (h : p = .unset ∨ p = .unformatted) :
    (s.startupEnds p).loader = ({ s.loader with part := p, job := .idle } : Loader).begun := by
  rw [State.startupEnds, drain_loader, startAtOnce_loader (by simpa using h), raiseStatus_loader]

theorem awaits_startupEnds (s : State) (p : PartState) : Awaits (s.startupEnds p) .startupStatus Config.statusOff
    (.write (lanesOf (encodeStatus p s.loader.result s.loader.faults))) :=
  ((awaits_raiseWrite _ _ _ _ _).grows (grows_startAtOnce _)).grows (grows_drain _)

/-! ## The setup block (R178 step 2) -/

theorem enabled_of_inForce {s : State} {u : Setup} (h : s.loader.inForce = some u) (n : StreamId) :
    s.enabled n = (u.streams[n.val]).enable := by
  simp [State.enabled, State.cfg, h]

theorem grows_updStream (s : State) (n : StreamId) (f : Stream → Stream) : Grows s (s.updStream n f) [.streams] :=
  (onlyParts_updStream s n f).grows

theorem grows_loadSessions (s : State) : Grows s s.loadSessions [.streams] :=
  Grows.foldl _ (fun x n => grows_updStream x n _) _ s

@[simp] theorem loadSessions_loader (s : State) : s.loadSessions.loader = s.loader :=
  (grows_loadSessions s).parts .loader (by decide)

/-- Every enabled stream is VACANT, every other OFF (R36). -/
theorem loadSessions_session {s : State} {u : Setup} (h : s.loader.inForce = some u) (n : StreamId) :
    (s.loadSessions.stream n).session = if (u.streams[n.val]).enable then .vacant else .off := by
  have hall := stream_foldl_all (P := fun x => x.loader.inForce = some u)
    (F := fun n t => ({ t with session := if (u.streams[n.val]).enable then .vacant else .off } : Stream).settled)
    (g := fun x n => x.updStream n (fun t => { t with session := if x.enabled n then .vacant else .off }))
    (fun x n hx => hx) (fun x n hx => by rw [stream_updStream_self, enabled_of_inForce hx])
    (fun x n m _ hm => stream_updStream_ne x hm _) h n
  rw [State.loadSessions, hall, settled_session]

theorem grows_startupAccept (s : State) (st : Startup) (u : Setup) :
    Grows s (s.startupAccept st u) [.raised, .loader, .streams] :=
  (((onlyParts_loader s _).grows.mono.andThen (grows_loadSessions _)).andThen (grows_setResult _ _)).andThen
    (grows_startupRead _ _ _ _)

/-- The setup put in force: the loader, the status word, the sessions. -/
theorem startupAccept_loader (s : State) (st : Startup) (u : Setup) : (s.startupAccept st u).loader =
    { s.loader with
      inForce := some u, today := some (blockDay st.block), result := ⟨.accepted, 0⟩
      job := .startup (st.at .readStamp) } := by
  simp [State.startupAccept]

theorem statusShown_startupAccept (s : State) (st : Startup) (u : Setup) : StatusShown s (s.startupAccept st u) := by
  have hput : StatusShown s ({ s with loader := { s.loader with
      inForce := some u, today := some (blockDay st.block) } } : State).loadSessions :=
    .inl (by rw [loadSessions_loader]; exact ⟨rfl, rfl, rfl⟩)
  refine (hput.trans (statusShown_setResult _ _) (grows_setResult _ _)).trans (.inl ?_) (grows_startupRead _ _ _ _)
  rw [State.startupAccept, startupRead_loader]
  exact ⟨rfl, rfl, rfl⟩

theorem startupAccept_session (s : State) (st : Startup) (u : Setup) (n : StreamId) :
    ((s.startupAccept st u).stream n).session = if (u.streams[n.val]).enable then .vacant else .off := by
  rw [State.startupAccept, streams_of_grows (grows_startupRead _ _ _ _), streams_of_grows (grows_setResult _ _)]
  exact loadSessions_session rfl n

theorem startupBlock_next {p q : SetupPart} (h : p.following = some q) (s : State) (st : Startup) (data : List Byte) :
    s.startupBlock st p data = (if p = .status then
        { s with loader := { s.loader with faults := blockFaults (addPart st.block p data) } } else s).startupRead
      { st with step := .readSetup q, retried := false, block := addPart st.block p data } q.off q.len := by
  simp only [State.startupBlock, h, Startup.at]

theorem startupBlock_error {s : State} {st : Startup} {data : List Byte} {r : SetupResult}
    (h : validate (addPart st.block .calendar data) none = .error r) : s.startupBlock st .calendar data = s.startupUnset r := by
  simp [State.startupBlock, SetupPart.following, h]

theorem startupBlock_ok {s : State} {st : Startup} {data : List Byte} {u : Setup}
    (h : validate (addPart st.block .calendar data) none = .ok u) : s.startupBlock st .calendar data =
      s.startupAccept { st with block := addPart st.block .calendar data } u := by
  simp [State.startupBlock, SetupPart.following, h]

theorem grows_startupUnset (s : State) (r : SetupResult) :
    Grows s (s.startupUnset r) [.loader, .raised, .upstream, .streams] :=
  (onlyParts_loader s _).grows.mono.andThen (grows_startupEnds _ _)

/-- Settles O10: a content is followed by the read of the next; after the last the block is refused or put in force. -/
theorem startupReadsTheSetupBlock : Obligations.StartupReadsTheSetupBlock := by
  intro s i st a data p h hstep hd
  have hexec := exec_startupReadDone h hd
  simp only [State.startupReadOk, hstep] at hexec
  refine ⟨fun q hq => ?_, fun r hp hv => ?_, fun u hp hv => ?_⟩
  · rw [startupBlock_next hq] at hexec
    refine ⟨_, hexec, parts_of_dropOwn ((Grows.ite (onlyParts_loader _ _).grows.mono (Grows.refl _ _)).andThen
      (grows_startupRead _ _ _ _) (fun _ => id)), ?_, awaits_startupRead _ _ _ _⟩
    rw [startupRead_loader]
    split <;> rfl
  · subst hp
    rw [startupBlock_error hv] at hexec
    refine ⟨_, hexec, parts_of_dropOwn (grows_startupUnset _ _), ?_, awaits_startupEnds _ _⟩
    exact startupEnds_loader _ (.inl rfl)
  · subst hp
    rw [startupBlock_ok hv] at hexec
    have hloader := startupAccept_loader (s.dropOwn i.req.serial) { st with block := addPart st.block .calendar data } u
    refine ⟨_, hexec, parts_of_dropOwn (grows_startupAccept _ _ _), ?_, ?_, ?_, ?_, ?_,
      fun n => startupAccept_session _ _ u n, awaits_startupRead _ _ _ _⟩
    · rw [hloader]; rfl
    · rw [hloader]
    · rw [hloader]
    · rw [hloader]
    · exact statusShown_startupAccept (s.dropOwn i.req.serial) _ u

/-! ## The desk scan and the session words (R180) -/

theorem sessionWord_congr {s t : State} {n : StreamId} (hs : (t.stream n).session = (s.stream n).session)
    (hu : t.loader.inForce = s.loader.inForce) : t.sessionWord n = s.sessionWord n := by
  simp only [State.sessionWord, State.grade, State.branch, State.cfg, hs, hu]

theorem nextStream_some {n m : StreamId} (h : n.val + 1 = m.val) : nextStream n = some m := by
  rw [nextStream, dif_pos (by omega)]
  exact congrArg some (Fin.ext h)

theorem nextStream_none {n : StreamId} (h : n.val = 31) : nextStream n = none := by
  rw [nextStream, dif_neg (by omega)]

theorem grows_startScan (s : State) (st : Startup) (n : StreamId) : Grows s (s.startScan st n) [.loader, .raised] :=
  grows_startupRead _ _ _ _

theorem grows_startSession (s : State) (st : Startup) (n : StreamId) : Grows s (s.startSession st n) [.loader, .raised] :=
  grows_startupWrite_none _ _ _ _

theorem grows_afterScan (s : State) (st : Startup) (n : StreamId) : Grows s (s.afterScan st n) [.loader, .raised] := by
  unfold State.afterScan
  split
  · exact grows_startScan _ _ _
  · exact grows_startSession _ _ _

/-- After desk `n` comes the next desk, and after the last the session word of stream 0. -/
theorem awaits_afterScan (s : State) (st : Startup) (n : StreamId) :
    (∀ m : StreamId, n.val + 1 = m.val →
      Awaits (s.afterScan st n) .startupRead (deskAddr m Config.answerOff) (.read 1)) ∧
    (n.val = 31 → Awaits (s.afterScan st n) (.startupWrite none) (deskAddr 0 Config.sessionOff)
      (.write (lanesOf (s.sessionWord 0)))) := by
  unfold State.afterScan
  refine ⟨fun m h => ?_, fun h => ?_⟩
  · rw [nextStream_some h]; exact awaits_startupRead _ _ _ _
  · rw [nextStream_none h]; exact awaits_startupWrite _ _ _ _ _

theorem afterScan_loader (s : State) (st : Startup) (n : StreamId) :
    (s.afterScan st n).loader = { s.loader with job := (s.afterScan st n).loader.job } := by
  unfold State.afterScan
  split
  · rw [State.startScan, startupRead_loader]
  · rw [State.startSession, startupWrite_loader]

theorem grows_setAnswer (s : State) (n : StreamId) (a : AnswerState) : Grows s (s.setAnswer n a) [.streams] :=
  grows_updStream s n _

theorem onlyStreams_setAnswer (s : State) (n : StreamId) (a : AnswerState) : OnlyStreams s (s.setAnswer n a) [n] :=
  fun _ hm => stream_updStream_ne s (by simpa using hm) _

theorem setAnswer_sessionWord (s : State) (n m : StreamId) (a : AnswerState) : (s.setAnswer n a).sessionWord m = s.sessionWord m := by
  refine sessionWord_congr ?_ rfl
  rw [State.setAnswer, stream_updStream]
  split
  next h => rw [h]; simp
  · rfl

/-- A scanned desk whose answer is written by the scan. -/
theorem scanned_writes (s : State) (st : Startup) (n : StreamId) (a : AnswerState) (ls : List Lane) (t : State)
    (ht : t = (s.setAnswer n a).startupWrite (st.at (.answerDesk n)) (some n) (deskAddr n Config.answerOff) ls) :
    Grows s t [.raised, .loader, .streams] ∧ OnlyStreams s t [n] ∧ (t.stream n).answer = a ∧
      Awaits t (.startupWrite (some n)) (deskAddr n Config.answerOff) (.write ls) := by
  subst ht
  refine ⟨(grows_setAnswer s n a).mono.andThen (grows_startupWrite _ _ _ _ _), fun m hm => ?_, ?_, awaits_startupWrite _ _ _ _ _⟩
  · have hne : OwnTag.answerOf (.startupWrite (some n)) ≠ some m := by simpa [OwnTag.answerOf, eq_comm] using hm
    rw [State.startupWrite, stream_raise_ne hne]
    exact onlyStreams_setAnswer s n a m hm
  · rw [State.startupWrite, stream_raise_self rfl, settled_answer]
    simp [State.setAnswer, stream_of_streams_eq (setStartup_streams _ _)]

theorem answerState_ofCode_code (x : AnswerState) : AnswerState.ofCode x.code = some x := by cases x <;> rfl

theorem answerState_ofCode_unknown {v : Nat} (h : 4 < v) : AnswerState.ofCode v = none := by
  unfold AnswerState.ofCode; split <;> first | omega | rfl

/-- A scanned desk whose answer stands. -/
theorem scanned_stands {s : State} {st : Startup} {n : StreamId} {x : AnswerState} {v : Nat} (hv : v = x.code)
    (hx : x = .empty ∨ x = .fresh ∨ x = .seen) : s.scanned st n v = (s.setAnswer n x).afterScan st n := by
  rw [State.scanned, hv, answerState_ofCode_code]
  rcases hx with rfl | rfl | rfl <;> rfl

/-! ## Replay of the note (R179, R182) -/

theorem regionCount_congr {s t : State} (h : t.loader.inForce = s.loader.inForce) (r : Region) :
    t.regionCount r = s.regionCount r := by
  simp only [State.regionCount, State.regions, h]

theorem imageTarget_congr {s t : State} (h : t.loader.inForce = s.loader.inForce) (g : RawImage) :
    t.imageTarget g = s.imageTarget g := by
  simp only [State.imageTarget, regionCount_congr h]

theorem replayWrite_congr {s t : State} (h : t.loader.inForce = s.loader.inForce) (g : RawImage) (x : Target) :
    t.replayWrite g x = s.replayWrite g x := by
  cases x <;> simp only [State.replayWrite, State.targetOff, State.regions, h]

theorem grows_startClear (s : State) (st : Startup) : Grows s (s.startClear st) [.loader, .raised] :=
  grows_startupWrite_none _ _ _ _

/-- Raising a request leaves every settled stream but for its count of answer writes. -/
theorem sameStreams_raise {s : State} (hs : StreamsSettled s) (t : OwnTag) (o : Nat) (b : OwnBody) (h : Option Nat) :
    SameStreams s (s.raise t o b h) := by
  intro n
  rw [stream_raise]
  split
  · have hn : ({ s.stream n with answersRaised := (s.stream n).answersRaised + 1 } : Stream).settled =
        { (s.stream n).settled with answersRaised := (s.stream n).answersRaised + 1 } := rfl
    rw [hn, hs n]
  · rfl

/-- Some store faults have been counted, each shown in the status word, and nothing else has happened. -/
structure Counted (s v : State) (k : Nat) : Prop where
  loader : v.loader = { s.loader with faults := min (s.loader.faults + k) 65535 }
  shown : StatusShown s v
  grows : Grows s v [.loader, .raised]

theorem Counted.zero {s : State} (h : s.loader.faults ≤ 65535) : Counted s s 0 :=
  ⟨by rw [Nat.add_zero, Nat.min_eq_left h], StatusShown.refl s, Grows.refl s _⟩

theorem oneMoreFault_of_le {l : Loader} (h : l.faults ≤ 65535) :
    oneMoreFault l = { l with faults := min (l.faults + 1) 65535 } := by
  rw [oneMoreFault]
  congr 1
  split <;> omega

theorem counted_storeFault {s v : State} {k : Nat} (h : s.loader.faults ≤ 65535) (hv : Counted s.storeFault v k) :
    Counted s v (k + 1) := by
  refine ⟨?_, (statusShown_storeFault s).trans hv.shown hv.grows, (grows_storeFault s).andThen hv.grows⟩
  have hmin : min (min (s.loader.faults + 1) 65535 + k) 65535 = min (s.loader.faults + (k + 1)) 65535 := by omega
  rw [hv.loader, storeFault_loader, oneMoreFault_of_le h]
  simp only [hmin]

/-- Images that fail their checks are counted and passed over. -/
theorem replayFrom_pass (st : Startup) (rest : List RawImage) : ∀ (pre : List RawImage) (s : State) (i : Nat),
    s.loader.faults ≤ 65535 → (∀ z ∈ pre, s.imageTarget z = none) →
    ∃ v, Counted s v pre.length ∧ s.replayFrom st i (pre ++ rest) = v.replayFrom st (i + pre.length) rest
  | [], s, i, hf, _ => ⟨s, Counted.zero hf, rfl⟩
  | z :: pre, s, i, hf, hpre => by
    obtain ⟨hz, hpre⟩ := List.forall_mem_cons.mp hpre
    have hin : s.storeFault.loader.inForce = s.loader.inForce := by rw [storeFault_loader]; rfl
    have hle : s.storeFault.loader.faults ≤ 65535 := by rw [storeFault_loader, oneMoreFault_of_le hf]; exact Nat.min_le_right _ _
    obtain ⟨v, hv, heq⟩ := replayFrom_pass st rest pre s.storeFault (i + 1) hle
      (fun y hy => by rw [imageTarget_congr hin]; exact hpre y hy)
    refine ⟨v, counted_storeFault hf hv, ?_⟩
    rw [List.cons_append, State.replayFrom, hz]
    simp only [heq, List.length_cons]
    congr 1
    omega

/-- The first image that passes is written, those before it counted. -/
theorem replayFrom_writes {s : State} {st : Startup} {pre gs : List RawImage} {g : RawImage} {x : Target}
    (hf : s.loader.faults ≤ 65535) (hpre : ∀ z ∈ pre, s.imageTarget z = none) (hg : s.imageTarget g = some x) (i : Nat) :
    ReplayWrites s (s.replayFrom st i (pre ++ g :: gs)) (i + pre.length) g x ∧
    (s.replayFrom st i (pre ++ g :: gs)).loader.faults = min (s.loader.faults + pre.length) 65535 ∧
    StatusShown s (s.replayFrom st i (pre ++ g :: gs)) ∧
    Grows s (s.replayFrom st i (pre ++ g :: gs)) [.raised, .loader, .streams] := by
  obtain ⟨v, hv, heq⟩ := replayFrom_pass st (g :: gs) pre s i hf hpre
  have hin : v.loader.inForce = s.loader.inForce := by rw [hv.loader]
  have hwrite : s.replayFrom st i (pre ++ g :: gs) =
      v.startupWrite (st.at (.writeImage (i + pre.length))) x.answerDesk (s.replayWrite g x).1 (s.replayWrite g x).2 := by
    rw [heq, State.replayFrom, imageTarget_congr hin, hg]
    simp only [replayWrite_congr hin]
  have hgrows := grows_startupWrite v (st.at (.writeImage (i + pre.length))) x.answerDesk (s.replayWrite g x).1
    (s.replayWrite g x).2
  rw [hwrite]
  refine ⟨⟨⟨_, congrArg Loader.job (startupWrite_loader _ _ _ _ _), rfl, rfl⟩, ?_, fun hs n => ?_⟩, ?_, ?_,
    hv.grows.mono.andThen hgrows⟩
  · have hwaits := awaits_startupWrite v (st.at (.writeImage (i + pre.length))) x.answerDesk (s.replayWrite g x).1
      (s.replayWrite g x).2
    cases x <;> exact hwaits
  · have hv' : ∀ m, v.stream m = s.stream m := streams_of_grows hv.grows
    have hstream : ∀ m, (v.setStartup (st.at (.writeImage (i + pre.length)))).stream m = s.stream m := hv'
    have hsame := sameStreams_raise (s := v.setStartup (st.at (.writeImage (i + pre.length))))
      (fun m => by rw [hstream]; exact hs m) (.startupWrite x.answerDesk) (s.replayWrite g x).1
      (.write (s.replayWrite g x).2) none n
    rwa [hstream] at hsame
  · rw [startupWrite_loader, hv.loader]
  · refine hv.shown.trans (.inl ?_) hgrows
    rw [startupWrite_loader]
    exact ⟨rfl, rfl, rfl⟩

/-- When no image passes, all are counted and the note is cleared. -/
theorem replayFrom_clears {s : State} {st : Startup} {l : List RawImage} (hf : s.loader.faults ≤ 65535)
    (hl : ∀ z ∈ l, s.imageTarget z = none) (i : Nat) :
    Grows s (s.replayFrom st i l) [.raised, .loader] ∧
    (s.replayFrom st i l).loader.faults = min (s.loader.faults + l.length) 65535 ∧
    StatusShown s (s.replayFrom st i l) ∧
    Awaits (s.replayFrom st i l) (.startupWrite none) Config.noteBase (.write (lanesOf [0])) := by
  obtain ⟨v, hv, heq⟩ := replayFrom_pass st [] l s i hf hl
  rw [List.append_nil, State.replayFrom] at heq
  rw [heq]
  refine ⟨hv.grows.mono.andThen (grows_startClear _ _), ?_, hv.shown.trans (.inl ?_) (grows_startClear _ _),
    awaits_startupWrite _ _ _ _ _⟩
  · rw [State.startClear, startupWrite_loader, hv.loader]
  · rw [State.startClear, startupWrite_loader]
    exact ⟨rfl, rfl, rfl⟩

theorem parseImage_fields (d : List Byte) : (parseImage d).kind = fieldAt d 0 1 ∧ (parseImage d).run = fieldAt d 2 2 ∧
    (parseImage d).index = fieldAt d 4 4 ∧ (parseImage d).length = fieldAt d 8 2 ∧ (parseImage d).bytes = d.drop 16 :=
  ⟨rfl, rfl, rfl, rfl, rfl⟩

theorem statusShown_dropOwn {s t : State} {k : Nat} (h : StatusShown (s.dropOwn k) t) : StatusShown s t := h

/-- Settles O11: one clause for each place of the order after the block, by what the data say. -/
theorem startupReadsStampNoteAndDesks : Obligations.StartupReadsStampNoteAndDesks := by
  intro s i st a data h hd
  have hexec := exec_startupReadDone h hd
  refine ⟨fun hstep hdata => ?_, fun hstep hdata => ?_, fun hstep hdata => ?_, fun hstep hdata => ?_, fun n hstep hdata => ?_,
    fun n x hstep hdata hx => ?_, fun n hstep hdata => ?_, fun hstep h1 h10 => ?_, fun hstep hcount => ?_, fun k hstep hk => ?_,
    parseImage_fields, fun k hstep hk hf => ⟨fun pre g gs x himages hpre hg => ?_, fun hnone => ?_⟩⟩ <;>
    simp only [State.startupReadOk, hstep] at hexec
  · rw [if_pos hdata] at hexec
    exact ⟨_, hexec, parts_of_dropOwn (grows_startupRead _ _ _ _), awaits_startupRead _ _ _ _⟩
  · rw [if_neg hdata] at hexec
    exact ⟨_, hexec, parts_of_dropOwn (grows_startupEnds _ _), startupEnds_loader _ (.inr rfl), awaits_startupEnds _ _⟩
  · rw [if_pos (show data = [Config.noteWritten] from hdata)] at hexec
    exact ⟨_, hexec, parts_of_dropOwn (grows_startupRead _ _ _ _), awaits_startupRead _ _ _ _⟩
  · rw [if_neg (show data ≠ [Config.noteWritten] from hdata)] at hexec
    exact ⟨_, hexec, parts_of_dropOwn (grows_startScan _ _ _), awaits_startupRead _ _ _ _⟩
  · have hscan : (s.dropOwn i.req.serial).scanned st n (leNat data) =
        ((s.dropOwn i.req.serial).setAnswer n .fresh).startupWrite (st.at (.answerDesk n)) (some n)
          (deskAddr n Config.answerOff) cutLanesOfScan := by
      rcases hdata with hdata | hdata <;> rw [State.scanned, hdata] <;> rfl
    obtain ⟨hg, hstreams, hanswer, hwaits⟩ := scanned_writes _ _ _ _ _ _ hscan
    exact ⟨_, hexec, parts_of_dropOwn hg, hstreams, hanswer, hwaits⟩
  · rw [scanned_stands hdata hx] at hexec
    have hg := grows_afterScan ((s.dropOwn i.req.serial).setAnswer n x) st n
    obtain ⟨hnext, hlast⟩ := awaits_afterScan ((s.dropOwn i.req.serial).setAnswer n x) st n
    rw [setAnswer_sessionWord] at hlast
    refine ⟨_, hexec, parts_of_dropOwn (((Grows.refl _ [.raised, .loader, .streams]).andThen (grows_setAnswer _ n x)).andThen hg), fun m hm => ?_, ?_, hnext, hlast⟩
    · rw [streams_of_grows hg]; exact onlyStreams_setAnswer _ n x m hm
    · rw [streams_of_grows hg]; simp [State.setAnswer]
  · have hscan : (s.dropOwn i.req.serial).scanned st n (leNat data) =
        ((s.dropOwn i.req.serial).setAnswer n .empty).startupWrite (st.at (.answerDesk n)) (some n)
          (deskAddr n Config.answerOff) (stateLanes .empty) := by
      rw [State.scanned, answerState_ofCode_unknown hdata]
    obtain ⟨hg, hstreams, hanswer, hwaits⟩ := scanned_writes _ _ _ _ _ _ hscan
    exact ⟨_, hexec, parts_of_dropOwn hg, hstreams, hanswer, hwaits⟩
  · rw [State.noteHead, if_pos ⟨h1, h10⟩] at hexec
    exact ⟨_, hexec, parts_of_dropOwn (grows_startupRead _ _ _ _), startupRead_loader _ _ _ _, awaits_startupRead _ _ _ _⟩
  · rw [State.noteHead, if_neg (by omega)] at hexec
    refine ⟨_, hexec, parts_of_dropOwn ((grows_storeFault _).andThen (grows_startClear _ _)), ?_, ?_,
      awaits_startupWrite _ _ _ _ _⟩
    · rw [State.startClear, startupWrite_loader, storeFault_loader]; rfl
    · refine statusShown_dropOwn ((statusShown_storeFault _).trans (.inl ?_) (grows_startClear _ _))
      rw [State.startClear, startupWrite_loader]
      exact ⟨rfl, rfl, rfl⟩
  · rw [State.imageRead] at hexec
    simp only [if_pos hk] at hexec
    refine ⟨_, hexec, parts_of_dropOwn (grows_startupRead _ _ _ _), startupRead_loader _ _ _ _, ?_⟩
    have hoff : Config.noteBase + 64 + (k + 1) * 384 = Config.noteBase + Config.imageOff (k + 1) := Nat.add_assoc _ _ _
    rw [hoff]
    exact awaits_startupRead _ _ _ _
  · rw [State.imageRead] at hexec
    simp only [if_neg (Nat.not_lt.mpr hk), himages] at hexec
    obtain ⟨hw, hfaults, hshown, hg⟩ := replayFrom_writes (s := s.dropOwn i.req.serial)
      (st := { st with images := pre ++ g :: gs }) (gs := gs) hf hpre hg 0
    rw [Nat.zero_add] at hw
    exact ⟨_, hexec, hw, hfaults, hshown, parts_of_dropOwn hg⟩
  · rw [State.imageRead] at hexec
    simp only [if_neg (Nat.not_lt.mpr hk)] at hexec
    obtain ⟨hg, hfaults, hshown, hwaits⟩ := replayFrom_clears (s := s.dropOwn i.req.serial)
      (st := { st with images := st.images ++ [parseImage data] }) hf hnone 0
    rw [List.length_append] at hfaults
    exact ⟨_, hexec, parts_of_dropOwn hg, hfaults, hshown, hwaits⟩

end Sys2Proof.Machine
end

section
/-! Obligations O12 and O13. The failed reads of the start-up order, and its writes answered. -/

namespace Sys2Proof.Machine

/-! ## The replay halts (R179) -/

@[simp] theorem touch_req (p : Path) (ts : List Target) :
    (p.touch ts).ownIssued.map (·.req) = p.ownIssued.map (·.req) := by
  simp [Path.touch, Function.comp_def]

theorem touch_ownWaiting (s : State) (e : Engine) (ts : List Target) :
    State.ownWaiting { s with engine := e, path := s.path.touch ts } = s.ownWaiting := by
  simp only [State.ownWaiting, touch_req]
  rfl

theorem grows_touch (s : State) (e : Engine) (ts : List Target) :
    Grows s { s with engine := e, path := s.path.touch ts } [.upstream, .issued, .engine] := by
  refine ⟨?_, fun q hq => by rwa [touch_ownWaiting], rfl⟩
  intro p hp
  cases p <;> simp [Unchanged, Path.touch] at hp ⊢

theorem grows_sweepStop (s : State) : Grows s s.sweepStop [.sweep] := (onlyParts_sweep s _).grows

/-- The engine stopped and every issued read having met the records of the images. -/
def State.replayHalted (s : State) (ts : List Target) : State :=
  ({ s with
      engine := { s.engine with running := false, inFlight := ts }
      path := s.path.touch ts } : State).sweepStop

theorem replayHalt_eq (s : State) (st : Startup) :
    s.replayHalt st = (s.replayHalted (st.images.filterMap s.imageTarget)).startScan st 0 := rfl

theorem grows_replayHalted (s : State) (ts : List Target) :
    Grows s (s.replayHalted ts) [.upstream, .issued, .engine, .sweep] :=
  (grows_touch s _ ts).mono.andThen (grows_sweepStop _)

theorem grows_replayHalt (s : State) (st : Startup) :
    Grows s (s.replayHalt st) [.upstream, .issued, .engine, .sweep, .loader, .raised] :=
  (grows_replayHalted s _).mono.andThen (grows_startScan _ _ _)

/-- What the halt leaves: the engine, the sweep, the loader, the issued reads, and the scan's first read. -/
theorem replayHalt_spec (s : State) (st : Startup) :
    (s.replayHalt st).engine = { s.engine with running := false, inFlight := st.images.filterMap s.imageTarget } ∧
    (s.replayHalt st).sweep = { s.sweep with stopped := true, offer := none, reading := none } ∧
    (s.replayHalt st).loader = { s.loader with job := .startup { st with step := .scanDesk 0, retried := false } } ∧
    (s.replayHalt st).path.upIssued = s.path.upIssued.map
      (fun r => { r with touched := r.touched ++ st.images.filterMap s.imageTarget }) ∧
    Awaits (s.replayHalt st) .startupRead (deskAddr 0 Config.answerOff) (.read 1) := by
  have hg := grows_startScan (s.replayHalted (st.images.filterMap s.imageTarget)) st 0
  obtain ⟨-, -, -, -, hup, -⟩ := hg.parts .upstream (by decide)
  rw [replayHalt_eq]
  exact ⟨hg.parts .engine (by decide), hg.parts .sweep (by decide), startupRead_loader _ _ _ _, hup, awaits_startupRead _ _ _ _⟩

/-! ## Failed reads (R178 to R180) -/

theorem startupReadFailed_setup {st : Startup} {p : SetupPart} (h : st.step = .readSetup p) (s : State) :
    s.startupReadFailed st = ({ s with loader := { s.loader with
      faults := if p = .status then 1 else satSucc s.loader.faults } } : State).startupUnset ⟨.readFault, 0⟩ := by
  unfold State.startupReadFailed
  rw [h]
  cases p <;> rfl

theorem startupReadFailed_note {st : Startup} {off len : Nat} (h : noteReadOf st.step = some (off, len)) (s : State) :
    s.startupReadFailed st = s.noteReadFailed st off len := by
  unfold State.startupReadFailed
  unfold noteReadOf at h
  split at h
  next hs => obtain ⟨rfl, rfl⟩ : Config.noteBase = off ∧ 1 = len := by simpa using h
             rw [hs]
  next hs => obtain ⟨rfl, rfl⟩ : Config.noteBase + 1 = off ∧ 4 = len := by simpa using h
             rw [hs]
  next k hs => obtain ⟨rfl, rfl⟩ : Config.noteBase + 64 + k * 384 = off ∧ 384 = len := by simpa using h
               rw [hs, Nat.add_assoc]
               rfl
  · simp at h

/-- Settles O12: an error answer gives no data, as a timeout does; then one clause for each place of the order. -/
theorem startupReadFailures : Obligations.StartupReadFailures := by
  intro s i st h
  have hexec := exec_startupReadTimeout h
  refine ⟨fun _ => rfl, fun p hp => ?_, fun hp => ?_, fun off len hn hr => ?_, fun off len hn hr => ?_, fun n hn => ?_⟩
  · rw [startupReadFailed_setup hp] at hexec
    refine ⟨_, hexec, parts_of_dropOwn (ps := [.loader, .raised, .upstream, .streams])
      ((onlyParts_loader _ _).grows.mono.andThen (grows_startupUnset _ _)), ?_, awaits_startupEnds _ _⟩
    exact startupEnds_loader _ (.inl rfl)
  · simp only [State.startupReadFailed, hp] at hexec
    refine ⟨_, hexec, parts_of_dropOwn (ps := [.loader, .raised, .upstream, .streams])
      ((onlyParts_loader _ _).grows.mono.andThen (grows_startupEnds _ _)), ?_, awaits_startupEnds _ _⟩
    exact startupEnds_loader _ (.inr rfl)
  · rw [startupReadFailed_note hn, State.noteReadFailed, hr, if_neg (by decide)] at hexec
    exact ⟨_, hexec, parts_of_dropOwn (grows_startupRead _ _ _ _), startupRead_loader _ _ _ _, awaits_startupRead _ _ _ _⟩
  · rw [startupReadFailed_note hn, State.noteReadFailed, hr, if_pos rfl] at hexec
    obtain ⟨hengine, hsweep, hloader, hup, hwaits⟩ := replayHalt_spec (s.dropOwn i.req.serial) st
    refine ⟨_, hexec, parts_of_dropOwn (grows_replayHalt _ _), ?_, ?_, ?_, hup, ?_, hwaits⟩
    · rw [hengine]
    · rw [hengine]; rfl
    · rw [hsweep]
    · rw [hloader]; rfl
  · simp only [State.startupReadFailed, hn] at hexec
    have hg := grows_afterScan ((s.dropOwn i.req.serial).storeFault.setAnswer n .empty) st n
    obtain ⟨hnext, hlast⟩ := awaits_afterScan ((s.dropOwn i.req.serial).storeFault.setAnswer n .empty) st n
    have hfault' : ∀ m, (s.dropOwn i.req.serial).storeFault.stream m = (s.dropOwn i.req.serial).stream m :=
      streams_of_grows (grows_storeFault _)
    have hfault : ∀ m, (s.dropOwn i.req.serial).storeFault.stream m = s.stream m := hfault'
    have hword : (s.dropOwn i.req.serial).storeFault.sessionWord 0 = s.sessionWord 0 :=
      sessionWord_congr (by rw [hfault]) (by rw [storeFault_loader]; rfl)
    rw [setAnswer_sessionWord, hword] at hlast
    refine ⟨_, hexec, parts_of_dropOwn (ps := [.raised, .loader, .streams])
      (((grows_storeFault _).mono.andThen (grows_setAnswer _ n _)).andThen hg), fun m hm => ?_, ?_, ?_, fun hlt => ?_,
      hnext, hlast⟩
    · rw [streams_of_grows hg, onlyStreams_setAnswer _ n _ m hm, hfault]
    · rw [streams_of_grows hg]; simp [State.setAnswer]
    · rw [afterScan_loader]
      change ((s.dropOwn i.req.serial).storeFault).loader.faults = _
      rw [storeFault_loader]
      rfl
    · exact ((statusRaised_storeFault (s := s.dropOwn i.req.serial) hlt).grows (grows_setAnswer _ n .empty)).grows hg

/-! ## A start-up write is answered -/

/-- The answered write has landed as memory `m` and left the list. -/
def State.landedAs (s : State) (m : Memory) (k : Nat) : State := ({ s with mem := m } : State).dropOwn k

@[simp] theorem landedAs_loader (s : State) (m : Memory) (k : Nat) : (s.landedAs m k).loader = s.loader := rfl
@[simp] theorem landedAs_mem (s : State) (m : Memory) (k : Nat) : (s.landedAs m k).mem = m := rfl

theorem onlyParts_landedAs (s : State) (m : Memory) (k : Nat) : OnlyParts s (s.landedAs m k) [.memory, .issued] :=
  ((onlyParts_mem s m).mono (by decide)).andThen (onlyParts_dropOwn _ k)

/-- What `v` adds after a write has landed. -/
theorem parts_of_landedAs {s v : State} {m : Memory} {k : Nat} {ps qs : List Part} (h : Grows (s.landedAs m k) v ps)
    (hp : ∀ p ∈ ps, p ∈ qs := by decide) (hi : ∀ p ∈ [Part.memory, .issued], p ∈ qs := by decide) : OnlyParts s v qs :=
  (onlyParts_landedAs s m k).trans h.parts hi hp

theorem mem_of_landedAs {s v : State} {m : Memory} {k : Nat} {ps : List Part} (h : Grows (s.landedAs m k) v ps)
    (hp : Part.memory ∉ ps := by decide) : v.mem = m := h.parts .memory hp

theorem landStartup_done (s : State) (st : Startup) {q : OwnReq} {ls : List Lane} (hq : q.body = .write ls) :
    s.landStartup st q .done = { s with mem := s.mem.writeLanes q.addr ls } := by
  unfold State.landStartup State.landOwn State.landOwnWhole
  rw [hq]
  split <;> rfl

theorem landStartup_image_error (s : State) {st : Startup} {j : Nat} (hst : st.step = .writeImage j) {q : OwnReq}
    {ls : List Lane} (hq : q.body = .write ls) (k : Nat) :
    s.landStartup st q (.error k) = { s with mem := s.mem.land q.addr ls (.error k) } := by
  simp only [State.landStartup, hst, State.landOwn, hq]

theorem landStartup_other_error (s : State) {st : Startup} (hst : ∀ j, st.step ≠ .writeImage j) {q : OwnReq}
    {ls : List Lane} (hq : q.body = .write ls) (k : Nat) : s.landStartup st q (.error k) = s := by
  unfold State.landStartup State.landOwnWhole
  rw [hq]
  split
  next j hj => exact absurd hj (hst j)
  · rfl

theorem exec_startupWriteDone {s : State} {i : IssuedOwn} {st : Startup} {desk : Option StreamId}
    (h : AtStartup s startupWrites i st) (ht : i.req.tag = .startupWrite desk) (a : Answer) :
    exec (.startupWriteDone a) s =
      .next (((s.landStartup st i.req a).dropOwn i.req.serial).startupWritten st i.req (answeredDone a)) := by
  obtain ⟨hreset, hpull, hjob⟩ := h
  have hp : s.pullOwn (fun q => isStartupWrite q.tag) = some i := hpull
  rw [exec, execStartupWriteDone, live_eq hreset]
  simp [State.startupWriteAnswered, State.startupJob, hp, ht, hjob]

theorem exec_startupWriteDone_done {s : State} {i : IssuedOwn} {st : Startup} {desk : Option StreamId} {ls : List Lane}
    (h : AtStartup s startupWrites i st) (ht : i.req.tag = .startupWrite desk) (hb : i.req.body = .write ls) :
    exec (.startupWriteDone .done) s =
      .next ((s.landedAs (s.mem.writeLanes i.req.addr ls) i.req.serial).startupWritten st i.req true) := by
  rw [exec_startupWriteDone h ht, landStartup_done s st hb]
  rfl

/-- The memory a write of the replay, or of CLEAR, answered error leaves. -/
theorem exec_startupWriteDone_note_error {s : State} {i : IssuedOwn} {st : Startup} {desk : Option StreamId} {ls : List Lane}
    (h : AtStartup s startupWrites i st) (ht : i.req.tag = .startupWrite desk) (hb : i.req.body = .write ls)
    (hst : (∃ j, st.step = .writeImage j) ∨ st.step = .clearNote) (k : Nat) :
    exec (.startupWriteDone (.error k)) s =
      .next ((s.landedAs (if st.step = .clearNote then s.mem else s.mem.land i.req.addr ls (.error k)) i.req.serial).replayFailed
        st i.req) := by
  rw [exec_startupWriteDone h ht]
  rcases hst with ⟨j, hj⟩ | hc
  · rw [landStartup_image_error s hj hb, if_neg (by simp [hj]), State.startupWritten, hj]
    rfl
  · rw [landStartup_other_error s (by simp [hc]) hb, if_pos hc, State.startupWritten, hc]
    rfl

/-- An answer of the scan or a session word answered error leaves memory as it was. -/
theorem exec_startupWriteDone_error {s : State} {i : IssuedOwn} {st : Startup} {desk : Option StreamId} {ls : List Lane}
    (h : AtStartup s startupWrites i st) (ht : i.req.tag = .startupWrite desk) (hb : i.req.body = .write ls)
    (hst : ∀ j, st.step ≠ .writeImage j) (k : Nat) :
    exec (.startupWriteDone (.error k)) s = .next ((s.dropOwn i.req.serial).startupWritten st i.req false) := by
  rw [exec_startupWriteDone h ht, landStartup_other_error s hst hb]
  rfl

/-! ## The scan's answers and the session words -/

theorem grows_afterSession {s : State} {n m : StreamId} (h : n.val + 1 = m.val) (st : Startup) :
    Grows s (s.afterSession st n) [.loader, .raised] ∧
    (s.afterSession st n).loader = { s.loader with job := (s.afterSession st n).loader.job } ∧
    Awaits (s.afterSession st n) (.startupWrite none) (deskAddr m Config.sessionOff) (.write (lanesOf (s.sessionWord m))) := by
  rw [State.afterSession, nextStream_some h]
  refine ⟨grows_startSession _ _ _, ?_, awaits_startupWrite _ _ _ _ _⟩
  simp only [State.startSession, startupWrite_loader]

theorem startupWritten_next (s : State) {st : Startup} {n m : StreamId} (h : n.val + 1 = m.val)
    (hst : st.step = .answerDesk n ∨ st.step = .writeSession n) (q : OwnReq) (ok : Bool) (v : State)
    (hv : v = if ok then s else s.storeFault) :
    Grows v (s.startupWritten st q ok) [.loader, .raised] ∧
    (s.startupWritten st q ok).loader = { v.loader with job := (s.startupWritten st q ok).loader.job } ∧
    NextStartup (s.startupWritten st q ok) st.step v m := by
  subst hv
  rcases hst with hst | hst
  · rw [State.startupWritten, hst]
    refine ⟨grows_afterScan _ _ _, afterScan_loader _ _ _, fun n' hn => ?_, fun n' hn => by simp at hn⟩
    exact (awaits_afterScan _ st n).1 m h
  · rw [State.startupWritten, hst]
    obtain ⟨hg, hloader, hwaits⟩ := grows_afterSession (s := if ok then s else s.storeFault) h st
    exact ⟨hg, hloader, fun n' hn => by simp at hn, fun n' hn => hwaits⟩

theorem sessionWord_storeFault (s : State) (n : StreamId) : s.storeFault.sessionWord n = s.sessionWord n :=
  sessionWord_congr (by rw [streams_of_grows (grows_storeFault s)]) (by rw [storeFault_loader]; rfl)

theorem NextStartup.congr {t s v : State} {p : StartStep} {m : StreamId} (h : NextStartup t p v m)
    (hw : v.sessionWord m = s.sessionWord m) : NextStartup t p s m :=
  ⟨h.1, fun n hn => by rw [← hw]; exact h.2 n hn⟩

/-! ## READY (R160, R180) -/

theorem onlyParts_sweepLoad (s : State) : OnlyParts s s.sweepLoad [.sweep] := onlyParts_sweep s _

theorem sweepLoaded_sweepLoad (s : State) : SweepLoaded s s.sweepLoad := by
  intro m now hm hnow
  subst hm
  simp only [State.sweepLoad, hnow, Option.getD_some, Config.summarySize]
  refine ⟨fun h => ?_, fun h h1 h2 => ?_, fun h h1 => ?_⟩
  · rw [if_pos h]
  · rw [if_neg (by omega), if_pos ⟨h1, h2⟩]
  · rw [if_neg (by omega), if_neg (by tauto)]

/-- The state when the sweep is loaded and READY shown, before held requests go on. -/
def State.madeReady (s : State) : State :=
  ({ s.sweepLoad with loader := { s.loader with part := .ready, job := .idle } } : State).raiseStatus .startupStatus

theorem startupReady_eq (s : State) : s.startupReady = s.madeReady.drain.sweepExamine := by
  have hother : s.madeReady.startAtOnce = s.madeReady :=
    startAtOnce_of_other (by simp [State.madeReady]) (by simp [State.madeReady])
  rw [← hother]
  rfl

theorem grows_madeReady (s : State) : Grows s s.madeReady [.sweep, .loader, .raised] :=
  (((onlyParts_sweepLoad s).grows.mono).andThen (onlyParts_loader _ _).grows).andThen (grows_raiseStartupStatus _)

theorem madeReady_spec (s : State) : s.madeReady.loader = { s.loader with part := .ready, job := .idle } ∧
    SweepLoaded s s.madeReady ∧ Awaits s.madeReady .startupStatus Config.statusOff
      (.write (lanesOf (encodeStatus .ready s.loader.result s.loader.faults))) := by
  have hmem : s.madeReady.mem = s.mem := (grows_madeReady s).parts .memory (by decide)
  have hsweep : s.madeReady.sweep = s.sweepLoad.sweep := (grows_raiseStartupStatus _).parts .sweep (by decide)
  refine ⟨raiseStatus_loader _ _, ?_, awaits_raiseWrite _ _ _ _ _⟩
  intro m now hm hnow
  rw [hsweep]
  exact sweepLoaded_sweepLoad s m now (by rw [hm, hmem]; rfl) hnow

theorem SweepLoaded.congr {s r v : State} (h : SweepLoaded r v) (hb : r.base = s.base) (ht : r.loader.today = s.loader.today)
    (hx : r.sweep = s.sweep) : SweepLoaded s v := by
  intro m now hm hnow
  rw [← hx]
  exact h m now (by rw [hm, hb]) (by rw [ht, hnow])

theorem startupWritten_last (s : State) {st : Startup} (hst : st.step = .writeSession 31) (q : OwnReq) (ok : Bool) :
    s.startupWritten st q ok = (if ok then s else s.storeFault).madeReady.drain.sweepExamine := by
  rw [State.startupWritten, hst, ← startupReady_eq]
  rfl

/-! ## Images (R182) -/

@[simp] theorem guardedLanes_length (r : Region) : ∀ (bs : List Byte) (o : Nat), (guardedLanes r o bs).length = bs.length
  | [], _ => rfl
  | _ :: bs, o => by simp [guardedLanes, guardedLanes_length r bs (o + 1)]

theorem guardedLanes_getElem? (r : Region) : ∀ (bs : List Byte) (o j : Nat), (guardedLanes r o bs)[j]? =
    bs[j]?.map (fun b => ⟨decide (r.fieldKind (o + j) = .guarded), b⟩)
  | [], _, _ => rfl
  | b :: bs, o, 0 => rfl
  | b :: bs, o, j + 1 => by
    rw [guardedLanes, List.getElem?_cons_succ, guardedLanes_getElem? r bs (o + 1) j, List.getElem?_cons_succ,
      Nat.add_right_comm, Nat.add_assoc]

theorem region_ofCode_code (r : Region) : Region.ofCode r.code = some r := by cases r <;> rfl

theorem region_code_lt (r : Region) : r.code < 6 := by cases r <;> decide

theorem region_ofCode_none {k : Nat} (h : k = 0 ∨ 7 < k) : Region.ofCode k = none := by
  unfold Region.ofCode
  split <;> first | omega | rfl

theorem imageTarget_desk {s : State} {g : RawImage} (hk : g.kind = 7) : s.imageTarget g =
    if h : g.index < 32 then
      if g.run + g.length ≤ 272 then some (.desk ⟨g.index, h⟩) else none
    else none := by
  rw [State.imageTarget, hk]
  rfl

theorem imageTarget_region {s : State} {g : RawImage} {r : Region} (hk : g.kind = r.code) : s.imageTarget g =
    if g.index < s.regionCount r then some (.record r g.index) else none := by
  have hlt := region_code_lt r
  rw [State.imageTarget, if_neg (by omega), if_neg (by omega), hk, region_ofCode_code]

theorem imageTarget_none {s : State} {g : RawImage} (h : g.kind = 0 ∨ 7 < g.kind ∨
    (g.kind = 7 ∧ (31 < g.index ∨ 272 < g.run + g.length)) ∨ ∃ r : Region, g.kind = r.code ∧ s.regionCount r ≤ g.index) :
    s.imageTarget g = none := by
  have houtside : g.kind = 0 ∨ 7 < g.kind → s.imageTarget g = none := fun hk => by
    simp only [State.imageTarget, if_neg (show ¬ g.kind = 6 by omega), if_neg (show ¬ g.kind = 7 by omega),
      region_ofCode_none hk]
  rcases h with h | h | ⟨hk, h⟩ | ⟨r, hk, h⟩
  · exact houtside (.inl h)
  · exact houtside (.inr h)
  · rw [imageTarget_desk hk]
    split
    · rw [if_neg (by omega)]
    · rfl
  · rw [imageTarget_region hk, if_neg (by omega)]

/-- A byte of a replayed record: the image's own, strobed exactly where the record is guarded. -/
theorem replayWrite_record_lane {s : State} {g : RawImage} {r : Region} {k o : Nat} {l : Lane}
    (h : (s.replayWrite g (.record r k)).2[o]? = some l) :
    g.bytes[o]? = some l.value ∧ (l.strobe = true ↔ r.fieldKind o = .guarded) := by
  simp only [State.replayWrite, guardedLanes_getElem?, Nat.zero_add, Option.map_eq_some_iff, List.getElem?_take] at h
  obtain ⟨b, hb, rfl⟩ := h
  split at hb
  · exact ⟨hb, by simp⟩
  · simp at hb

/-! ## The obligation -/

theorem replayFailed_again {s : State} {st : Startup} {q : OwnReq} {desk : Option StreamId} {ls : List Lane}
    (ht : q.tag = .startupWrite desk) (hb : q.body = .write ls) (hr : st.retried = false) :
    s.replayFailed st q = s.startupWrite { st with retried := true } desk (q.addr - s.base) ls := by
  simp [State.replayFailed, hr, hb, ht, OwnTag.answerOf]

theorem replayFailed_halts {s : State} {st : Startup} (q : OwnReq) (hr : st.retried = true) :
    s.replayFailed st q = s.replayHalt st := by simp [State.replayFailed, hr]

/-- Settles O13: one clause for each place of the order, by the answer; then the targets and writes of images. -/
theorem startupWritesInOrder : Obligations.StartupWritesInOrder := by
  refine ⟨fun s i st desk lanes h ht hb => ?_, fun s i lanes a hreset hpull ht hb => ?_, fun s g => ?_⟩
  · have hdone := exec_startupWriteDone_done h ht hb
    have hnote := exec_startupWriteDone_note_error h ht hb
    have herror := exec_startupWriteDone_error h ht hb
    refine ⟨fun k hst hf => ⟨fun pre g gs x himages hpre hg => ?_, fun hnone => ?_⟩, fun hst => ?_,
      fun k hst => ⟨fun hr => ?_, fun hr => ?_⟩, fun n m hst hnm => ⟨?_, fun k => ?_⟩, fun hst => ⟨?_, fun k => ?_⟩,
      fun hst => ⟨?_, fun k => ?_⟩⟩
    · simp only [State.startupWritten, hst, if_true, himages] at hdone
      obtain ⟨hw, hfaults, hshown, hgrow⟩ := replayFrom_writes
        (s := s.landedAs (s.mem.writeLanes i.req.addr lanes) i.req.serial) (st := st) (gs := gs) hf hpre hg (k + 1)
      exact ⟨_, hdone, hw, hfaults, hshown, mem_of_landedAs hgrow, parts_of_landedAs hgrow⟩
    · simp only [State.startupWritten, hst, if_true] at hdone
      obtain ⟨hgrow, hfaults, hshown, hwaits⟩ := replayFrom_clears
        (s := s.landedAs (s.mem.writeLanes i.req.addr lanes) i.req.serial) (st := st) hf hnone (k + 1)
      exact ⟨_, hdone, parts_of_landedAs hgrow, mem_of_landedAs hgrow, hfaults, hshown, hwaits⟩
    · simp only [State.startupWritten, hst, if_true] at hdone
      exact ⟨_, hdone, parts_of_landedAs (grows_startScan _ _ _), mem_of_landedAs (grows_startScan _ _ _),
        awaits_startupRead _ _ _ _⟩
    · have hexec := hnote hst k
      rw [replayFailed_again ht hb hr] at hexec
      have hgrow := grows_startupWrite (s.landedAs (if st.step = .clearNote then s.mem else
        s.mem.land i.req.addr lanes (.error k)) i.req.serial) { st with retried := true } desk (i.req.addr - s.base) lanes
      exact ⟨_, hexec, startupWrite_loader _ _ _ _ _, awaits_startupWrite _ _ _ _ _, mem_of_landedAs hgrow,
        parts_of_landedAs hgrow, fun hs => sameStreams_raise (s := (s.landedAs (if st.step = .clearNote then s.mem else
          s.mem.land i.req.addr lanes (.error k)) i.req.serial).setStartup { st with retried := true }) hs _ _ _ _⟩
    · have hexec := hnote hst k
      rw [replayFailed_halts _ hr] at hexec
      obtain ⟨hengine, hsweep, hloader, -, hwaits⟩ := replayHalt_spec (s.landedAs (if st.step = .clearNote then s.mem else
        s.mem.land i.req.addr lanes (.error k)) i.req.serial) st
      exact ⟨_, hexec, hengine, hsweep, hloader, hwaits, mem_of_landedAs (grows_replayHalt _ _),
        parts_of_landedAs (grows_replayHalt _ _)⟩
    · obtain ⟨hgrow, hloader, hnext⟩ := startupWritten_next (s.landedAs (s.mem.writeLanes i.req.addr lanes) i.req.serial)
        hnm hst i.req true _ rfl
      exact ⟨_, hdone, hnext, parts_of_landedAs hgrow, mem_of_landedAs hgrow, by rw [hloader]; rfl⟩
    · obtain ⟨hgrow, hloader, hnext⟩ := startupWritten_next (s.dropOwn i.req.serial) hnm hst i.req false _ rfl
      refine ⟨_, herror (by rcases hst with hst | hst <;> simp [hst]) k, hnext.congr (sessionWord_storeFault _ _),
        parts_of_dropOwn (ps := [.loader, .raised]) ((grows_storeFault _).andThen hgrow), ?_, ?_⟩
      · rw [hloader, if_neg Bool.false_ne_true, storeFault_loader]; rfl
      · refine statusShown_dropOwn ((statusShown_storeFault _).trans (.inl ?_) hgrow)
        rw [hloader]; exact ⟨rfl, rfl, rfl⟩
    · simp only [State.startupWritten, hst, if_true] at hdone
      have hgrow := grows_afterScan (s.landedAs (s.mem.writeLanes i.req.addr lanes) i.req.serial) st 31
      exact ⟨_, hdone, (awaits_afterScan _ st 31).2 rfl, parts_of_landedAs hgrow, mem_of_landedAs hgrow⟩
    · have hexec := herror (by simp [hst]) k
      rw [State.startupWritten, hst] at hexec
      simp only [Bool.false_eq_true, if_false] at hexec
      have hgrow := grows_afterScan (s.dropOwn i.req.serial).storeFault st 31
      have hwaits := (awaits_afterScan (s.dropOwn i.req.serial).storeFault st 31).2 rfl
      rw [sessionWord_storeFault] at hwaits
      refine ⟨_, hexec, hwaits, parts_of_dropOwn (ps := [.loader, .raised]) ((grows_storeFault _).andThen hgrow), ?_, ?_⟩
      · rw [afterScan_loader, storeFault_loader]; rfl
      · refine statusShown_dropOwn ((statusShown_storeFault _).trans (.inl ?_) hgrow)
        rw [afterScan_loader]; exact ⟨rfl, rfl, rfl⟩
    · rw [startupWritten_last _ hst, if_pos rfl] at hdone
      have hgrow := grows_madeReady (s.landedAs (s.mem.writeLanes i.req.addr lanes) i.req.serial)
      obtain ⟨hloader, hsweep, hwaits⟩ := madeReady_spec (s.landedAs (s.mem.writeLanes i.req.addr lanes) i.req.serial)
      exact ⟨_, hdone, parts_of_landedAs hgrow, mem_of_landedAs hgrow, hloader, hsweep, hwaits⟩
    · have hexec := herror (by simp [hst]) k
      rw [startupWritten_last _ hst, if_neg Bool.false_ne_true] at hexec
      have hgrow := grows_madeReady (s.dropOwn i.req.serial).storeFault
      obtain ⟨hloader, hsweep, hwaits⟩ := madeReady_spec (s.dropOwn i.req.serial).storeFault
      rw [storeFault_loader] at hloader hwaits
      refine ⟨_, hexec, parts_of_dropOwn (ps := [.sweep, .loader, .raised]) ((grows_storeFault _).mono.andThen hgrow),
        hsweep.congr (grows_storeFault _).base (by rw [storeFault_loader]; rfl)
          ((grows_storeFault _).parts .sweep (by decide)), hloader, hwaits, fun hlt => ?_⟩
      exact (statusRaised_storeFault (s := s.dropOwn i.req.serial) hlt).grows hgrow
  · have hp : s.pullOwn (fun q => isStartupWrite q.tag) = some i := hpull
    refine ⟨s.landedAs (if answeredDone a then s.mem.writeLanes i.req.addr lanes else s.mem) i.req.serial, ?_,
      (onlyParts_landedAs s _ _), rfl⟩
    rw [exec, execStartupWriteDone, live_eq hreset]
    simp only [State.startupWriteAnswered, hp, ht, if_true, State.landOwnWhole, hb]
    rfl
  · refine ⟨fun hk => ?_, fun n hk hn hlen => ?_, fun r hk hlt => ?_, imageTarget_none, rfl, fun n => rfl,
      fun r k => ⟨rfl, by simp [State.replayWrite], fun o l => replayWrite_record_lane⟩⟩
    · rw [State.imageTarget, if_pos hk]
    · rw [imageTarget_desk hk, dif_pos (by omega), if_pos hlen]
      exact congrArg (fun x => some (Target.desk x)) (Fin.ext hn)
    · rw [imageTarget_region hk, if_pos hlt]

end Sys2Proof.Machine
end


section
/-! Obligations O14, O15: requests in, and what the Guard sends on. -/

namespace Sys2Proof.Machine

/-! ## Acceptance -/

theorem stream_activity (s : State) (n m : StreamId) : (s.activity n).stream m =
    if m = n then ({ s.stream n with idleTimer := (s.stream n).idleTimer.map (fun _ => 0) } : Stream).settled else s.stream m :=
  stream_updStream s m n _

/-- An entry that is settled stays so when its running idle timer restarts. -/
theorem settled_idleRestarted {x : Stream} (h : x.settled = x) : (IdleRestarted x).settled = IdleRestarted x := by
  obtain ⟨h1, h2, h3⟩ := (settled_eq_iff x).1 h
  exact (settled_eq_iff _).2 ⟨h1, by simpa [IdleRestarted] using h2, h3⟩

theorem stream_enter (s : State) (r : Request) (m : StreamId) : (s.enter r).stream m = (s.activity r.stream).stream m := rfl

theorem onlyStreams_enter (s : State) (r : Request) : OnlyStreams s (s.enter r) [r.stream] := fun m hm => by
  rw [stream_enter, stream_activity, if_neg (by simpa using hm)]

theorem stream_enter_self {s : State} (hs : StreamsSettled s) (r : Request) :
    (s.enter r).stream r.stream = IdleRestarted (s.stream r.stream) := by
  rw [stream_enter, stream_activity, if_pos rfl]
  exact settled_idleRestarted (hs r.stream)

theorem guardHits_enter (s : State) (r : Request) (n : StreamId) :
    ((s.enter r).stream n).guardHits = (s.stream n).guardHits := by
  rw [stream_enter, stream_activity]
  split
  next h => rw [h]; rfl
  next => rfl

theorem path_enter (s : State) (r : Request) : (s.enter r).path =
    { s.path with outstanding := s.path.outstanding ++ [⟨s.serial, r.stream, false, false, none⟩] } := rfl

theorem onlyParts_enter (s : State) (r : Request) : OnlyParts s (s.enter r) [.upstream, .streams] := by
  intro p hp; cases p <;> simp [Unchanged, State.enter] at hp ⊢

theorem entered (s : State) (r : Request) : ∃ o ∈ (s.enter r).path.outstanding, o.tag = s.serial :=
  ⟨_, List.mem_append_right _ (List.mem_singleton_self _), rfl⟩

theorem exec_upstreamRequest {s : State} {r : Request} (h : s.accepts r = true) :
    exec (.upstreamRequest r) s = .next (s.takeUpstream r) := by
  change Host.Outcome.next _ = _
  rw [if_pos h]

/-- The path of a request: answered at once, into the hold list, or on. -/
theorem takeUpstream_crosses {s : State} {r : Request} (h : r.crosses = true) :
    s.takeUpstream r = (s.enter r).complete s.serial ⟨false, errorData s.serial r⟩ := by
  simp [State.takeUpstream, h]

theorem takeUpstream_held {s : State} {r : Request} (h : r.crosses = false) (ha : s.inAperture r = true)
    (hp : s.loader.part = .starting) : s.takeUpstream r = (s.enter r).holdStartup ⟨s.serial, r⟩ := by
  have h1 : (s.enter r).inAperture r = true := ha
  have h2 : (s.enter r).loader.part = .starting := hp
  simp [State.takeUpstream, h, h1, h2]

/-- The three ways of an accepted request. -/
theorem takeUpstream_cases (s : State) (r : Request) :
    s.takeUpstream r = (s.enter r).complete s.serial ⟨false, errorData s.serial r⟩ ∨
      s.takeUpstream r = (s.enter r).holdStartup ⟨s.serial, r⟩ ∨
      s.takeUpstream r = (s.enter r).admitReq ⟨s.serial, r⟩ := by
  unfold State.takeUpstream
  dsimp only
  split_ifs
  · exact .inl rfl
  · exact .inr (.inl rfl)
  · exact .inr (.inr rfl)

theorem takeUpstream_admitted {s : State} {r : Request} (h : Admitted s r) :
    s.takeUpstream r = (s.enter r).admitReq ⟨s.serial, r⟩ := by
  obtain ⟨-, hc, hn⟩ := h
  have h1 : ¬ ((s.enter r).inAperture r = true ∧ (s.enter r).loader.part = .starting) := hn
  simp only [State.takeUpstream, hc, Bool.false_eq_true, if_false, Bool.and_eq_true, decide_eq_true_eq, if_neg h1]

/-! ## A request goes on -/

theorem admitReq_asIs {s : State} {u : UpReq} (h : u.req.write = false ∨ s.inAperture u.req = false) :
    s.admitReq u = s.place u := by
  unfold State.admitReq
  rcases h with h | h <;> simp [h]

/-- The stream's guard-hit count is judged. -/
def State.judgeHit (s : State) (r : Request) : State := if s.losesByte r then s.guardHit r.stream else s

/-- The request with the lanes the Guard leaves. -/
def State.guarded (s : State) (r : Request) : Request := { r with lanes := s.guardLanes r }

/-- The write is entered as a close or cancel, or not, as its lanes left say. -/
def State.markCloses (s : State) (u : UpReq) : State :=
  (s.judgeHit u.req).updOutstanding u.tag (fun o =>
    { o with closes := s.coversClose (s.guarded u.req) || s.coversCancel (s.guarded u.req) })

theorem admitReq_strobed {s : State} {u : UpReq} (hw : u.req.write = true) (ha : s.inAperture u.req = true)
    (hl : (s.guardLanes u.req).any (·.strobe) = true) :
    s.admitReq u = (s.markCloses u).place { u with req := s.guarded u.req } := by
  unfold State.admitReq
  rw [if_pos (by rw [hw, ha]; rfl)]
  exact if_pos hl

theorem admitReq_blank {s : State} {u : UpReq} (hw : u.req.write = true) (ha : s.inAperture u.req = true)
    (hl : (s.guardLanes u.req).any (·.strobe) = false) :
    s.admitReq u = (s.judgeHit u.req).complete u.tag ⟨true, []⟩ := by
  unfold State.admitReq
  rw [if_pos (by rw [hw, ha]; rfl)]
  exact if_neg (by rw [hl]; decide)

theorem streams_place (s : State) (u : UpReq) : (s.place u).streams = s.streams :=
  onlyParts_place s u .streams (by decide)

theorem path_judgeHit (s : State) (r : Request) : (s.judgeHit r).path = s.path := by
  unfold State.judgeHit; split <;> rfl

/-- A request that goes on touches no entry but its stream's, and there only the guard-hit count, when it is an aperture write. -/
theorem streams_admitReq (s : State) (u : UpReq) : (s.admitReq u).streams =
    (if u.req.write = true ∧ s.inAperture u.req = true then s.judgeHit u.req else s).streams := by
  by_cases hw : u.req.write = true ∧ s.inAperture u.req = true
  · rw [if_pos hw]
    cases hl : (s.guardLanes u.req).any (·.strobe)
    · rw [admitReq_blank hw.1 hw.2 hl]; rfl
    · rw [admitReq_strobed hw.1 hw.2 hl, streams_place]; rfl
  · rw [if_neg hw, admitReq_asIs (by rw [not_and_or] at hw; simpa using hw), streams_place]

theorem stream_judgeHit_ne (s : State) (r : Request) {m : StreamId} (h : m ≠ r.stream) : (s.judgeHit r).stream m = s.stream m := by
  unfold State.judgeHit
  split
  · exact stream_updStream_ne s h _
  · rfl

theorem stream_judgeHit_self (s : State) (r : Request) :
    ((s.judgeHit r).stream r.stream).guardHits =
      (if s.losesByte r then min ((s.stream r.stream).guardHits + 1) 65535 else (s.stream r.stream).guardHits) := by
  unfold State.judgeHit
  split
  · rw [State.guardHit, stream_updStream_self]
    change satSucc _ = _
    unfold satSucc Config.countTop
    omega
  · rfl

theorem uncounted_judgeHit {s : State} (hs : StreamsSettled s) (r : Request) (m : StreamId) :
    (s.judgeHit r).stream m = { s.stream m with guardHits := ((s.judgeHit r).stream m).guardHits } := by
  by_cases h : m = r.stream
  · subst h
    unfold State.judgeHit
    split
    · rw [State.guardHit, stream_updStream_self]
      have := hs r.stream
      rw [settled_eq_iff] at this
      rw [settled_guardHits]
      exact (settled_eq_iff _).2 this
    · rfl
  · rw [stream_judgeHit_ne s r h]

theorem onlyStreams_admitReq (s : State) (u : UpReq) : OnlyStreams s (s.admitReq u) [u.req.stream] := fun m hm => by
  rw [stream_of_streams_eq (streams_admitReq s u)]
  split
  · exact stream_judgeHit_ne s u.req (by simpa using hm)
  · rfl

theorem onlyStreams_trans {r s t : State} {ns : List StreamId} (h : OnlyStreams r s ns) (k : OnlyStreams s t ns) :
    OnlyStreams r t ns := fun m hm => (k m hm).trans (h m hm)

theorem onlyParts_takeUpstream (s : State) (r : Request) : OnlyParts s (s.takeUpstream r) [.upstream, .streams] := by
  rcases takeUpstream_cases s r with h | h | h <;> rw [h]
  · exact (onlyParts_enter s r).andThen (onlyParts_complete _ _ _)
  · exact (onlyParts_enter s r).andThen (onlyParts_holdStartup _ _)
  · exact (onlyParts_enter s r).andThen (onlyParts_admitReq _ _)

theorem onlyStreams_takeUpstream (s : State) (r : Request) : OnlyStreams s (s.takeUpstream r) [r.stream] := by
  rcases takeUpstream_cases s r with h | h | h <;> rw [h]
  · exact onlyStreams_enter s r
  · exact onlyStreams_enter s r
  · exact onlyStreams_trans (onlyStreams_enter s r) (onlyStreams_admitReq _ ⟨s.serial, r⟩)

theorem streamsSettled_enter {s : State} (hs : StreamsSettled s) (r : Request) : StreamsSettled (s.enter r) := fun m => by
  by_cases h : m = r.stream
  · subst h; rw [stream_enter_self hs]; exact settled_idleRestarted (hs _)
  · rw [onlyStreams_enter s r m (by simpa using h)]; exact hs m

/-- Of a settled state the entry of a stream keeps all but its guard hits while its request goes on. -/
theorem uncounted_admitReq {s : State} (hs : StreamsSettled s) (u : UpReq) (m : StreamId) :
    (s.admitReq u).stream m = { s.stream m with guardHits := ((s.admitReq u).stream m).guardHits } := by
  rw [stream_of_streams_eq (streams_admitReq s u)]
  split
  · exact uncounted_judgeHit hs u.req m
  · rfl

theorem takeUpstream_stream {s : State} (hs : StreamsSettled s) (r : Request) : (s.takeUpstream r).stream r.stream =
    { IdleRestarted (s.stream r.stream) with guardHits := ((s.takeUpstream r).stream r.stream).guardHits } := by
  have hent : ∀ t : State, t.streams = (s.enter r).streams → t.stream r.stream =
      { IdleRestarted (s.stream r.stream) with guardHits := (t.stream r.stream).guardHits } := fun t ht => by
    rw [stream_of_streams_eq ht, stream_enter_self hs]
  rcases takeUpstream_cases s r with h | h | h <;> rw [h]
  · exact hent _ rfl
  · exact hent _ rfl
  · have := uncounted_admitReq (streamsSettled_enter hs r) ⟨s.serial, r⟩ r.stream
    rwa [stream_enter_self hs] at this

theorem wf_iff (r : Request) : r.wf = true ↔
    1 ≤ r.words ∧ r.words ≤ 16 ∧ r.lanes.length = if r.write then 8 * r.words else 0 := by
  cases h : r.write <;> simp [Request.wf, h, and_assoc]

theorem accepts_iff (s : State) (r : Request) : s.accepts r = true ↔
    s.inReset = false ∧ r.wf = true ∧ s.path.upSlot = none ∧ s.path.holdFull = false ∧
      (∀ u ∈ s.path.aside, u.req.stream ≠ r.stream) ∧
      (s.loader.part = .starting ∨ s.path.holdList = [] ∨ s.inAperture r = false) := by
  simp [State.accepts, and_assoc, or_assoc]

/-- Settles O14: acceptance, the answer of a crossing burst, and the start-up hold list. -/
theorem requestsAnsweredOrHeldAtOnce : Obligations.RequestsAnsweredOrHeldAtOnce := by
  unfold Obligations.RequestsAnsweredOrHeldAtOnce
  refine ⟨fun r => ⟨?_, wf_iff r⟩, accepts_iff, fun s r => ⟨fun ha => ?_, fun ha hc => ?_, fun ha hc hin hp => ?_, fun ha => ?_⟩⟩
  · exact decide_eq_true_iff
  · refine ⟨_, exec_upstreamRequest ha, onlyParts_takeUpstream s r, onlyStreams_takeUpstream s r, fun hs => ?_⟩
    rw [takeUpstream_stream hs]
    rfl
  · have hstream : ((s.takeUpstream r).stream r.stream) = (s.enter r).stream r.stream := by rw [takeUpstream_crosses hc]; rfl
    refine ⟨_, exec_upstreamRequest ha, takeUpstream_crosses hc, ?_, onlyParts_takeUpstream s r, ?_, ?_, ?_, ?_, ?_,
      onlyStreams_takeUpstream s r, ?_, fun hs => ?_⟩
    · rw [takeUpstream_crosses hc]
      exact answered_complete _ _ _ (entered s r)
    iterate 5 rw [takeUpstream_crosses hc]; rfl
    · rw [hstream, guardHits_enter]
    · rw [hstream, stream_enter_self hs]
  · have hstream : ((s.takeUpstream r).stream r.stream) = (s.enter r).stream r.stream := by rw [takeUpstream_held hc hin hp]; rfl
    refine ⟨_, exec_upstreamRequest ha, ?_, fun hl => ?_, fun hl => ?_, ?_, ?_, ?_, ?_, onlyParts_takeUpstream s r,
      onlyStreams_takeUpstream s r, fun hs => ?_⟩
    · rw [takeUpstream_held hc hin hp]; rfl
    · rw [takeUpstream_held hc hin hp]
      change (s.path.holdFull || decide (32 ≤ s.path.holdList.length + 1)) = true
      simp; omega
    · rw [takeUpstream_held hc hin hp]
      change (s.path.holdFull || decide (32 ≤ s.path.holdList.length + 1)) = _
      simp; omega
    iterate 4 rw [takeUpstream_held hc hin hp]; rfl
    · rw [hstream, stream_enter_self hs]
  · change Host.Outcome.next _ = _
    rw [if_neg (by rw [ha]; decide)]

end Sys2Proof.Machine
end


section
/-! Obligation O15, continued: the bytes a request covers, and requests held aside. -/

namespace Sys2Proof.Machine

/-! ## The strobed bytes of a request -/

theorem mem_strobedCells {x : Nat} {b : Byte} : ∀ {ls : List Lane} {a : Nat}, (x, b) ∈ strobedCells a ls ↔
    ∃ (j : Nat) (l : Lane), ls[j]? = some l ∧ l.strobe = true ∧ x = a + j ∧ b = l.value
  | [], a => by simp [strobedCells]
  | y :: ls, a => by
    have ih := mem_strobedCells (x := x) (b := b) (ls := ls) (a := a + 1)
    have hstep : (∃ (j : Nat) (l : Lane), (y :: ls)[j]? = some l ∧ l.strobe = true ∧ x = a + j ∧ b = l.value) ↔
        (y.strobe = true ∧ x = a ∧ b = y.value) ∨
          ∃ (j : Nat) (l : Lane), ls[j]? = some l ∧ l.strobe = true ∧ x = a + 1 + j ∧ b = l.value := by
      constructor
      · rintro ⟨j, l, hj, hs, hx, hb⟩
        cases j with
        | zero => simp only [List.getElem?_cons_zero, Option.some.injEq] at hj; subst hj; exact .inl ⟨hs, hx, hb⟩
        | succ j => exact .inr ⟨j, l, by simpa using hj, hs, by omega, hb⟩
      · rintro (⟨hs, hx, hb⟩ | ⟨j, l, hj, hs, hx, hb⟩)
        · exact ⟨0, y, rfl, hs, by omega, hb⟩
        · exact ⟨j + 1, l, by simpa using hj, hs, by omega, hb⟩
    rw [hstep, ← ih, strobedCells]
    cases y.strobe <;> simp

/-- A strobed byte of an aperture request on a desk, by its offset within the desk. -/
theorem mem_deskCells {s : State} {n : StreamId} {r : Request} {d : Nat} {b : Byte} (ha : s.inAperture r = true) :
    (d, b) ∈ s.deskCells n r ↔ d < 1024 ∧ ∃ (j : Nat) (l : Lane), r.lanes[j]? = some l ∧ l.strobe = true ∧
      s.base + deskAddr n d = r.start + j ∧ b = l.value := by
  have hb : s.base ≤ r.start := by
    simp only [State.inAperture, Bool.and_eq_true, decide_eq_true_eq] at ha; exact ha.1
  simp only [State.deskCells, List.mem_map, List.mem_filter, State.cells, Prod.exists, mem_strobedCells, Bool.and_eq_true,
    decide_eq_true_eq, Prod.mk.injEq]
  simp only [deskAddr, Config.deskBase, Config.deskSize]
  constructor
  · rintro ⟨x, c, ⟨⟨j, l, hj, hs, hx, hc⟩, h1, h2⟩, h3, rfl⟩
    exact ⟨by omega, j, l, hj, hs, by omega, hc⟩
  · rintro ⟨hd, j, l, hj, hs, hx, rfl⟩
    exact ⟨r.start - s.base + j, l.value, ⟨⟨j, l, hj, hs, rfl, rfl⟩, by omega, by omega⟩, by omega, rfl⟩

/-- The desk bytes of the request that fall in a span of a desk. -/
theorem any_deskCells {s : State} {n : StreamId} {r : Request} (p : Nat → Bool) (ha : s.inAperture r = true) :
    (s.deskCells n r).any (fun c => p c.1) = true ↔ ∃ (d j : Nat) (l : Lane), d < 1024 ∧ p d = true ∧
      r.lanes[j]? = some l ∧ l.strobe = true ∧ s.base + deskAddr n d = r.start + j := by
  rw [List.any_eq_true]
  constructor
  · rintro ⟨⟨d, b⟩, hm, hp⟩
    obtain ⟨hd, j, l, hj, hs, hx, -⟩ := (mem_deskCells ha).1 hm
    exact ⟨d, j, l, hd, hp, hj, hs, hx⟩
  · rintro ⟨d, j, l, hd, hp, hj, hs, hx⟩
    exact ⟨(d, l.value), (mem_deskCells ha).2 ⟨hd, j, l, hj, hs, hx, rfl⟩, hp⟩

theorem coversClose_iff {s : State} {r : Request} (hw : r.write = true) (ha : s.inAperture r = true) :
    s.coversClose r = true ↔ ∃ (j : Nat) (l : Lane), r.lanes[j]? = some l ∧ l.strobe = true ∧
      s.base + deskAddr r.stream 512 = r.start + j := by
  simp only [State.coversClose, hw, Bool.true_and]
  rw [any_deskCells (fun d => decide (d = Config.closeOff)) ha]
  constructor
  · rintro ⟨d, j, l, -, hp, hj, hs, hx⟩
    rw [of_decide_eq_true hp] at hx
    exact ⟨j, l, hj, hs, hx⟩
  · rintro ⟨j, l, hj, hs, hx⟩
    exact ⟨512, j, l, by decide, by decide, hj, hs, hx⟩

theorem coversCancel_iff {s : State} {r : Request} (hw : r.write = true) (ha : s.inAperture r = true) :
    s.coversCancel r = true ↔ ∃ (a j : Nat) (l : Lane), r.lanes[j]? = some l ∧ l.strobe = true ∧
      s.base + a = r.start + j ∧ deskAddr r.stream 520 ≤ a ∧ a < deskAddr r.stream 528 := by
  simp only [State.coversCancel, hw, Bool.true_and]
  rw [any_deskCells (fun d => decide (Config.cancelOff ≤ d) && decide (d < Config.answerOff)) ha]
  simp only [Bool.and_eq_true, decide_eq_true_eq]
  simp only [deskAddr, Config.cancelOff, Config.answerOff]
  constructor
  · rintro ⟨d, j, l, -, hp, hj, hs, hx⟩
    exact ⟨_, j, l, hj, hs, hx, by omega, by omega⟩
  · rintro ⟨a, j, l, hj, hs, hx, h1, h2⟩
    exact ⟨a - Config.deskBase - r.stream.val * Config.deskSize, j, l, by omega, by omega, hj, hs, by omega⟩

/-! ## Requests held aside (R19) -/

theorem closePending_iff (s : State) (u : UpReq) : s.closePending u = true ↔
    ∃ o ∈ s.path.outstanding, o.stream = u.req.stream ∧ o.closes = true ∧ o.tag < u.tag := by
  simp [State.closePending, and_assoc]

theorem closePending_congr {s t : State} {u v : UpReq} (ho : t.path.outstanding = s.path.outstanding) (ht : v.tag = u.tag)
    (hn : v.req.stream = u.req.stream) : t.closePending v = s.closePending u := by
  simp [State.closePending, ho, ht, hn]

/-- Whether the request itself closes does not hold it aside. -/
theorem closePending_markCloses (s : State) (u : UpReq) (r : Request) (hr : r.stream = u.req.stream) :
    (s.markCloses u).closePending { u with req := r } = s.closePending u := by
  have houts : (s.markCloses u).path.outstanding = s.path.outstanding.map (fun o => if o.tag = u.tag then
      { o with closes := s.coversClose (s.guarded u.req) || s.coversCancel (s.guarded u.req) } else o) := by
    unfold State.markCloses State.updOutstanding
    rw [path_judgeHit]
  rw [State.closePending, State.closePending, houts, List.any_map]
  congr 1
  funext o
  by_cases h : o.tag = u.tag <;> simp [h, hr]

theorem place_free {s : State} {u : UpReq} (h : s.closePending u = false) :
    s.place u = { s with path := { s.path with upSlot := some u } } := by simp [State.place, h]

theorem place_behind {s : State} {u : UpReq} (h : s.closePending u = true) :
    s.place u = { s with path := { s.path with aside := s.path.aside ++ [u] } } := by simp [State.place, h]

theorem place_outstanding (s : State) (u : UpReq) : (s.place u).path.outstanding = s.path.outstanding := by
  unfold State.place; split <;> rfl

theorem place_upIssued (s : State) (u : UpReq) : (s.place u).path.upIssued = s.path.upIssued := by
  unfold State.place; split <;> rfl

theorem admitReq_upIssued (s : State) (u : UpReq) : (s.admitReq u).path.upIssued = s.path.upIssued := by
  by_cases hw : u.req.write = true ∧ s.inAperture u.req = true
  · cases hl : (s.guardLanes u.req).any (·.strobe)
    · rw [admitReq_blank hw.1 hw.2 hl]
      change (s.judgeHit u.req).path.upIssued = _
      rw [path_judgeHit]
    · rw [admitReq_strobed hw.1 hw.2 hl, place_upIssued]
      change (s.judgeHit u.req).path.upIssued = _
      rw [path_judgeHit]
  · rw [admitReq_asIs (by rw [not_and_or] at hw; simpa using hw), place_upIssued]

/-- What stays outstanding after a flush stood there before. -/
theorem mem_splitReady_rest {o : Outstanding} : ∀ {os : List Outstanding} {b : List StreamId}, o ∈ (splitReady os b).2 → o ∈ os
  | [], _, h => by simp [splitReady] at h
  | q :: os, b, h => by
    unfold splitReady at h
    split at h
    · split at h
      · rcases List.mem_cons.1 h with rfl | h
        · exact List.mem_cons_self
        · exact List.mem_cons_of_mem _ (mem_splitReady_rest h)
      · exact List.mem_cons_of_mem _ (mem_splitReady_rest h)
    · rcases List.mem_cons.1 h with rfl | h
      · exact List.mem_cons_self
      · exact List.mem_cons_of_mem _ (mem_splitReady_rest h)

/-- What stays outstanding after a completion stood there before, up to its response. -/
theorem mem_complete_outstanding {s : State} {k : Nat} {a : UpAnswer} {o : Outstanding}
    (h : o ∈ (s.complete k a).path.outstanding) : ∃ p ∈ s.path.outstanding, p.tag = o.tag ∧ p.stream = o.stream ∧ p.closes = o.closes := by
  obtain ⟨p, hp, rfl⟩ := List.mem_map.1 (mem_splitReady_rest h)
  refine ⟨p, hp, ?_⟩
  split <;> exact ⟨rfl, rfl, rfl⟩

/-- The lanes of a write that keeps a strobe: the request goes to the slot, or aside, as the Guard left it. -/
theorem admitReq_strobed_spec {s : State} {u : UpReq} (hw : u.req.write = true) (ha : s.inAperture u.req = true)
    (hl : (s.guardLanes u.req).any (·.strobe) = true) :
    (∀ c : Bool, (c = true ↔ ∃ (j a : Nat) (l : Lane), (s.guardLanes u.req)[j]? = some l ∧ l.strobe = true ∧
        s.base + a = u.req.start + j ∧ (a = deskAddr u.req.stream 512 ∨
          (deskAddr u.req.stream 520 ≤ a ∧ a < deskAddr u.req.stream 528))) →
      (s.admitReq u).path.outstanding =
        s.path.outstanding.map (fun o => if o.tag = u.tag then { o with closes := c } else o)) ∧
    (s.closePending u = false → (s.admitReq u).path.upSlot = some { u with req := { u.req with lanes := s.guardLanes u.req } } ∧
      (s.admitReq u).path.aside = s.path.aside) ∧
    (s.closePending u = true → (s.admitReq u).path.upSlot = s.path.upSlot ∧
      (s.admitReq u).path.aside = s.path.aside ++ [{ u with req := { u.req with lanes := s.guardLanes u.req } }]) := by
  have hpath : (s.markCloses u).path.upSlot = s.path.upSlot ∧ (s.markCloses u).path.aside = s.path.aside := by
    unfold State.markCloses State.updOutstanding
    rw [path_judgeHit]
    exact ⟨rfl, rfl⟩
  have hpend := closePending_markCloses s u (s.guarded u.req) rfl
  rw [admitReq_strobed hw ha hl]
  refine ⟨fun c hc => ?_, fun h => ?_, fun h => ?_⟩
  · have hclose : (s.coversClose (s.guarded u.req) || s.coversCancel (s.guarded u.req)) = c := by
      rw [Bool.eq_iff_iff, hc, Bool.or_eq_true, coversClose_iff (r := s.guarded u.req) hw ha,
        coversCancel_iff (r := s.guarded u.req) hw ha]
      constructor
      · rintro (⟨j, l, hj, hs, hx⟩ | ⟨a, j, l, hj, hs, hx, h⟩)
        · exact ⟨j, _, l, hj, hs, hx, .inl rfl⟩
        · exact ⟨j, a, l, hj, hs, hx, .inr h⟩
      · rintro ⟨j, a, l, hj, hs, hx, rfl | h⟩
        · exact .inl ⟨j, l, hj, hs, hx⟩
        · exact .inr ⟨a, j, l, hj, hs, hx, h⟩
    rw [place_outstanding, State.markCloses, hclose, State.updOutstanding, path_judgeHit]
  · rw [place_free (hpend.trans h)]
    exact ⟨rfl, hpath.2⟩
  · rw [place_behind (hpend.trans h)]
    exact ⟨hpath.1, by simp only [hpath.2]; rfl⟩

/-- A write with no strobe left is answered done and holds nothing up. -/
theorem admitReq_blank_spec {s : State} {u : UpReq} (hw : u.req.write = true) (ha : s.inAperture u.req = true)
    (hl : (s.guardLanes u.req).any (·.strobe) = false) : (s.admitReq u).path.upSlot = s.path.upSlot ∧
      (s.admitReq u).path.aside = s.path.aside ∧
      (∀ o ∈ (s.admitReq u).path.outstanding, o.closes = true →
        ∃ p ∈ s.path.outstanding, p.tag = o.tag ∧ p.stream = o.stream ∧ p.closes = true) ∧
      ((∃ o ∈ s.path.outstanding, o.tag = u.tag) → Answered (s.admitReq u) u.tag ⟨true, []⟩) := by
  rw [admitReq_blank hw ha hl]
  refine ⟨?_, ?_, fun o ho hc => ?_, fun h => answered_complete _ _ _ (by rw [path_judgeHit]; exact h)⟩
  · change (s.judgeHit u.req).path.upSlot = _; rw [path_judgeHit]
  · change (s.judgeHit u.req).path.aside = _; rw [path_judgeHit]
  · obtain ⟨p, hp, h1, h2, h3⟩ := mem_complete_outstanding ho
    rw [path_judgeHit] at hp
    exact ⟨p, hp, h1, h2, h3.trans hc⟩

theorem admitReq_guardHits {s : State} {u : UpReq} (hw : u.req.write = true) (ha : s.inAperture u.req = true) :
    ((s.admitReq u).stream u.req.stream).guardHits =
      (if s.losesByte u.req then min ((s.stream u.req.stream).guardHits + 1) 65535
        else (s.stream u.req.stream).guardHits) := by
  rw [stream_of_streams_eq (streams_admitReq s u), if_pos ⟨hw, ha⟩, stream_judgeHit_self]

theorem stream_admitReq_asIs {s : State} {u : UpReq} (h : u.req.write = false ∨ s.inAperture u.req = false) (m : StreamId) :
    (s.admitReq u).stream m = s.stream m := by
  rw [admitReq_asIs h]
  exact stream_of_streams_eq (streams_place s u) m

/-- The entry of an accepted request does not hold it aside. -/
theorem closePending_enter {s : State} {r : Request} (h : NoClosePending s r.stream) :
    (s.enter r).closePending ⟨s.serial, r⟩ = false := by
  rw [Bool.eq_false_iff, ne_eq, closePending_iff]
  rintro ⟨o, ho, hn, hc, hlt⟩
  rcases List.mem_append.1 ho with ho | ho
  · exact absurd (h o ho hn hc) (by simpa using hlt)
  · rw [List.mem_singleton.1 ho] at hc
    exact Bool.false_ne_true hc

/-- The Guard judges with the grade, the part state and the table, none of which a restarted idle timer moves. -/
theorem guardGrade_congr {s t : State} {n : StreamId} (hs : (t.stream n).session = (s.stream n).session)
    (hl : t.loader.inForce = s.loader.inForce) : t.guardGrade n = s.guardGrade n := by
  simp only [State.guardGrade, State.cfg, hs, hl]

theorem verdict_enter (s : State) (r : Request) (n : StreamId) : (s.enter r).verdict n = s.verdict n := by
  have hsession : ((s.enter r).stream n).session = (s.stream n).session := by
    rw [stream_enter, stream_activity]
    split
    next h => rw [h]; rfl
    next => rfl
  have hgrade : (s.enter r).guardGrade n = s.guardGrade n := guardGrade_congr hsession rfl
  funext a
  unfold State.verdict
  rw [hgrade]
  rfl

theorem judged_congr {s t : State} {n : StreamId} (h : t.verdict n = s.verdict n) : ∀ (a : Nat) (ls : List Lane),
    t.judged n a ls = s.judged n a ls
  | _, [] => rfl
  | a, l :: ls => by rw [State.judged, State.judged, h, judged_congr h]

theorem guardLanes_congr {s t : State} {r : Request} (h : t.verdict r.stream = s.verdict r.stream) (hb : t.base = s.base) :
    t.guardLanes r = s.guardLanes r := by
  unfold State.guardLanes
  rw [judged_congr h, hb]

theorem losesByte_congr {s t : State} {r : Request} (h : t.verdict r.stream = s.verdict r.stream) (hb : t.base = s.base) :
    t.losesByte r = s.losesByte r := by
  unfold State.losesByte
  rw [judged_congr h, hb]

theorem guardLanes_enter (s : State) (r q : Request) : (s.enter r).guardLanes q = s.guardLanes q :=
  guardLanes_congr (verdict_enter s r _) rfl

theorem losesByte_enter (s : State) (r q : Request) : (s.enter r).losesByte q = s.losesByte q :=
  losesByte_congr (verdict_enter s r _) rfl

/-- Settles O15: what goes on of an accepted request, from the cases of `admitReq`. -/
theorem acceptedRequestsGoOn : Obligations.AcceptedRequestsGoOn := by
  unfold Obligations.AcceptedRequestsGoOn
  refine ⟨fun s r h hpend => ⟨fun hw ha => ?_, fun hasIs => ?_⟩, fun s r h => ?_, fun s r => ⟨rfl, rfl⟩,
    fun s u => ⟨fun hw ha => ⟨onlyParts_admitReq s u, onlyStreams_admitReq s u, admitReq_guardHits hw ha,
      admitReq_strobed_spec hw ha, admitReq_blank_spec hw ha⟩, fun hasIs => ⟨fun h => ?_, fun h => ?_⟩, closePending_iff s u⟩⟩
  · have heq := takeUpstream_admitted h
    have hfree := closePending_enter hpend
    have hain : (s.enter r).inAperture r = true := ha
    refine ⟨_, exec_upstreamRequest h.1, onlyParts_takeUpstream s r, onlyStreams_takeUpstream s r, ?_, ?_, fun hs => takeUpstream_stream hs r,
      fun hl => ?_, fun hl => ?_⟩
    · rw [heq, admitReq_upIssued]; rfl
    · rw [heq]
      refine (admitReq_guardHits (u := ⟨s.serial, r⟩) hw hain).trans ?_
      rw [losesByte_enter, guardHits_enter]
    · rw [← guardLanes_enter s r] at hl
      rw [heq, ← guardLanes_enter s r]
      exact ((admitReq_strobed_spec (u := ⟨s.serial, r⟩) hw hain hl).2.1 hfree).1
    · rw [← guardLanes_enter s r] at hl
      obtain ⟨hslot, -, -, hans⟩ := admitReq_blank_spec (u := ⟨s.serial, r⟩) hw hain hl
      rw [heq]
      exact ⟨hslot.trans ((accepts_iff s r).1 h.1).2.2.1, hans (entered s r)⟩
  · have heq := takeUpstream_admitted h
    have hin : r.write = false ∨ (s.enter r).inAperture r = false := hasIs
    have hstream := stream_admitReq_asIs (s := s.enter r) (u := ⟨s.serial, r⟩) hin r.stream
    refine ⟨_, exec_upstreamRequest h.1, ?_, ?_, onlyParts_takeUpstream s r, onlyStreams_takeUpstream s r, ?_, fun hs => ?_⟩
    · rw [heq, admitReq_asIs hin, place_free (closePending_enter hpend)]
    · rw [heq, admitReq_upIssued]; rfl
    · rw [heq, hstream, guardHits_enter]
    · rw [heq, hstream, stream_enter_self hs]
  · rw [exec_upstreamRequest h.1, takeUpstream_admitted h]
  · rw [admitReq_asIs hasIs, place_free h]
  · rw [admitReq_asIs hasIs, place_behind h]

end Sys2Proof.Machine
end


section
/-! Obligation O16: the classes of the aperture, and the Guard's table. -/

namespace Sys2Proof.Machine

/-! ## The fields of a record -/

theorem fieldKind_mark_iff (r : Region) (o : Nat) : r.fieldKind o = .mark ↔ o = r.markOff := by
  unfold Region.fieldKind
  by_cases h : o = r.markOff
  · simp [h]
  · rw [if_neg h]
    cases r <;> dsimp only <;> (try split) <;> simp_all

theorem fieldKind_patrons (o : Nat) : Region.patrons.fieldKind o = if o = 81 then .mark else if 84 ≤ o then .guarded else .plain :=
  rfl
theorem fieldKind_cards (o : Nat) : Region.cards.fieldKind o = if o = 5 then .mark else .plain := rfl
theorem fieldKind_titles (o : Nat) : Region.titles.fieldKind o =
    if o = 117 then .mark else if 118 ≤ o ∧ o < 128 then .guarded else .plain := rfl
theorem fieldKind_items (o : Nat) : Region.items.fieldKind o = if o = 7 then .mark else if 8 ≤ o then .guarded else .plain := rfl
theorem fieldKind_holds (o : Nat) : Region.holds.fieldKind o = if o = 2 then .mark else .guarded := rfl

/-! ## The parts of the aperture -/

theorem setupWord_eq (a : Nat) : setupWord a =
    if a < 3840 then .other else if a < 3848 then .calendar else if a < 3856 then .apply else if a < 3864 then .format
    else if a < 3872 then .warmReset else if a < 3880 then .status else .other := rfl

theorem deskPart_eq (d : Nat) : deskPart d =
    if d < 512 then .slot (d / 32) else if d < 520 then .closeWord else if d < 528 then .cancelWord
    else if d < 800 then .answer else if d < 808 then .session else .spare := rfl

theorem classify_eq (t : Option RegionTable) (a : Nat) : classify t a =
    if a < 4096 then .setup (setupWord a) else if a < 8192 then .note else if a < 16384 then .summary
    else if a < 49152 then .desk ⟨(a - 16384) / 1024 % 32, Nat.mod_lt _ (by decide)⟩ (deskPart ((a - 16384) % 1024))
    else match t with
      | none => .spare
      | some u => findRecord u a allRegions := by cases t <;> rfl

theorem classify_setup {t : Option RegionTable} {a : Nat} (h : a < 4096) : classify t a = .setup (setupWord a) := if_pos h

theorem classify_desk (t : Option RegionTable) (n : StreamId) {d : Nat} (hd : d < 1024) :
    classify t (16384 + 1024 * n.val + d) = .desk n (deskPart d) := by
  have hn := n.isLt
  rw [classify_eq, if_neg (by omega), if_neg (by omega), if_neg (by omega), if_pos (by omega)]
  have hdesk : (16384 + 1024 * n.val + d - 16384) / 1024 % 32 = n.val := by omega
  have hin : (16384 + 1024 * n.val + d - 16384) % 1024 = d := by omega
  simp only [hdesk, hin]

theorem classify_table {t : Option RegionTable} {a : Nat} (h : 49152 ≤ a) :
    classify t a = match t with
      | none => .spare
      | some u => findRecord u a allRegions := by
  rw [classify_eq, if_neg (by omega), if_neg (by omega), if_neg (by omega), if_neg (by omega)]

theorem classify_noTable {a : Nat} (h : 49152 ≤ a) : classify none a = .spare := classify_table h

theorem classify_someTable (u : RegionTable) {a : Nat} (h : 49152 ≤ a) : classify (some u) a = findRecord u a allRegions :=
  classify_table h

/-! ## The record an offset falls on -/

theorem inRegion_none {t : RegionTable} {a : Nat} {r : Region}
    (h : a < (t.entry r).offset ∨ (t.entry r).offset + (t.entry r).count * r.size ≤ a) : inRegion t a r = none :=
  if_neg (by omega)

theorem inRegion_at {t : RegionTable} {r : Region} {k o : Nat} (hk : k < (t.entry r).count) (ho : o < r.size) :
    inRegion t ((t.entry r).offset + k * r.size + o) r = some (k, o) := by
  have hpos : 0 < r.size := by omega
  have hle : (k + 1) * r.size ≤ (t.entry r).count * r.size := Nat.mul_le_mul_right _ hk
  have hsub : (t.entry r).offset + k * r.size + o - (t.entry r).offset = o + r.size * k := by rw [Nat.mul_comm]; omega
  rw [Nat.add_mul] at hle
  unfold inRegion
  rw [if_pos (by omega), hsub, Nat.add_mul_div_left _ _ hpos, Nat.add_mul_mod_self_left, Nat.div_eq_of_lt ho,
    Nat.mod_eq_of_lt ho, Nat.zero_add]

theorem findRecord_spare {t : RegionTable} {a : Nat} : ∀ {l : List Region}, (∀ r ∈ l, inRegion t a r = none) →
    findRecord t a l = .spare
  | [], _ => rfl
  | r :: l, h => by
    rw [findRecord, h r List.mem_cons_self]
    exact findRecord_spare (fun q hq => h q (List.mem_cons_of_mem _ hq))

theorem findRecord_of_only {t : RegionTable} {a k o : Nat} {r : Region} (hr : inRegion t a r = some (k, o))
    (hother : ∀ q, q ≠ r → inRegion t a q = none) : ∀ {l : List Region}, r ∈ l → findRecord t a l = .record r k o
  | q :: l, h => by
    by_cases e : q = r
    · rw [findRecord, e, hr]
    · rw [findRecord, hother q e]
      exact findRecord_of_only hr hother (by simpa [Ne.symm e] using h)

theorem mem_allRegions (r : Region) : r ∈ allRegions := by cases r <;> decide

/-- In a table validation accepts, a byte of one region is in no other. -/
theorem inRegion_apart {t : RegionTable} (ht : TableFits t) {r q : Region} (hq : q ≠ r) {k o : Nat}
    (hk : k < (t.entry r).count) (ho : o < r.size) : inRegion t ((t.entry r).offset + k * r.size + o) q = none := by
  have hle : (k + 1) * r.size ≤ (t.entry r).count * r.size := Nat.mul_le_mul_right _ hk
  rw [Nat.add_mul] at hle
  have hcode : r.code < q.code ∨ q.code < r.code := by
    revert hq; cases r <;> cases q <;> decide
  refine inRegion_none ?_
  rcases hcode with hc | hc
  · rcases ht.2 r q hc with h | h
    · exact .inl (by omega)
    · exact .inr (by omega)
  · rcases ht.2 q r hc with h | h
    · exact .inr (by omega)
    · exact .inl (by omega)

/-! ## The lanes the Guard leaves -/

theorem judged_getElem? (s : State) (n : StreamId) : ∀ (ls : List Lane) (a j : Nat),
    (s.judged n a ls)[j]? = ls[j]?.map (fun l => (l, s.verdict n (a + j)))
  | [], _, _ => by simp [State.judged]
  | l :: ls, a, 0 => by simp [State.judged]
  | l :: ls, a, j + 1 => by
    rw [State.judged, List.getElem?_cons_succ, List.getElem?_cons_succ, judged_getElem? s n ls (a + 1) j,
      show a + 1 + j = a + (j + 1) by omega]

theorem mem_passedRecords {x : Region × Nat} : ∀ {js : List (Lane × Verdict)}, x ∈ passedRecords js ↔
    ∃ l : Lane, (l, Verdict.pass (some x)) ∈ js ∧ l.strobe = true
  | [] => by simp [passedRecords]
  | (l, v) :: js => by
    have ih := mem_passedRecords (x := x) (js := js)
    rcases v with (- | y) | - | ⟨r, k⟩ <;>
      simp only [passedRecords, List.mem_cons, Prod.mk.injEq, reduceCtorEq, and_false,
      false_or, Verdict.pass.injEq, Option.some.injEq]
    case pass.some =>
      cases hl : l.strobe
      · simp only [Bool.false_eq_true, if_false, ih]
        refine exists_congr fun m => ⟨fun ⟨h, hs⟩ => ⟨.inr h, hs⟩, fun ⟨h, hs⟩ => ⟨h.resolve_left fun ⟨e, _⟩ => ?_, hs⟩⟩
        rw [e, hl] at hs
        exact Bool.false_ne_true hs
      · simp only [if_true, List.mem_cons, ih]
        constructor
        · rintro (rfl | ⟨m, hm, hs⟩)
          · exact ⟨l, .inl ⟨rfl, rfl⟩, hl⟩
          · exact ⟨m, .inr hm, hs⟩
        · rintro ⟨m, ⟨-, e⟩ | hm, hs⟩
          · exact .inl e
          · exact .inr ⟨m, hm, hs⟩
    all_goals exact ih

/-- A lane judged, by its place among the lanes. -/
theorem mem_judged {s : State} {n : StreamId} {a : Nat} {ls : List Lane} {l : Lane} {v : Verdict} :
    (l, v) ∈ s.judged n a ls ↔ ∃ j : Nat, ls[j]? = some l ∧ s.verdict n (a + j) = v := by
  rw [List.mem_iff_getElem?]
  refine exists_congr fun j => ?_
  rw [judged_getElem?]
  cases ls[j]? with
  | none => simp
  | some m => simp only [Option.map_some, Option.some.injEq, Prod.mk.injEq]

theorem guardLanes_getElem? {s : State} {r : Request} {j : Nat} {l : Lane} (hj : r.lanes[j]? = some l) :
    (s.guardLanes r)[j]? = some (guardedLane (passedRecords (s.judged r.stream (r.start - s.base) r.lanes))
      (l, s.verdict r.stream (r.start - s.base + j))) := by
  simp only [State.guardLanes, List.getElem?_map, judged_getElem?, hj, Option.map_some]

/-- A byte of the record passes. -/
theorem passed_iff {s : State} {r : Request} {x : Region × Nat} :
    x ∈ passedRecords (s.judged r.stream (r.start - s.base) r.lanes) ↔ ∃ (i : Nat) (l : Lane), r.lanes[i]? = some l ∧
      l.strobe = true ∧ s.verdict r.stream (r.start - s.base + i) = .pass (some x) := by
  rw [mem_passedRecords]
  simp only [mem_judged]
  constructor
  · rintro ⟨l, ⟨i, hi, hv⟩, hs⟩; exact ⟨i, l, hi, hs, hv⟩
  · rintro ⟨i, l, hi, hs, hv⟩; exact ⟨l, ⟨i, hi, hv⟩, hs⟩

theorem losesByte_iff (s : State) (r : Request) : s.losesByte r = true ↔ ∃ (j : Nat) (l : Lane), r.lanes[j]? = some l ∧
    l.strobe = true ∧ s.verdict r.stream (r.start - s.base + j) = .lost := by
  rw [State.losesByte, List.any_eq_true]
  constructor
  · rintro ⟨⟨l, v⟩, hm, hp⟩
    obtain ⟨j, hj, rfl⟩ := mem_judged.1 hm
    simp only [Bool.and_eq_true, decide_eq_true_eq] at hp
    exact ⟨j, l, hj, hp⟩
  · rintro ⟨j, l, hj, hs, hv⟩
    exact ⟨(l, _), mem_judged.2 ⟨j, hj, rfl⟩, by simp [hs, hv]⟩

/-! ## The verdict, by class -/

theorem verdict_setup {s : State} {n : StreamId} {a : Nat} {w : SetupWord} (h : classify s.regions a = .setup w)
    (hw : w ≠ .status) :
    s.verdict n a = if s.loader.part = .unset ∨ s.guardGrade n = some .supervisor then .pass none else .lost := by
  cases w <;> first | exact absurd rfl hw | simp only [State.verdict, h]

theorem verdict_desk {s : State} {n m : StreamId} {a : Nat} {p : DeskPart} (h : classify s.regions a = .desk m p) :
    s.verdict n a = if s.loader.part = .unset ∨ m ≠ n then .lost else deskVerdict p := by
  simp only [State.verdict, h]

theorem verdict_record_lost {s : State} {n : StreamId} {a k o : Nat} {r : Region} (h : classify s.regions a = .record r k o)
    (hp : s.loader.part = .unset ∨ s.loader.part = .formatting) : s.verdict n a = .lost := by
  simp only [State.verdict, h, if_pos hp]

theorem verdict_record {s : State} {n : StreamId} {a k o : Nat} {r : Region} (h : classify s.regions a = .record r k o)
    (h1 : s.loader.part ≠ .unset) (h2 : s.loader.part ≠ .formatting) :
    (r.fieldKind o = .guarded → s.verdict n a = .lost) ∧ (r.fieldKind o = .mark → s.verdict n a = .mark r k) ∧
      (r.fieldKind o = .plain → s.verdict n a =
        if s.guardGrade n = some .desk ∨ s.guardGrade n = some .supervisor then .pass (some (r, k)) else .lost) := by
  refine ⟨fun hk => ?_, fun hk => ?_, fun hk => ?_⟩ <;> simp only [State.verdict, h, hk, h1, h2, or_self, if_false]

/-- Settles O16: the Guard's table, from the class of each byte and the verdict of its class. -/
theorem guardTable : Obligations.GuardTable := by
  unfold Obligations.GuardTable
  refine ⟨fun s n => ⟨?_, fun h1 h2 => ?_⟩, fun o => ?_, fun t a => ⟨fun h => ?_, fun h1 h2 => ?_, fun h1 h2 => ?_, fun h1 h2 => ?_,
    fun h1 h2 => ?_, fun h1 h2 => ?_, fun h1 h2 => ?_, fun h1 h2 => ?_, fun n d hd => ?_, fun h ht => ?_, fun u h ht => ?_⟩,
    fun s n a => ⟨fun w h hw => verdict_setup h hw, ?_, fun m p h => ?_, fun r k o h => ⟨verdict_record_lost h, verdict_record h⟩⟩,
    fun s r j l hj => ⟨fun v hv => ?_, fun hv => ?_, fun q k hv => ⟨fun hpass => ?_, fun hnone => ?_⟩⟩, losesByte_iff⟩
  · rintro (h | h) <;> simp only [State.guardGrade, h]
  · unfold State.guardGrade
    cases h : (s.stream n).session <;> simp_all
  · refine ⟨fieldKind_mark_iff _ _, ?_, fieldKind_mark_iff _ _, ?_, fieldKind_mark_iff _ _, ?_, fieldKind_mark_iff _ _, ?_,
      fieldKind_mark_iff _ _, ?_⟩
    · rw [fieldKind_patrons]; split_ifs <;> simp <;> omega
    · rw [fieldKind_cards]; split_ifs <;> simp
    · rw [fieldKind_titles]; split_ifs <;> simp <;> omega
    · rw [fieldKind_items]; split_ifs <;> simp <;> omega
    · rw [fieldKind_holds]; split_ifs <;> simp <;> omega
  iterate 6
    rw [classify_setup (by omega), setupWord_eq]
    split_ifs <;> first | rfl | omega
  · rw [classify_eq, if_neg (by omega), if_pos h2]
  · rw [classify_eq, if_neg (by omega), if_neg (by omega), if_pos h2]
  · have hpart : d < 1024 → classify t a = .desk n (deskPart d) := fun h => hd ▸ classify_desk t n h
    refine ⟨fun h => ?_, fun h1 h2 => ?_, fun h1 h2 => ?_, fun h1 h2 => ?_, fun h1 h2 => ?_, fun h1 h2 => ?_⟩ <;>
      (rw [hpart (by omega), deskPart_eq]
       split_ifs <;> first | rfl | omega)
  · rw [ht, classify_noTable h]
  · subst ht
    rw [classify_someTable u h]
    refine ⟨fun hout => findRecord_spare (fun r _ => inRegion_none (hout r)), fun hfits r k o hk ho ha => ?_⟩
    rw [ha]
    exact findRecord_of_only (inRegion_at hk ho) (fun q hq => inRegion_apart hfits hq hk ho) (mem_allRegions r)
  · rintro (h | h | h | h) <;> simp only [State.verdict, h]
  · rw [verdict_desk h]
    refine ⟨fun hp hm hpart => ?_, fun hp => ?_⟩
    · rw [if_neg (by simp [hp, hm])]
      rcases hpart with ⟨k, rfl⟩ | rfl | rfl <;> rfl
    · rcases hp with hp | hp | rfl | rfl | rfl
      · rw [if_pos (.inl hp)]
      · rw [if_pos (.inr hp)]
      all_goals exact ite_self _
  · rw [guardLanes_getElem? hj, hv]; rfl
  · rw [guardLanes_getElem? hj, hv]; rfl
  · rw [guardLanes_getElem? hj, hv, guardedLane, if_pos (passed_iff.2 hpass)]
  · rw [guardLanes_getElem? hj, hv, guardedLane, if_neg]
    rw [passed_iff]
    rintro ⟨i, x, hi, hs, hpass⟩
    exact hnone i x hi hs hpass

end Sys2Proof.Machine
end


section
/-! Obligation O17: the downstream port, and what waits for the upstream slot. -/

namespace Sys2Proof.Machine

/-! ## A request issued (R17) -/

theorem grant_upstream {s : State} {u : UpReq} (hu : s.path.upSlot = some u)
    (h : s.path.ownSlot = none ∨ s.path.lastGranted = .own) : s.grant = s.issueUp u := by
  unfold State.grant
  rw [hu]
  rcases h with h | h
  · rw [h]
  · cases s.path.ownSlot with
    | none => rfl
    | some q => exact if_pos h

theorem grant_own {s : State} {q : OwnReq} (hq : s.path.ownSlot = some q)
    (h : s.path.upSlot = none ∨ s.path.lastGranted = .upstream) : s.grant = s.issueOwn q := by
  unfold State.grant
  rw [hq]
  rcases h with h | h
  · rw [h]
  · cases s.path.upSlot with
    | none => rfl
    | some u => exact if_neg (by rw [h]; decide)

theorem onlyParts_issueUp (s : State) (u : UpReq) : OnlyParts s (s.issueUp u) [.upstream, .issued] := by
  intro p hp; cases p <;> simp [Unchanged, State.issueUp] at hp ⊢

theorem onlyParts_issueOwn (s : State) (q : OwnReq) : OnlyParts s (s.issueOwn q) [.issued, .raised] := by
  intro p hp; cases p <;> simp [Unchanged, State.issueOwn] at hp ⊢

theorem refillOwn_take {s : State} {p : OwnReq} {ps : List OwnReq} (h : s.path.ownSlot = none) (hr : s.path.raised = p :: ps) :
    s.refillOwn = { s with path := { s.path with ownSlot := some p, raised := ps } } := by simp [State.refillOwn, h, hr]

theorem refillOwn_none {s : State} (hr : s.path.raised = []) : s.refillOwn = s := by
  unfold State.refillOwn; rw [hr]; cases s.path.ownSlot <;> rfl

/-- The refill of the own slot leaves all of the path but the slot and the requests raised. -/
theorem path_refillOwn (s : State) : s.refillOwn.path.upSlot = s.path.upSlot ∧ s.refillOwn.path.upIssued = s.path.upIssued ∧
    s.refillOwn.path.ownIssued = s.path.ownIssued ∧ s.refillOwn.path.lastGranted = s.path.lastGranted := by
  unfold State.refillOwn; split <;> exact ⟨rfl, rfl, rfl, rfl⟩

theorem exec_arbiterGrant {s : State} (h : s.inReset = false) : exec .arbiterGrant s = .next s.grant.refillOwn.drain := by
  change Host.Outcome.next (s.live _) = _
  rw [live_eq h]

/-! ## Going on leaves the responses given -/

theorem Answered.flush {s : State} {k : Nat} {a : UpAnswer} (h : Answered s k a) : Answered s.flush k a := by
  rcases h with ⟨x, hx, hk, ha⟩ | ⟨o, ho, rfl, ha, -⟩
  · exact .inl ⟨x, List.mem_append_left _ hx, hk, ha⟩
  · exact answered_flush s o a ho ha

theorem Answered.of_path {s t : State} {k : Nat} {a : UpAnswer} (h : Answered s k a)
    (ho : t.path.outstanding = s.path.outstanding) (hr : t.path.returned = s.path.returned) : Answered t k a := by
  unfold Answered
  rw [ho, hr]
  exact h

/-- The entry of another request, changed in what no response turns on. -/
theorem Answered.updOutstanding {s : State} {k j : Nat} {a : UpAnswer} {f : Outstanding → Outstanding} (h : Answered s k a)
    (hj : j ≠ k) (htag : ∀ o, (f o).tag = o.tag) (hstream : ∀ o, (f o).stream = o.stream) (hans : ∀ o, (f o).answer = o.answer) :
    Answered (s.updOutstanding j f) k a := by
  rcases h with h | ⟨o, ho, hk, ha, p, hp, hn, hpa⟩
  · exact .inl h
  · have hself : ∀ q : Outstanding, (if q.tag = j then f q else q) = o ↔ q = o := fun q => by
      split
      next hq => exact ⟨fun e => absurd (by rw [← hq, ← htag q, e, hk]) hj, fun e => absurd (by rw [← hq, e, hk]) hj⟩
      next => rfl
    refine .inr ⟨o, List.mem_map.2 ⟨o, ho, (hself o).2 rfl⟩, hk, ha, if p.tag = j then f p else p, ?_, ?_, ?_⟩
    · change _ ∈ List.takeWhile _ (s.path.outstanding.map _)
      rw [List.takeWhile_map]
      refine List.mem_map.2 ⟨p, ?_, rfl⟩
      have hfun : (fun q : Outstanding => decide (q ≠ o)) =
          (fun q => decide (q ≠ o)) ∘ fun q => if q.tag = j then f q else q := by
        funext q
        exact decide_eq_decide.2 (not_congr (hself q)).symm
      rw [← hfun]
      exact hp
    · split
      · rw [hstream, hn]
      · exact hn
    · split
      · rw [hans, hpa]
      · exact hpa

theorem Answered.complete {s : State} {k j : Nat} {a b : UpAnswer} (h : Answered s k a) (hj : j ≠ k) :
    Answered (s.complete j b) k a := by
  rcases h with ⟨x, hx, hk, ha⟩ | ⟨o, ho, hk, ha, -⟩
  · exact .inl ⟨x, List.mem_append_left _ hx, hk, ha⟩
  · rw [← hk]
    refine answered_flush _ o a (List.mem_map.2 ⟨o, ho, if_neg ?_⟩) ha
    rw [hk]; exact fun e => hj e.symm

theorem Answered.place {s : State} {k : Nat} {a : UpAnswer} (h : Answered s k a) (u : UpReq) : Answered (s.place u) k a := by
  unfold State.place
  split <;> exact h

theorem Answered.admitReq {s : State} {k : Nat} {a : UpAnswer} {u : UpReq} (h : Answered s k a) (hu : u.tag ≠ k) :
    Answered (s.admitReq u) k a := by
  have hjudge : Answered (s.judgeHit u.req) k a := h.of_path (by rw [path_judgeHit]) (by rw [path_judgeHit])
  by_cases hw : u.req.write = true ∧ s.inAperture u.req = true
  · cases hl : (s.guardLanes u.req).any (·.strobe)
    · rw [admitReq_blank hw.1 hw.2 hl]
      exact hjudge.complete hu
    · rw [admitReq_strobed hw.1 hw.2 hl]
      refine Answered.place ?_ _
      exact hjudge.updOutstanding hu (fun _ => rfl) (fun _ => rfl) (fun _ => rfl)
  · rw [admitReq_asIs (by rw [not_and_or] at hw; simpa using hw)]
    exact h.place u

theorem Answered.drainHold {k : Nat} {a : UpAnswer} : ∀ {l : List UpReq} {s : State}, Answered s k a → (∀ u ∈ l, u.tag ≠ k) →
    Answered (drainHold l s).1 k a
  | [], _, h, _ => h
  | u :: l, s, h, hl => by
    unfold Machine.drainHold
    split
    · exact h
    · exact (h.admitReq (hl u List.mem_cons_self)).drainHold (fun v hv => hl v (List.mem_cons_of_mem _ hv))

/-! ## What waits for the upstream slot -/

theorem releaseAside_path (s : State) : s.releaseAside.path.holdList = s.path.holdList ∧
    s.releaseAside.path.upIssued = s.path.upIssued ∧ s.releaseAside.path.outstanding = s.path.outstanding ∧
    s.releaseAside.path.returned = s.path.returned := by
  unfold State.releaseAside; split <;> exact ⟨rfl, rfl, rfl, rfl⟩

theorem releaseAside_taken {s : State} {u : UpReq} (h : s.path.upSlot = some u) : s.releaseAside = s := by
  unfold State.releaseAside; rw [h]

theorem releaseAside_pending {s : State} (h : ∀ v ∈ s.path.aside, s.closePending v = true) : s.releaseAside = s := by
  unfold State.releaseAside
  rw [show s.path.aside.find? (fun u => !s.closePending u) = none from
    List.find?_eq_none.2 (fun v hv => by simp [h v hv])]
  split <;> simp_all

theorem releaseAside_released {s : State} {u : UpReq} (h : s.path.upSlot = none)
    (hu : s.path.aside.find? (fun v => !s.closePending v) = some u) : s.releaseAside =
      { s with path := { s.path with
        upSlot := some u
        aside := s.path.aside.filter (fun v => decide (v.tag ≠ u.tag)) } } := by
  unfold State.releaseAside; rw [h, hu]

theorem drainHold_upIssued : ∀ (l : List UpReq) (s : State), (drainHold l s).1.path.upIssued = s.path.upIssued
  | [], _ => rfl
  | u :: l, s => by
    unfold drainHold
    split
    · rfl
    · rw [drainHold_upIssued, admitReq_upIssued]

/-- The hold list waits while the slot is taken. -/
theorem drainHold_taken {s : State} {u : UpReq} (h : s.path.upSlot = some u) (l : List UpReq) : drainHold l s = (s, l) := by
  cases l with
  | nil => rfl
  | cons v l => rw [drainHold, if_pos (by simp [h])]

theorem drain_starting {s : State} (h : s.loader.part = .starting) : s.drain = s.releaseAside := by
  have hl : s.releaseAside.loader.part = .starting := by rw [← h]; unfold State.releaseAside; split <;> rfl
  unfold State.drain
  exact if_pos hl

/-- The rest of the hold list, and whether the list still counts as full. -/
def State.withHoldList (s : State) (l : List UpReq) : State :=
  { s with path := { s.path with holdList := l, holdFull := s.path.holdFull && !l.isEmpty } }

theorem drain_on {s : State} (h : s.loader.part ≠ .starting) : s.drain =
    (drainHold s.releaseAside.path.holdList s.releaseAside).1.withHoldList
      (drainHold s.releaseAside.path.holdList s.releaseAside).2 := by
  have hl : s.releaseAside.loader.part ≠ .starting := by
    rw [onlyParts_releaseAside s .loader (by decide)]; exact h
  unfold State.drain
  exact if_neg hl

/-- With the slot taken nothing of the hold list moves. -/
theorem drain_taken_path {s : State} {u : UpReq} (h : s.releaseAside.path.upSlot = some u) :
    s.drain.path.upSlot = some u ∧ s.drain.path.aside = s.releaseAside.path.aside ∧ s.drain.path.holdList = s.path.holdList := by
  have hlist := (releaseAside_path s).1
  by_cases hp : s.loader.part = .starting
  · rw [drain_starting hp]; exact ⟨h, rfl, hlist⟩
  · rw [drain_on hp, drainHold_taken h]; exact ⟨h, rfl, hlist⟩

theorem drain_upIssued (s : State) : s.drain.path.upIssued = s.path.upIssued := by
  by_cases hp : s.loader.part = .starting
  · rw [drain_starting hp, (releaseAside_path s).2.1]
  · rw [drain_on hp]
    exact (drainHold_upIssued _ _).trans (releaseAside_path s).2.1

theorem Answered.drain {s : State} {k : Nat} {a : UpAnswer} (h : Answered s k a) (hl : ∀ u ∈ s.path.holdList, u.tag ≠ k) :
    Answered s.drain k a := by
  obtain ⟨hlist, -, hout, hret⟩ := releaseAside_path s
  by_cases hp : s.loader.part = .starting
  · rw [drain_starting hp]; exact h.of_path hout hret
  · rw [drain_on hp]
    have hd := (h.of_path hout hret).drainHold (l := s.releaseAside.path.holdList) (by rw [hlist]; exact hl)
    exact hd.of_path rfl rfl

/-! ### What the streams show while requests go on -/

theorem stream_admitReq_shown (s : State) (u : UpReq) (n : StreamId) :
    ((s.admitReq u).stream n).session = (s.stream n).session ∧ ((s.admitReq u).stream n).batch = (s.stream n).batch ∧
      ((s.admitReq u).stream n).answer = (s.stream n).answer := by
  have hjudge : ∀ m, ((s.judgeHit u.req).stream m).session = (s.stream m).session ∧
      ((s.judgeHit u.req).stream m).batch = (s.stream m).batch ∧ ((s.judgeHit u.req).stream m).answer = (s.stream m).answer := fun m => by
    by_cases h : m = u.req.stream
    · subst h
      unfold State.judgeHit
      split
      · rw [State.guardHit, stream_updStream_self]; exact ⟨rfl, rfl, rfl⟩
      · exact ⟨rfl, rfl, rfl⟩
    · rw [stream_judgeHit_ne s _ h]; exact ⟨rfl, rfl, rfl⟩
  rw [stream_of_streams_eq (streams_admitReq s u)]
  split
  · exact hjudge n
  · exact ⟨rfl, rfl, rfl⟩

theorem stream_drainHold_shown (n : StreamId) : ∀ (l : List UpReq) (s : State),
    ((drainHold l s).1.stream n).session = (s.stream n).session ∧ ((drainHold l s).1.stream n).batch = (s.stream n).batch ∧
      ((drainHold l s).1.stream n).answer = (s.stream n).answer
  | [], _ => ⟨rfl, rfl, rfl⟩
  | u :: l, s => by
    unfold drainHold
    split
    · exact ⟨rfl, rfl, rfl⟩
    · obtain ⟨h1, h2, h3⟩ := stream_drainHold_shown n l (s.admitReq u)
      obtain ⟨k1, k2, k3⟩ := stream_admitReq_shown s u n
      exact ⟨h1.trans k1, h2.trans k2, h3.trans k3⟩

theorem stream_drain_shown (s : State) (n : StreamId) : (s.drain.stream n).session = (s.stream n).session ∧
    (s.drain.stream n).batch = (s.stream n).batch ∧ (s.drain.stream n).answer = (s.stream n).answer := by
  have haside : s.releaseAside.stream n = s.stream n :=
    stream_of_streams_eq (onlyParts_releaseAside s .streams (by decide)) n
  by_cases hp : s.loader.part = .starting
  · rw [drain_starting hp, haside]; exact ⟨rfl, rfl, rfl⟩
  · rw [drain_on hp]
    have := stream_drainHold_shown n s.releaseAside.path.holdList s.releaseAside
    rwa [haside] at this

/-! ### The hold list in its order -/

/-- The state with this hold list. -/
def State.putHoldList (s : State) (l : List UpReq) : State := { s with path := { s.path with holdList := l } }

theorem place_putHoldList (s : State) (l : List UpReq) (u : UpReq) : (s.putHoldList l).place u = (s.place u).putHoldList l := by
  have hpend : (s.putHoldList l).closePending u = s.closePending u := rfl
  cases h : s.closePending u
  · rw [place_free h, place_free (hpend.trans h)]; rfl
  · rw [place_behind h, place_behind (hpend.trans h)]; rfl

theorem verdict_putHoldList (s : State) (l : List UpReq) (n : StreamId) : (s.putHoldList l).verdict n = s.verdict n := rfl

theorem guardLanes_putHoldList (s : State) (l : List UpReq) (r : Request) : (s.putHoldList l).guardLanes r = s.guardLanes r :=
  guardLanes_congr (verdict_putHoldList s l _) rfl

theorem judgeHit_putHoldList (s : State) (l : List UpReq) (r : Request) :
    (s.putHoldList l).judgeHit r = (s.judgeHit r).putHoldList l := by
  have hlose : (s.putHoldList l).losesByte r = s.losesByte r := losesByte_congr (verdict_putHoldList s l _) rfl
  unfold State.judgeHit
  rw [hlose]
  split <;> rfl

theorem markCloses_putHoldList (s : State) (l : List UpReq) (u : UpReq) :
    (s.putHoldList l).markCloses u = (s.markCloses u).putHoldList l := by
  have hguard : (s.putHoldList l).guarded u.req = s.guarded u.req := by
    unfold State.guarded; rw [guardLanes_putHoldList]
  unfold State.markCloses
  rw [judgeHit_putHoldList, hguard]
  rfl

/-- A request that goes on does not look at the hold list. -/
theorem admitReq_putHoldList (s : State) (l : List UpReq) (u : UpReq) :
    (s.putHoldList l).admitReq u = (s.admitReq u).putHoldList l := by
  have hlanes := guardLanes_putHoldList s l u.req
  by_cases hw : u.req.write = true ∧ s.inAperture u.req = true
  · cases hl : (s.guardLanes u.req).any (·.strobe)
    · rw [admitReq_blank hw.1 hw.2 hl, admitReq_blank (s := s.putHoldList l) hw.1 hw.2 (by rw [hlanes, hl]),
        judgeHit_putHoldList]
      rfl
    · rw [admitReq_strobed hw.1 hw.2 hl, admitReq_strobed (s := s.putHoldList l) hw.1 hw.2 (by rw [hlanes, hl]),
        ← place_putHoldList, markCloses_putHoldList, State.guarded, hlanes]
      rfl
  · have h : u.req.write = false ∨ s.inAperture u.req = false := by rw [not_and_or] at hw; simpa using hw
    rw [admitReq_asIs h, admitReq_asIs (s := s.putHoldList l) h, place_putHoldList]

theorem drainHold_putHoldList (x : List UpReq) : ∀ (l : List UpReq) (s : State),
    drainHold l (s.putHoldList x) = ((drainHold l s).1.putHoldList x, (drainHold l s).2)
  | [], _ => rfl
  | u :: l, s => by
    by_cases h : (s.path.upSlot.isSome || s.path.aside.any (fun v => decide (v.req.stream = u.req.stream))) = true
    · rw [drainHold, drainHold, if_pos h]
      exact if_pos h
    · rw [drainHold, drainHold, if_neg h, ← drainHold_putHoldList x l, ← admitReq_putHoldList]
      exact if_neg h

/-- With the slot empty and nothing aside free to go, what goes on are the requests of the hold list. -/
theorem drain_of_pending {s : State} (ha : ∀ v ∈ s.path.aside, s.closePending v = true) (hp : s.loader.part ≠ .starting) :
    s.drain = (drainHold s.path.holdList s).1.withHoldList (drainHold s.path.holdList s).2 := by
  rw [drain_on hp, releaseAside_pending ha]

theorem drain_behind {s : State} (ha : ∀ v ∈ s.path.aside, s.closePending v = true) (hp : s.loader.part ≠ .starting)
    {u : UpReq} {us : List UpReq} (hl : s.path.holdList = u :: us) (hb : ∃ v ∈ s.path.aside, v.req.stream = u.req.stream) :
    s.drain = s := by
  obtain ⟨v, hv, hn⟩ := hb
  have hstop : (s.path.upSlot.isSome || s.path.aside.any (fun v => decide (v.req.stream = u.req.stream))) = true := by
    rw [Bool.or_eq_true, List.any_eq_true]
    exact .inr ⟨v, hv, decide_eq_true hn⟩
  rw [drain_of_pending ha hp, hl, drainHold, if_pos hstop, State.withHoldList, ← hl, show (!s.path.holdList.isEmpty) = true by
    rw [hl]; rfl, Bool.and_true]

theorem drain_next {s : State} (hslot : s.path.upSlot = none) (ha : ∀ v ∈ s.path.aside, s.closePending v = true)
    (hp : s.loader.part ≠ .starting) {u : UpReq} {us : List UpReq} (hl : s.path.holdList = u :: us)
    (hb : ∀ x ∈ s.path.aside, x.req.stream ≠ u.req.stream)
    (hv : ∀ x ∈ (s.admitReq u).path.aside, (s.admitReq u).closePending x = true) :
    s.drain = ((s.admitReq u).putHoldList us).drain := by
  have hgo : ¬ (s.path.upSlot.isSome || s.path.aside.any (fun v => decide (v.req.stream = u.req.stream))) = true := by
    rw [hslot]
    simpa using hb
  have hpart : ((s.admitReq u).putHoldList us).loader.part ≠ .starting := by
    change (s.admitReq u).loader.part ≠ _
    rw [onlyParts_admitReq s u .loader (by decide)]; exact hp
  rw [drain_of_pending ha hp, drain_of_pending (s := (s.admitReq u).putHoldList us) hv hpart, hl, drainHold, if_neg hgo]
  change _ = (drainHold us ((s.admitReq u).putHoldList us)).1.withHoldList (drainHold us ((s.admitReq u).putHoldList us)).2
  rw [drainHold_putHoldList]
  rfl

/-- Settles O17: the grant by its two cases, and the drain by what stands at the slot. -/
theorem arbiterAlternates : Obligations.ArbiterAlternates := by
  unfold Obligations.ArbiterAlternates
  refine ⟨fun s hr => ⟨fun u hu h => ?_, fun q hq h => ?_⟩, fun n d g => ⟨fun hg => ?_, fun hg => ?_, fun hg => ?_⟩,
    fun s => ⟨onlyParts_drain s, drain_upIssued s, fun k a hl h => h.drain hl, stream_drain_shown s, fun u hu => ?_,
      fun u hn hu => ?_, fun hn ha => ⟨fun hp => ?_, fun hp => ⟨fun hl => ?_, fun u us hl =>
        ⟨drain_behind ha hp hl, fun v hb hv hpend => ?_⟩⟩⟩⟩⟩
  · obtain ⟨hslot, hup, hown, hgr⟩ := path_refillOwn (s.issueUp u)
    refine ⟨_, _, by rw [exec_arbiterGrant hr, grant_upstream hu h], hup, rfl, rfl, rfl, ?_, fun hw => ?_, hslot, hown, hgr,
      (onlyParts_issueUp s u).trans (onlyParts_refillOwn _) (by decide) (by decide)⟩
    · simp [List.any_eq_true]
    · simp [hw]
  · obtain ⟨-, hup, hown, hgr⟩ := path_refillOwn (s.issueOwn q)
    refine ⟨_, _, by rw [exec_arbiterGrant hr, grant_own hq h], hown, rfl, rfl, fun len hb => ?_, hup, hgr, fun p ps hps => ?_,
      fun hps => ?_, (onlyParts_issueOwn s q).andThen (onlyParts_refillOwn _)⟩
    · simp [hb]
    · rw [refillOwn_take (s := s.issueOwn q) rfl hps]; exact ⟨rfl, rfl⟩
    · rw [refillOwn_none (s := s.issueOwn q) hps]; exact ⟨rfl, hps⟩
  · simp only [List.mem_cons, List.not_mem_nil, or_false] at hg
    rcases hg with rfl | rfl | rfl | rfl <;> rfl
  · simp only [List.mem_cons, List.not_mem_nil, or_false] at hg
    rcases hg with rfl | rfl <;> rfl
  · simp only [List.mem_cons, List.not_mem_nil, or_false] at hg
    rcases hg with rfl | rfl | rfl | rfl | rfl | rfl | rfl | rfl <;> rfl
  · have hrel := releaseAside_taken hu
    obtain ⟨h1, h2, h3⟩ := drain_taken_path (s := s) (by rw [hrel]; exact hu)
    exact ⟨h1, h2.trans (by rw [hrel]), h3⟩
  · have hrel := releaseAside_released hn hu
    obtain ⟨h1, h2, h3⟩ := drain_taken_path (s := s) (u := u) (by rw [hrel])
    exact ⟨h1, h2.trans (by rw [hrel]), h3⟩
  · rw [drain_starting hp, releaseAside_pending ha]
  · rw [drain_of_pending ha hp, hl, drainHold, State.withHoldList, ← hl]
    simp [hl]
  · subst hv
    exact drain_next hn ha hp hl hb hpend

end Sys2Proof.Machine
end


section
/-! Obligations O18, O19: the responses of pass-through requests and of unobserved writes. -/

namespace Sys2Proof.Machine

/-! ## An issued upstream request is answered -/

theorem dropUp_path (s : State) (k : Nat) : (s.dropUp k).path =
    { s.path with upIssued := s.path.upIssued.filter (fun i => decide (i.up.tag ≠ k)) } := rfl

theorem not_mem_dropUp (s : State) (k : Nat) : ∀ j ∈ (s.dropUp k).path.upIssued, j.up.tag ≠ k := fun j hj => by
  simpa using (List.mem_filter.1 hj).2

theorem upAnswered_eq {s : State} {k : Nat} {i : IssuedUp} {about : Request → Bool} (f : State → IssuedUp → State)
    (hi : s.findUp k = some i) (ha : about i.up.req = true) : s.upAnswered k about f = f (s.dropUp k) i := by
  simp only [State.upAnswered, hi, ha, if_true]

theorem exec_passThroughResponse {s : State} {k : Nat} {i : IssuedUp} (a : Answer) (hr : s.inReset = false)
    (hi : s.findUp k = some i) (ha : s.inAperture i.up.req = false) :
    exec (.passThroughResponse k a) s = .next ((s.dropUp k).passBack i a) := by
  rw [exec, execPassThroughResponse, live_eq hr, upAnswered_eq _ hi (by rw [ha]; rfl)]

/-- The state before what waits for the slot goes on: memory as the write left it, and the response given. -/
def State.answeredUp (s : State) (k : Nat) (m : Memory) (a : UpAnswer) : State := ({ s.dropUp k with mem := m } : State).complete k a

theorem onlyParts_answeredUp (s : State) (k : Nat) (m : Memory) (a : UpAnswer) :
    OnlyParts s (s.answeredUp k m a) [.upstream, .memory] :=
  (onlyParts_dropUp s k).trans ((onlyParts_mem _ m).trans (rs := [.upstream, .memory]) (onlyParts_complete _ k a)
    (by decide) (by decide)) (by decide) (by decide)

theorem answered_answeredUp (s : State) (k : Nat) (m : Memory) (a : UpAnswer) (h : ∃ o ∈ s.path.outstanding, o.tag = k) :
    Answered (s.answeredUp k m a) k a := answered_complete _ _ _ h

theorem not_mem_answeredUp (s : State) (k : Nat) (m : Memory) (a : UpAnswer) :
    ∀ j ∈ (s.answeredUp k m a).path.upIssued, j.up.tag ≠ k := not_mem_dropUp s k

theorem passBack_write (s : State) {i : IssuedUp} (a : Answer) (hw : i.up.req.write = true) :
    (s.dropUp i.up.tag).passBack i a =
      (s.answeredUp i.up.tag (s.mem.land i.up.req.start i.up.req.lanes a) ⟨answeredDone a, []⟩).drain := by
  unfold State.passBack
  exact if_pos hw

theorem passBack_read {s : State} {i : IssuedUp} {a : Answer} {d : List Byte} (hw : i.up.req.write = false)
    (hd : readData s.mem i.up.req.start (8 * i.up.req.words) i.snapshot a = some d) :
    (s.dropUp i.up.tag).passBack i a = (s.answeredUp i.up.tag s.mem ⟨true, d⟩).drain := by
  have hd' : readData (s.dropUp i.up.tag).mem i.up.req.start (8 * i.up.req.words) i.snapshot a = some d := hd
  simp only [State.passBack, hw, hd', Bool.false_eq_true, if_false]
  rfl

theorem passBack_readError (s : State) {i : IssuedUp} (k : Nat) (hw : i.up.req.write = false) :
    (s.dropUp i.up.tag).passBack i (.error k) =
      (s.answeredUp i.up.tag s.mem ⟨false, errorData i.up.tag i.up.req⟩).drain := by
  simp only [State.passBack, hw, readData, Bool.false_eq_true, if_false]
  rfl

/-- Every answer of a read is one of these two. -/
theorem readData_cases (m : Memory) (start len : Nat) (snap : List Byte) (a : Answer) :
    (∃ d, readData m start len snap a = some d ∧ ∀ k, a ≠ .error k) ∨ ∃ k, a = .error k := by
  cases a with
  | done => exact .inl ⟨_, rfl, by simp⟩
  | doneAsIssued => exact .inl ⟨_, rfl, by simp⟩
  | error k => exact .inr ⟨k, rfl⟩

/-- Settles O18: how responses return, by `splitReady_stream`, and the pass-through response by the request's kind. -/
theorem passThroughReturnsAsReceived : Obligations.PassThroughReturnsAsReceived := by
  unfold Obligations.PassThroughReturnsAsReceived
  refine ⟨fun _ _ _ => rfl, fun s => ⟨onlyParts_flush s, rfl, rfl, rfl, rfl, rfl, fun n => ?_⟩,
    fun s k i a hr hi ha hk => ?_⟩
  · obtain ⟨pre, post, h1, h2, h3, h4, h5⟩ := splitReady_stream n s.path.outstanding [] (by simp)
    refine ⟨pre, post, h1, h2, h3, h4, ?_⟩
    change (s.path.returned ++ _).filter _ = _
    rw [List.filter_append, h5]
  · subst hk
    have hexec := exec_passThroughResponse a hr hi ha
    cases hw : i.up.req.write
    · rcases readData_cases s.mem i.up.req.start (8 * i.up.req.words) i.snapshot a with ⟨d, hd, hne⟩ | ⟨k, rfl⟩
      · rw [passBack_read hw hd] at hexec
        refine ⟨_, hexec, onlyParts_answeredUp s _ _ _, nofun, fun _ => rfl, not_mem_answeredUp s _ _ _,
          fun ho => ⟨nofun, fun _ x hx => ?_, fun _ k he => absurd he (hne k)⟩⟩
        rw [hd] at hx
        cases hx
        exact answered_answeredUp s _ _ _ ho
      · rw [passBack_readError s k hw] at hexec
        exact ⟨_, hexec, onlyParts_answeredUp s _ _ _, nofun, fun _ => rfl, not_mem_answeredUp s _ _ _,
          fun ho => ⟨nofun, nofun, fun _ _ _ => answered_answeredUp s _ _ _ ho⟩⟩
    · rw [passBack_write s a hw] at hexec
      exact ⟨_, hexec, onlyParts_answeredUp s _ _ _, fun _ => rfl, nofun, not_mem_answeredUp s _ _ _,
        fun ho => ⟨fun _ => answered_answeredUp s _ _ _ ho, nofun, nofun⟩⟩

/-! ## An aperture write is answered -/

theorem exec_writeAnswered {s : State} {k : Nat} {i : IssuedUp} {a : Answer} {c : Instr} {about : State → Request → Bool}
    (h : WriteDownstream s k i) (hc : exec c s = .next (s.live (fun s => s.writeAnswered k a about)))
    (ho : about s i.up.req = true) : exec c s = .next ((s.dropUp k).writeBack i a) := by
  obtain ⟨hr, hi, ha, hw⟩ := h
  rw [hc, live_eq hr, State.writeAnswered, upAnswered_eq _ hi (by rw [ha, hw, ho]; rfl)]

/-- A write answered error is answered error, whatever it covers. -/
theorem writeBack_error (s : State) (i : IssuedUp) (k : Nat) : (s.dropUp i.up.tag).writeBack i (.error k) =
    (s.answeredUp i.up.tag (s.mem.land i.up.req.start i.up.req.lanes (.error k)) ⟨false, []⟩).drain := rfl

theorem observed_false {s : State} {r : Request} (h : s.observed r = false) : s.coversSlots r = false ∧
    s.coversClose r = false ∧ s.coversCancel r = false ∧ NoSetupWord s r := by
  simpa [State.observed, and_assoc] using h

theorem setupHandOn_none {s : State} {r : Request} (h : NoSetupWord s r) : s.setupHandOn r = s := by
  obtain ⟨h1, h2, h3, h4⟩ := h
  simp only [State.setupHandOn, h1, h2, h3, h4, Bool.false_eq_true, if_false]

theorem isEmpty_filter_of_any_false {α : Type} {p : α → Bool} {l : List α} (h : l.any p = false) :
    (l.filter p).isEmpty = true := by
  rw [List.isEmpty_iff, List.filter_eq_nil_iff]
  intro a ha hp
  rw [List.any_eq_false] at h
  exact h a ha hp

theorem slotCells_isEmpty {s : State} {r : Request} (hw : r.write = true) (h : s.coversSlots r = false) :
    (s.slotCells r).isEmpty = true := by
  rw [State.coversSlots, hw, Bool.true_and] at h
  exact isEmpty_filter_of_any_false h

theorem countByte_none {s : State} {r : Request} (hw : r.write = true) (h : s.coversClose r = false) :
    countByte (s.deskCells r.stream r) = none := by
  rw [State.coversClose, hw, Bool.true_and] at h
  rw [countByte, Option.map_eq_none_iff, List.find?_eq_none]
  rw [List.any_eq_false] at h
  exact h

/-- A write that covers no part of its desk is not taken by Desk Capture. -/
theorem deskHandOn_none {s : State} {u : UpReq} (hw : u.req.write = true) (h1 : s.coversSlots u.req = false)
    (h2 : s.coversClose u.req = false) (h3 : s.coversCancel u.req = false) : s.deskHandOn u = s := by
  have hslots := slotCells_isEmpty hw h1
  rw [State.slotCells] at hslots
  have hcount := countByte_none hw h2
  simp only [State.deskHandOn, hslots, hcount, h3, if_true, Bool.false_eq_true, if_false, ite_self]

theorem handOn_unobserved {s : State} {u : UpReq} (hw : u.req.write = true) (h : s.observed u.req = false) : s.handOn u = s := by
  obtain ⟨h1, h2, h3, h4⟩ := observed_false h
  rw [State.handOn, deskHandOn_none hw h1 h2 h3, setupHandOn_none h4]

theorem respond_free {s : State} {k : Nat} (h : NoOwnWriteHolds s k) : s.respond k = (s.complete k ⟨true, []⟩).drain := by
  unfold State.respond
  rw [if_neg]
  rw [List.any_eq_true]
  rintro ⟨q, hq, hh⟩
  exact h q hq (of_decide_eq_true hh)

theorem land_done {a : Answer} (h : answeredDone a = true) (m : Memory) (x : Nat) (ls : List Lane) :
    m.land x ls a = m.writeLanes x ls := by
  cases a with
  | done => rfl
  | doneAsIssued => rfl
  | error k => exact absurd h Bool.false_ne_true

theorem cutLanes_land_length (a : Answer) (ls : List Lane) : ∃ l : List Lane, l.length = ls.length ∧
    ∀ (m : Memory) (x : Nat), m.land x ls a = m.writeLanes x l := by
  cases a with
  | done => exact ⟨ls, rfl, fun _ _ => rfl⟩
  | doneAsIssued => exact ⟨ls, rfl, fun _ _ => rfl⟩
  | error k => exact ⟨cutLanes k ls, cutLanes_length k ls, fun _ _ => rfl⟩

theorem read_land_outside {m : Memory} {x y : Nat} {ls : List Lane} (a : Answer) (h : y < x ∨ x + ls.length ≤ y) :
    (m.land x ls a).read y = m.read y := by
  obtain ⟨l, hl, he⟩ := cutLanes_land_length a ls
  rw [he]
  exact read_writeLanes_outside _ _ _ _ (by rw [hl]; exact h)

/-- A write that no block observes is answered as memory answers it. -/
theorem exec_unobserved {s : State} {i : IssuedUp} (h : WriteDownstream s i.up.tag i) (hobs : s.observed i.up.req = false)
    (hown : NoOwnWriteHolds s i.up.tag) (a : Answer) : exec (.apertureWriteResponse i.up.tag a) s = .next
      (s.answeredUp i.up.tag (s.mem.land i.up.req.start i.up.req.lanes a) ⟨answeredDone a, []⟩).drain := by
  rw [exec_writeAnswered (a := a) (about := fun s r => !s.observed r) h rfl (by rw [hobs]; rfl)]
  cases ha : answeredDone a
  · cases a with
    | done => exact absurd ha (by decide)
    | doneAsIssued => exact absurd ha (by decide)
    | error e => rfl
  · unfold State.writeBack
    have hsame : ∀ m : Memory, ({ s.dropUp i.up.tag with mem := m } : State).observed i.up.req = false := fun _ => hobs
    simp only [ha, if_true, handOn_unobserved h.2.2.2 (hsame _)]
    exact congrArg _ (respond_free hown)

/-- Settles O19: an unobserved write by its answer, and the observed ones answered error. -/
theorem apertureWriteStandsInMemory : Obligations.ApertureWriteStandsInMemory := by
  unfold Obligations.ApertureWriteStandsInMemory
  refine ⟨fun s k i a h hk hobs hown hmem => ?_, fun s k e i c about h hk hc habout => ?_⟩
  · subst hk
    have hexec := exec_unobserved h hobs hown a
    refine ⟨_, hexec, onlyParts_answeredUp s _ _ _, rfl, fun x hx => read_land_outside a hx, fun j l ha hl => ?_,
      answered_answeredUp s _ _ _⟩
    change (s.mem.land _ _ a).read _ = _
    rw [land_done ha]
    obtain ⟨hlt, rfl⟩ := List.getElem?_eq_some_iff.1 hl
    exact read_writeLanes_inside _ _ _ j hlt hmem
  · subst hk
    have hback : exec c s = .next ((s.dropUp i.up.tag).writeBack i (.error e)) := by
      simp only [List.mem_cons, Prod.mk.injEq, List.not_mem_nil, or_false] at hc
      rcases hc with ⟨rfl, rfl⟩ | ⟨rfl, rfl⟩ | ⟨rfl, rfl⟩ <;> exact exec_writeAnswered h rfl habout
    rw [writeBack_error] at hback
    exact ⟨_, hback, onlyParts_answeredUp s _ _ _, rfl, answered_answeredUp s _ _ _⟩

end Sys2Proof.Machine
end


section
/-! Obligations O20, O21, O22, O24: reads of the aperture, their marks and masks, and the watches they open. -/

namespace Sys2Proof.Machine

/-! ## The data of a read -/

theorem readData_error (m : Memory) (start len : Nat) (snap : List Byte) (k : Nat) :
    readData m start len snap (.error k) = none := rfl

theorem returnedFrom_getElem? (s : State) (n : StreamId) (start : Nat) (data : List Byte) (touched : List Target) :
    ∀ (bs : List Byte) (off j : Nat), (s.returnedFrom n start data touched off bs)[j]? =
      bs[j]?.map (fun b => s.returnedByte n start data touched (off + j) b)
  | [], _, _ => by simp [State.returnedFrom]
  | b :: bs, off, 0 => by simp [State.returnedFrom]
  | b :: bs, off, j + 1 => by
    rw [State.returnedFrom, List.getElem?_cons_succ, List.getElem?_cons_succ, returnedFrom_getElem? s n start data touched bs,
      show off + 1 + j = off + (j + 1) by omega]

theorem returnedFrom_length (s : State) (n : StreamId) (start : Nat) (data : List Byte) (touched : List Target) :
    ∀ (bs : List Byte) (off : Nat), (s.returnedFrom n start data touched off bs).length = bs.length
  | [], _ => rfl
  | _ :: bs, off => congrArg (· + 1) (returnedFrom_length s n start data touched bs (off + 1))

/-- What a read shows turns on memory, the base, the Setup Loader and the sessions alone. -/
structure SameView (s t : State) : Prop where
  mem : t.mem = s.mem
  base : t.base = s.base
  loader : t.loader = s.loader
  session : ∀ m, (t.stream m).session = (s.stream m).session

theorem SameView.trans {r s t : State} (h : SameView r s) (k : SameView s t) : SameView r t :=
  ⟨k.mem.trans h.mem, k.base.trans h.base, k.loader.trans h.loader, fun m => (k.session m).trans (h.session m)⟩

theorem replaces_congr {s t : State} (h : SameView s t) (n : StreamId) (start : Nat) (data : List Byte) (r : Region) (k : Nat) :
    t.replaces n start data r k = s.replaces n start data r k := by
  have hopt : ∀ a, t.seenOpt start data a = s.seenOpt start data a := fun a => by
    simp only [State.seenOpt, State.seenByte, h.mem]
  have hoff : ∀ x, t.targetOff x = s.targetOff x := fun x => by
    cases x <;> simp only [State.targetOff, State.regions, h.loader]
  cases r <;> simp only [State.replaces, State.maskedReader, State.cfg, h.session, h.base, h.loader, hopt, hoff] <;> rfl

theorem markOf_congr {s t : State} (h : SameView s t) (n : StreamId) (start : Nat) (data : List Byte) (touched : List Target)
    (r : Region) (k : Nat) : t.markOf n start data touched r k = s.markOf n start data touched r k := by
  simp only [State.markOf, State.isStale, State.isElsewhere, h.session, h.loader, replaces_congr h]
  rfl

theorem returnedByte_congr {s t : State} (h : SameView s t) (n : StreamId) (start : Nat) (data : List Byte)
    (touched : List Target) (a : Nat) (b : Byte) :
    t.returnedByte n start data touched a b = s.returnedByte n start data touched a b := by
  have hregions : t.regions = s.regions := by simp only [State.regions, h.loader]
  simp only [State.returnedByte, markOf_congr h, replaces_congr h, hregions]

theorem returnedFrom_congr {s t : State} (h : SameView s t) (n : StreamId) (start : Nat) (data : List Byte)
    (touched : List Target) : ∀ (off : Nat) (bs : List Byte),
    t.returnedFrom n start data touched off bs = s.returnedFrom n start data touched off bs
  | _, [] => rfl
  | off, b :: bs => by rw [State.returnedFrom, State.returnedFrom, returnedByte_congr h, returnedFrom_congr h]

/-! ## The records a read marks -/

/-- The record whose mark byte stands at an aperture offset. -/
def State.markAt (s : State) (a : Nat) : Option (Region × Nat) :=
  match classify s.regions a with
  | .record r k o => if o = r.markOff then some (r, k) else none
  | _ => none

theorem markedRecords_cons (s : State) (off : Nat) (b : Byte) (bs : List Byte) :
    s.markedRecords off (b :: bs) = (s.markAt off).toList ++ s.markedRecords (off + 1) bs := by
  rw [State.markedRecords, State.markAt]
  cases classify s.regions off with
  | record r k o => dsimp only; split <;> rfl
  | _ => rfl

theorem markedRecords_eq (s : State) : ∀ (bs : List Byte) (off : Nat),
    s.markedRecords off bs = (List.range bs.length).filterMap (fun j => s.markAt (off + j))
  | [], _ => rfl
  | b :: bs, off => by
    rw [markedRecords_cons, markedRecords_eq s bs, List.length_cons, List.range_succ_eq_map, List.filterMap_cons,
      List.filterMap_map]
    have hshift : (fun j => s.markAt (off + 1 + j)) = (fun j => s.markAt (off + j)) ∘ Nat.succ := by
      funext j; simp only [Function.comp, Nat.succ_eq_add_one]; congr 1; omega
    rw [hshift, Nat.add_zero]
    cases s.markAt off <;> rfl

theorem markedRecords_congr {s t : State} (h : t.loader = s.loader) (off : Nat) (bs : List Byte) :
    t.markedRecords off bs = s.markedRecords off bs := by
  have hmark : ∀ a, t.markAt a = s.markAt a := fun a => by simp only [State.markAt, State.regions, h]
  simp only [markedRecords_eq, hmark]

/-! ## Hand-offs to the Watch Table -/

/-- The hand-offs of one read, in order. -/
def State.handOffs (s : State) (n : StreamId) (touched : List Target) (l : List (Region × Nat)) : State :=
  l.foldl (fun u x => u.handOffRecord n (u.isStale touched x.1 x.2) x) s

theorem onlyParts_handOffRecord (s : State) (n : StreamId) (b : Bool) (x : Region × Nat) :
    OnlyParts s (s.handOffRecord n b x) [.streams] := onlyParts_ite (onlyParts_updStream s n _) (OnlyParts.refl s _)

theorem onlyStreams_handOffRecord (s : State) (n : StreamId) (b : Bool) (x : Region × Nat) :
    OnlyStreams s (s.handOffRecord n b x) [n] := fun m hm => by
  unfold State.handOffRecord
  split
  · exact stream_updStream_ne s (by simpa using hm) _
  · rfl

theorem handOffRecord_shown (s : State) (n : StreamId) (b : Bool) (x : Region × Nat) (m : StreamId) :
    ((s.handOffRecord n b x).stream m).session = (s.stream m).session ∧
      ((s.handOffRecord n b x).stream m).answer = (s.stream m).answer := by
  unfold State.handOffRecord
  split
  · rw [stream_updStream]
    split
    next h => rw [h]; exact ⟨rfl, rfl⟩
    next => exact ⟨rfl, rfl⟩
  · exact ⟨rfl, rfl⟩

theorem onlyParts_handOffs (s : State) (n : StreamId) (touched : List Target) (l : List (Region × Nat)) :
    OnlyParts s (s.handOffs n touched l) [.streams] :=
  OnlyParts.foldl (fun (u : State) (x : Region × Nat) => u.handOffRecord n (u.isStale touched x.1 x.2) x)
    (fun u x => onlyParts_handOffRecord u n _ x) l s

theorem handOffs_shown (n : StreamId) (touched : List Target) (m : StreamId) : ∀ (l : List (Region × Nat)) (s : State),
    ((s.handOffs n touched l).stream m).session = (s.stream m).session ∧
      ((s.handOffs n touched l).stream m).answer = (s.stream m).answer
  | [], _ => ⟨rfl, rfl⟩
  | x :: l, s => by
    obtain ⟨h1, h2⟩ := handOffs_shown n touched m l (s.handOffRecord n (s.isStale touched x.1 x.2) x)
    obtain ⟨k1, k2⟩ := handOffRecord_shown s n (s.isStale touched x.1 x.2) x m
    exact ⟨h1.trans k1, h2.trans k2⟩

/-- The Watch Table sees the streams and the part state, not the path. -/
theorem handOffs_streams_congr (n : StreamId) (touched : List Target) : ∀ (l : List (Region × Nat)) {s t : State},
    t.streams = s.streams → t.loader = s.loader → (t.handOffs n touched l).streams = (s.handOffs n touched l).streams
  | [], _, _, hs, _ => hs
  | x :: l, s, t, hs, hl => by
    have hstale : t.isStale touched x.1 x.2 = s.isStale touched x.1 x.2 := by simp only [State.isStale, hl]
    have hwatch : t.watchable n x.1 x.2 = s.watchable n x.1 x.2 := by
      simp only [State.watchable, stream_of_streams_eq hs]
    have hstep : (t.handOffRecord n (t.isStale touched x.1 x.2) x).streams =
        (s.handOffRecord n (s.isStale touched x.1 x.2) x).streams := by
      simp only [State.handOffRecord, hwatch, hstale]
      split
      · simp only [State.updStream, stream_of_streams_eq hs, hs]
      · exact hs
    refine handOffs_streams_congr n touched l hstep ?_
    rw [onlyParts_handOffRecord t n _ x .loader (by decide), onlyParts_handOffRecord s n _ x .loader (by decide), hl]

/-! ## Data arrive -/

/-- The state before what waits for the slot goes on: the records handed over, and the response given. -/
def State.readReturned (s : State) (i : IssuedUp) (d : List Byte) : State :=
  (s.handOffs i.up.req.stream i.touched (s.markedRecords (i.up.req.start - s.base) d)).complete i.up.tag
    ⟨true, s.returnedFrom i.up.req.stream i.up.req.start d i.touched (i.up.req.start - s.base) d⟩

theorem readArrives_done {s : State} {i : IssuedUp} {a : Answer} {d : List Byte}
    (hd : readData s.mem i.up.req.start (8 * i.up.req.words) i.snapshot a = some d) :
    s.readArrives i a = (s.readReturned i d).drain := by
  simp only [State.readArrives, hd]
  rfl

theorem readArrives_error (s : State) (i : IssuedUp) (k : Nat) :
    s.readArrives i (.error k) = (s.complete i.up.tag ⟨false, zeros (8 * i.up.req.words)⟩).drain := rfl

theorem readReturned_streams (s : State) (i : IssuedUp) (d : List Byte) : (s.readReturned i d).streams =
    (s.handOffs i.up.req.stream i.touched (s.markedRecords (i.up.req.start - s.base) d)).streams := rfl

theorem onlyParts_readReturned (s : State) (i : IssuedUp) (d : List Byte) :
    OnlyParts s (s.readReturned i d) [.upstream, .streams] :=
  (onlyParts_handOffs s _ _ _).trans (onlyParts_complete _ _ _) (by decide) (by decide)

theorem answered_readReturned (s : State) (i : IssuedUp) (d : List Byte) (h : ∃ o ∈ s.path.outstanding, o.tag = i.up.tag) :
    Answered (s.readReturned i d) i.up.tag
      ⟨true, s.returnedFrom i.up.req.stream i.up.req.start d i.touched (i.up.req.start - s.base) d⟩ := by
  refine answered_complete _ _ _ ?_
  rw [(onlyParts_handOffs s _ _ _ .upstream (by decide)).2.2.2.2.2.1]
  exact h

theorem exec_readDataArrival {s : State} {k : Nat} {i : IssuedUp} (a : Answer) (h : ReadDownstream s k i)
    (hc : s.coversAnswerState i.up.req = false) :
    exec (.readDataArrival k a) s = .next ((s.dropUp k).readArrives i a) := by
  obtain ⟨hr, hi, ha, hw⟩ := h
  rw [exec, execReadDataArrival, live_eq hr, upAnswered_eq _ hi (by rw [ha, hw, hc]; rfl)]

theorem sameView_dropUp (s : State) (k : Nat) : SameView s (s.dropUp k) := ⟨rfl, rfl, rfl, fun _ => rfl⟩

theorem markAt_of_classify {s : State} {a : Nat} (h : ∀ r k o, classify s.regions a ≠ .record r k o) : s.markAt a = none := by
  rw [State.markAt]
  cases hc : classify s.regions a with
  | record r k o => exact absurd hc (h r k o)
  | _ => rfl

theorem returnedByte_elsewhere {s : State} (n : StreamId) (start : Nat) (data : List Byte) (touched : List Target) {a : Nat}
    (b : Byte) (h : ∀ r k o, classify s.regions a ≠ .record r k o) : s.returnedByte n start data touched a b = b := by
  rw [State.returnedByte]
  cases hc : classify s.regions a with
  | record r k o => exact absurd hc (h r k o)
  | _ => rfl

theorem returnedByte_mark {s : State} {n : StreamId} {start : Nat} {data : List Byte} {touched : List Target} {a : Nat}
    (b : Byte) {r : Region} {k : Nat} (h : classify s.regions a = .record r k r.markOff) :
    s.returnedByte n start data touched a b = BitVec.ofNat 8 (s.markOf n start data touched r k).code := by
  simp only [State.returnedByte, h, if_true]

theorem returnedByte_field {s : State} {n : StreamId} {start : Nat} {data : List Byte} {touched : List Target} {a : Nat}
    (b : Byte) {r : Region} {k o : Nat} (h : classify s.regions a = .record r k o) (ho : o ≠ r.markOff) :
    s.returnedByte n start data touched a b = if s.replaces n start data r k then maskByte r o b else b := by
  simp only [State.returnedByte, h, if_neg ho]

/-- Settles O20: the arrival of read data, and each byte returned by the class of its address. -/
theorem readIsMarkedAndMasked : Obligations.ReadIsMarkedAndMasked := by
  unfold Obligations.ReadIsMarkedAndMasked
  refine ⟨fun s k i a h hk hc ho => ⟨fun d hd => ?_, fun e he => ?_⟩, fun m start len snap k => ⟨rfl, rfl, rfl⟩,
    fun s n start data touched off bs => ⟨returnedFrom_length s n start data touched bs off, fun j b hb => ?_⟩,
    fun s n start data touched a b => ⟨fun r k h => ?_, returnedByte_elsewhere n start data touched b⟩,
    fun r => by cases r <;> rfl, fun s off bs => ?_, fun s touched r k => ?_⟩
  · subst hk
    have hexec := exec_readDataArrival a h hc
    rw [readArrives_done (s := s.dropUp i.up.tag) hd] at hexec
    refine ⟨_, hexec, ?_, (onlyParts_dropUp s _).trans (onlyParts_readReturned _ i d) (by decide) (by decide), ?_⟩
    · rw [← returnedFrom_congr (sameView_dropUp s i.up.tag)]
      exact answered_readReturned _ i d ho
    · rw [readReturned_streams, markedRecords_congr (s := s) (t := s.dropUp i.up.tag) rfl]
      exact handOffs_streams_congr _ _ _ (s := s) (t := s.dropUp i.up.tag) rfl rfl
  · subst hk he
    have hexec := exec_readDataArrival (.error e) h hc
    rw [readArrives_error] at hexec
    exact ⟨_, hexec, answered_complete _ _ _ ho,
      (onlyParts_dropUp s _).trans (onlyParts_complete _ _ _) (by decide) (by decide)⟩
  · rw [returnedFrom_getElem?, hb, Option.map_some]
  · rw [returnedByte_mark b h]
    cases s.markOf n start data touched r k <;> rfl
  · exact markedRecords_eq s bs off
  · simp [State.isStale]

/-! ## Marks and masks -/

theorem maskedReader_iff (s : State) (n : StreamId) : s.maskedReader n = true ↔
    (s.stream n).session = .off ∨ ∃ c, s.cfg n = some c ∧ c.grade = .kiosk := by
  simp [State.maskedReader]

theorem patron_eq_some_iff (x : Session) (p : Nat) : x.patron = some p ↔ x = .claimed p := by
  cases x <;> simp [Session.patron]

/-- Where the field stands that names a masked record's patron. -/
def MaskedAt (r : Region) (f : Nat) : Prop := (r = .items ∧ f = 12) ∨ (r = .holds ∧ f = 4)

/-- A record whose patron is named by a field is replaced when the field names another than the claimed one. -/
theorem replaces_field {s : State} {n : StreamId} {start : Nat} {data : List Byte} {r : Region} {k f : Nat} (hf : MaskedAt r f) :
    s.replaces n start data r k = true ↔ s.maskedReader n = true ∧ ∃ p : Nat,
      s.seenOpt start data (s.base + s.targetOff (.record r k) + f) = some p ∧ (s.stream n).session ≠ .claimed p := by
  rcases hf with ⟨rfl, rfl⟩ | ⟨rfl, rfl⟩ <;>
  · simp only [State.replaces, Bool.and_eq_true]
    refine and_congr_right fun _ => ?_
    split
    next h => simp [h]
    next p h =>
      simp only [h, decide_eq_true_eq, ne_eq, patron_eq_some_iff, Option.some.injEq]
      exact ⟨fun hc => ⟨p, rfl, hc⟩, fun ⟨q, hq, hc⟩ => hq ▸ hc⟩

theorem replaces_iff (s : State) (n : StreamId) (start : Nat) (data : List Byte) (r : Region) (k : Nat) :
    s.replaces n start data r k = true ↔ s.maskedReader n = true ∧
      ((r = .patrons ∧ (s.stream n).session ≠ .claimed k) ∨ r = .cards ∨
        ∃ f p : Nat, MaskedAt r f ∧ s.seenOpt start data (s.base + s.targetOff (.record r k) + f) = some p ∧
          (s.stream n).session ≠ .claimed p) := by
  cases r with
  | patrons => simp [State.replaces, MaskedAt, patron_eq_some_iff]
  | cards => simp [State.replaces]
  | titles => simp [State.replaces, MaskedAt]
  | items => rw [replaces_field (f := 12) (.inl ⟨rfl, rfl⟩)]; simp [MaskedAt]
  | holds => rw [replaces_field (f := 4) (.inr ⟨rfl, rfl⟩)]; simp [MaskedAt]

theorem isStale_iff (s : State) (touched : List Target) (r : Region) (k : Nat) :
    s.isStale touched r k = true ↔ (s.loader.part = .formatting ∨ Target.record r k ∈ touched) := by simp [State.isStale]

theorem isElsewhere_iff (s : State) (n : StreamId) (r : Region) (k : Nat) :
    s.isElsewhere n r k = true ↔ r = .patrons ∧ ∃ m : StreamId, m ≠ n ∧ (s.stream m).session = .claimed k := by
  simp [State.isElsewhere, mem_allStreams]

/-- Settles O21: when R15 replaces a field, and the mark by the first condition that holds. -/
theorem markOrder : Obligations.MarkOrder := by
  unfold Obligations.MarkOrder
  refine ⟨fun s n start data r k => ?_, fun s n start data touched r k => ⟨fun h => ?_, fun h1 h2 => ⟨fun hr hm => ?_, fun h => ?_⟩⟩⟩
  · rw [replaces_iff, maskedReader_iff]; rfl
  · rw [State.markOf, if_pos ((isStale_iff s touched r k).2 h)]
  all_goals have hstale : ¬ s.isStale touched r k = true := by rw [isStale_iff]; exact not_or.2 ⟨h1, h2⟩
  · rw [State.markOf, if_neg hstale, if_pos ((isElsewhere_iff s n r k).2 ⟨hr, hm⟩)]
  · rw [State.markOf, if_neg hstale, if_neg]
    rw [isElsewhere_iff]
    rintro ⟨hr, m, hm, hs⟩
    exact h.elim (fun hne => hne hr) (fun hno => hno m hm hs)

/-- Settles O22: a byte of a record as returned, by the region and the reader. -/
theorem maskedFields : Obligations.MaskedFields := by
  unfold Obligations.MaskedFields
  intro s n start data touched a b r k o hc ho
  have hbyte : s.returnedByte n start data touched a b = if s.replaces n start data r k then maskByte r o b else b :=
    returnedByte_field b hc ho
  have hkept : s.replaces n start data r k = false → s.returnedByte n start data touched a b = b := fun h => by
    rw [hbyte, h, if_neg Bool.false_ne_true]
  refine ⟨fun hoff hk => hkept ?_, fun hmask => ?_⟩
  · rw [Bool.eq_false_iff, ne_eq, replaces_iff, maskedReader_iff]
    rintro ⟨h | ⟨c, hcfg, hg⟩, -⟩
    · exact hoff h
    · exact hk c hcfg hg
  rw [← maskedReader_iff] at hmask
  refine ⟨fun hr => ?_, fun hr => ?_, fun hr => ?_, fun f hf => ⟨fun p h1 h2 hp hne => ?_, fun h => ?_⟩⟩
  · subst hr
    rw [hbyte, if_pos ((replaces_iff _ _ _ _ _ _).2 ⟨hmask, .inr (.inl rfl)⟩), maskByte]
  · subst hr
    rw [hbyte]
    exact ite_self _
  · subst hr
    have hrep : s.replaces n start data .patrons k = true ↔ (s.stream n).session ≠ .claimed k := by
      rw [replaces_iff]; simp [hmask, MaskedAt]
    rw [hbyte]
    by_cases hs : (s.stream n).session = .claimed k
    · rw [if_neg (by rw [hrep]; exact fun h => h hs), if_neg (fun h => h.2 hs)]
    · rw [if_pos (hrep.2 hs), maskByte]
      simp only [ne_eq, hs, not_false_eq_true, and_true]
  · rw [hbyte, if_pos ((replaces_field hf).2 ⟨hmask, p, hp, hne⟩)]
    rcases hf with ⟨rfl, rfl⟩ | ⟨rfl, rfl⟩ <;> exact if_pos ⟨h1, h2⟩
  · by_cases hin : f ≤ o ∧ o < f + 4
    · refine hkept ?_
      rw [Bool.eq_false_iff, ne_eq, replaces_field hf]
      rintro ⟨-, p, hp, hne⟩
      rcases h with h | h | h | ⟨q, hq, hs⟩
      · omega
      · omega
      · rw [h] at hp; cases hp
      · rw [hq] at hp; cases hp; exact hne hs
    · rw [hbyte]
      have hbare : maskByte r o b = b := by
        rcases hf with ⟨rfl, rfl⟩ | ⟨rfl, rfl⟩ <;> exact if_neg hin
      rw [hbare, ite_self]

/-! ## Watches -/

theorem findWatch_some_iff {ws : List Watch} {r : Region} {k : Nat} :
    (findWatch ws r k).isSome = true ↔ ∃ w ∈ ws, w.region = r ∧ w.index = k := by
  simp [findWatch, List.find?_isSome]

theorem placeWatch_held {ws : List Watch} {x : Watch} (h : ∃ w ∈ ws, w.region = x.region ∧ w.index = x.index) :
    placeWatch ws x = ws.filter (fun w => decide (¬(w.region = x.region ∧ w.index = x.index))) ++ [x] := by
  obtain ⟨w, hw⟩ := Option.isSome_iff_exists.1 (findWatch_some_iff.2 h)
  simp only [placeWatch, hw]
  congr 2
  funext v
  simp

theorem placeWatch_new {ws : List Watch} {x : Watch} (h : ∀ w ∈ ws, ¬(w.region = x.region ∧ w.index = x.index)) :
    placeWatch ws x = ws.drop (ws.length - 7) ++ [x] := by
  have hnone : findWatch ws x.region x.index = none := by
    rw [← Option.not_isSome_iff_eq_none, findWatch_some_iff]
    rintro ⟨w, hw, he⟩
    exact h w hw he
  simp only [placeWatch, hnone]

theorem watchable_iff (s : State) (n : StreamId) (r : Region) (k : Nat) : s.watchable n r k = true ↔
    ∃ p, (s.stream n).session = .claimed p ∧ (r = .items ∨ r = .titles ∨ (r = .patrons ∧ k = p)) := by
  unfold State.watchable
  cases (s.stream n).session <;> cases r <;> simp

theorem handOffRecord_watches {s : State} {n : StreamId} {r : Region} {k : Nat} (b : Bool) (h : s.watchable n r k = true) :
    ((s.handOffRecord n b (r, k)).stream n).watches =
      placeWatch (s.stream n).watches ⟨r, k, if b then .spoiled else .unspoiled⟩ := by
  obtain ⟨p, hp, -⟩ := (watchable_iff s n r k).1 h
  rw [State.handOffRecord, if_pos h, stream_updStream_self]
  simp [Stream.settled, hp, Session.isClaimed]

/-- Settles O24: what one hand-off does to the watch list. -/
theorem handOffOpensOrRefreshesAWatch : Obligations.HandOffOpensOrRefreshesAWatch := by
  unfold Obligations.HandOffOpensOrRefreshesAWatch
  refine fun s n stale r k => ⟨fun p hp hr => ?_, fun h => ?_⟩
  · have hwatch := handOffRecord_watches stale ((watchable_iff s n r k).2 ⟨p, hp, hr⟩)
    refine ⟨onlyParts_handOffRecord s n stale (r, k), onlyStreams_handOffRecord s n stale (r, k), fun hw => ?_, fun hw => ⟨fun hl => ?_, fun hl => ?_⟩⟩
    · rw [hwatch, placeWatch_held hw]
    · rw [hwatch, placeWatch_new hw, show (s.stream n).watches.length - 7 = 0 by omega, List.drop_zero]
    · rw [hwatch, placeWatch_new hw, hl, List.drop_one]
  · rw [State.handOffRecord, if_neg]
    rw [watchable_iff]
    rintro ⟨p, hp, hr⟩
    rcases h with h | rfl | rfl | ⟨rfl, h⟩
    · exact h p hp
    · simp at hr
    · simp at hr
    · rcases hr with hr | hr | ⟨-, rfl⟩
      · cases hr
      · cases hr
      · exact h hp

end Sys2Proof.Machine
end


section
/-! Obligation O23: the owner's read of its answer-state word, and the attention line. -/

namespace Sys2Proof.Machine

/-- A FRESH answer is seen when the read shows it and no answer write of the stream stands in the way. -/
theorem readsFresh_iff (s : State) (i : IssuedUp) (d : List Byte) : s.readsFresh i d = true ↔
    d.getD (s.base + deskAddr i.up.req.stream Config.answerOff - i.up.req.start) 0 = 3 ∧
      (s.stream i.up.req.stream).answer = .fresh ∧ i.answerPending = false ∧
      (s.stream i.up.req.stream).answersRaised = i.answersAtIssue ∧
      (s.loader.part = .ready ∨ s.loader.part = .unformatted ∨ s.loader.part = .formatting) := by
  have hcode : BitVec.ofNat 8 AnswerState.fresh.code = 3#8 := rfl
  simp [State.readsFresh, State.showsFresh, State.deskActs, hcode, and_assoc]

theorem answerRead_done {s : State} {i : IssuedUp} {a : Answer} {d : List Byte}
    (hd : readData s.mem i.up.req.start (8 * i.up.req.words) i.snapshot a = some d) :
    s.answerRead i a = if s.readsFresh i d then s.markSeen i.up.req.stream else s := by simp only [State.answerRead, hd]

theorem answerRead_error (s : State) (i : IssuedUp) (k : Nat) : s.answerRead i (.error k) = s := rfl

/-! ## Raising an answer write -/

theorem newOwn_mem_raise (s : State) (t : OwnTag) (o : Nat) (b : OwnBody) (h : Option Nat) :
    s.newOwn t o b h ∈ (s.raise t o b h).ownWaiting := by
  unfold State.raise
  apply mem_ownWaiting_refillOwn
  rw [countAnswer_ownWaiting]
  simp [State.ownWaiting]

/-- An entry that differs from a settled one in none of what settling looks at is settled. -/
theorem settled_of_same {x y : Stream} (h : x.settled = x) (hsession : y.session = x.session) (hwatches : y.watches = x.watches)
    (hidle : y.idleTimer = x.idleTimer) (hbatch : y.batch = x.batch) (hfails : y.checkFails = x.checkFails) : y.settled = y := by
  rw [settled_eq_iff] at h ⊢
  rwa [hsession, hwatches, hidle, hbatch, hfails]


/-- The answer write is held for format: it joins the writes held. -/
def State.heldAnswer (s : State) (n : StreamId) (tag : OwnTag) (ls : List Lane) (h : Option Nat) : State :=
  { s with
    serial := s.serial + 1
    path := { s.path with
      formatHeld := s.path.formatHeld ++ [s.newOwn tag (deskAddr n Config.answerOff) (.write ls) h] } }

theorem raiseAnswer_held {s : State} {n : StreamId} (hn : s.holdsAnswer n = true) (tag : OwnTag) (ls : List Lane) (h : Option Nat) :
    s.raiseAnswer n tag ls h = (s.heldAnswer n tag ls h).countAnswer tag := if_pos hn

theorem raiseAnswer_free {s : State} {n : StreamId} (hn : s.holdsAnswer n = false) (tag : OwnTag) (ls : List Lane) (h : Option Nat) :
    s.raiseAnswer n tag ls h = s.raise tag (deskAddr n Config.answerOff) (.write ls) h := if_neg (by rw [hn]; decide)

theorem onlyParts_countAnswer (s : State) (t : OwnTag) : OnlyParts s (s.countAnswer t) [.streams] := by
  unfold State.countAnswer
  split
  · exact onlyParts_updStream s _ _
  · exact OnlyParts.refl s _

theorem onlyParts_heldAnswer (s : State) (n : StreamId) (tag : OwnTag) (ls : List Lane) (h : Option Nat) :
    OnlyParts s (s.heldAnswer n tag ls h) [.raised] := by
  intro p hp; cases p <;> simp [Unchanged, State.heldAnswer] at hp ⊢

theorem mem_ownWaiting_heldAnswer (s : State) (n : StreamId) (tag : OwnTag) (ls : List Lane) (h : Option Nat) (q : OwnReq) :
    q ∈ (s.heldAnswer n tag ls h).ownWaiting ↔
      q ∈ s.ownWaiting ∨ q = s.newOwn tag (deskAddr n Config.answerOff) (.write ls) h := by
  simp only [State.ownWaiting, State.heldAnswer, List.mem_append, List.mem_singleton, or_assoc]

/-- An answer write raised, held for format or not, adds to what stands and touches its stream's count alone. -/
theorem grows_raiseAnswer (s : State) (n : StreamId) (tag : OwnTag) (ls : List Lane) (h : Option Nat) :
    Grows s (s.raiseAnswer n tag ls h) [.raised, .streams] := by
  cases hn : s.holdsAnswer n
  · rw [raiseAnswer_free hn]
    exact grows_raise_answer s _ _ _ _
  · rw [raiseAnswer_held hn]
    refine ⟨(onlyParts_heldAnswer s n tag ls h).trans (onlyParts_countAnswer _ _) (by decide) (by decide), fun q hq => ?_, ?_⟩
    · rw [countAnswer_ownWaiting]
      exact (mem_ownWaiting_heldAnswer s n tag ls h q).2 (.inl hq)
    · rw [countAnswer_base]; rfl

theorem mem_raiseAnswer (s : State) (n : StreamId) (tag : OwnTag) (ls : List Lane) (h : Option Nat) :
    ∃ q ∈ (s.raiseAnswer n tag ls h).ownWaiting, q.tag = tag ∧ q.addr = s.base + deskAddr n Config.answerOff ∧
      q.body = .write ls ∧ q.holds = h := by
  cases hn : s.holdsAnswer n
  · rw [raiseAnswer_free hn]
    refine ⟨s.newOwn tag (deskAddr n Config.answerOff) (.write ls) h, ?_, rfl, rfl, rfl, rfl⟩
    exact newOwn_mem_raise s _ _ _ _
  · rw [raiseAnswer_held hn]
    refine ⟨s.newOwn tag (deskAddr n Config.answerOff) (.write ls) h, ?_, rfl, rfl, rfl, rfl⟩
    rw [countAnswer_ownWaiting]
    exact (mem_ownWaiting_heldAnswer s n tag ls h _).2 (.inr rfl)

theorem awaits_raiseAnswer (s : State) (n : StreamId) (tag : OwnTag) (ls : List Lane) (h : Option Nat) :
    Awaits (s.raiseAnswer n tag ls h) tag (deskAddr n Config.answerOff) (.write ls) := by
  obtain ⟨q, hq, h1, h2, h3, -⟩ := mem_raiseAnswer s n tag ls h
  exact ⟨q, hq, h1, by rw [(grows_raiseAnswer s n tag ls h).base]; exact h2, h3⟩

theorem stream_raiseAnswer (s : State) (n : StreamId) (tag : OwnTag) (ls : List Lane) (h : Option Nat) (m : StreamId) :
    (s.raiseAnswer n tag ls h).stream m =
      if tag.answerOf = some m then ({ s.stream m with answersRaised := (s.stream m).answersRaised + 1 } : Stream).settled
      else s.stream m := by
  cases hn : s.holdsAnswer n
  · rw [raiseAnswer_free hn, stream_raise]
  · rw [raiseAnswer_held hn, stream_countAnswer]; rfl

/-! ## The answer becomes SEEN (R67) -/

theorem grows_markSeen (s : State) (n : StreamId) : Grows s (s.markSeen n) [.raised, .streams] :=
  (grows_updStream s n _).mono.andThen (grows_raiseAnswer _ n _ _ _)

theorem awaits_markSeen (s : State) (n : StreamId) :
    Awaits (s.markSeen n) (.seen n) (deskAddr n Config.answerOff) (.write (lanesOf [4])) :=
  awaits_raiseAnswer _ n (.seen n) _ _

theorem stream_markSeen (s : State) (n m : StreamId) : (s.markSeen n).stream m =
    if m = n then
      ({ ({ s.stream n with answer := .seen } : Stream).settled with answersRaised := (s.stream n).answersRaised + 1 } : Stream).settled
    else s.stream m := by
  rw [State.markSeen, stream_raiseAnswer, stream_updStream]
  by_cases h : m = n
  · subst h; simp [OwnTag.answerOf]
  · rw [if_neg (by simpa [OwnTag.answerOf] using Ne.symm h), if_neg h, if_neg h]

theorem sameView_markSeen (s : State) (n : StreamId) : SameView s (s.markSeen n) where
  mem := (grows_markSeen s n).parts .memory (by decide)
  base := (grows_markSeen s n).base
  loader := (grows_markSeen s n).parts .loader (by decide)
  session := fun m => by
    rw [stream_markSeen]
    split
    next h => rw [h]; rfl
    next => rfl

/-- Of a settled state the entry differs in the answer state and the count of answer writes alone. -/
theorem markSeen_entry {s : State} (hs : StreamsSettled s) (n : StreamId) :
    { (s.markSeen n).stream n with answer := .empty, answersRaised := 0 } =
      { s.stream n with answer := .empty, answersRaised := 0 } := by
  have h1 : ({ s.stream n with answer := .seen } : Stream).settled = { s.stream n with answer := .seen } :=
    settled_of_same (hs n) rfl rfl rfl rfl rfl
  have heq : (s.markSeen n).stream n =
      { s.stream n with answer := .seen, answersRaised := (s.stream n).answersRaised + 1 } := by
    rw [stream_markSeen, if_pos rfl, h1]
    exact settled_of_same (hs n) rfl rfl rfl rfl rfl
  rw [heq]

/-- What the read does to the answer, before its data are returned. -/
structure AnswerReadSpec (s t : State) (i : IssuedUp) (d : List Byte) : Prop where
  view : SameView s t
  grows : Grows s t [.raised, .streams]
  others : OnlyStreams s t [i.up.req.stream]
  entry : StreamsSettled s → { t.stream i.up.req.stream with answer := .empty, answersRaised := 0 } =
    { s.stream i.up.req.stream with answer := .empty, answersRaised := 0 }
  seen : s.readsFresh i d = true → (t.stream i.up.req.stream).answer = .seen ∧
    Awaits t (.seen i.up.req.stream) (deskAddr i.up.req.stream Config.answerOff) (.write (lanesOf [4]))
  kept : s.readsFresh i d = false → t = s

theorem answerRead_spec {s : State} {i : IssuedUp} {a : Answer} {d : List Byte}
    (hd : readData s.mem i.up.req.start (8 * i.up.req.words) i.snapshot a = some d) :
    AnswerReadSpec s (s.answerRead i a) i d := by
  rw [answerRead_done hd]
  cases hf : s.readsFresh i d
  · rw [if_neg Bool.false_ne_true]
    exact ⟨⟨rfl, rfl, rfl, fun _ => rfl⟩, Grows.refl s _, fun _ _ => rfl, fun _ => rfl, by rw [hf]; nofun, fun _ => rfl⟩
  · rw [if_pos rfl]
    refine ⟨sameView_markSeen s _, grows_markSeen s _, fun m hm => ?_, fun hs => markSeen_entry hs _,
      fun _ => ⟨?_, awaits_markSeen s _⟩, by rw [hf]; nofun⟩
    · rw [stream_markSeen, if_neg (by simpa using hm)]
    · rw [stream_markSeen, if_pos rfl]; rfl

theorem returnedFrom_elsewhere {s : State} (n : StreamId) (start : Nat) (data : List Byte) (touched : List Target) :
    ∀ (bs : List Byte) (off : Nat), (∀ j < bs.length, ∀ r k o, classify s.regions (off + j) ≠ .record r k o) →
      s.returnedFrom n start data touched off bs = bs
  | [], _, _ => rfl
  | b :: bs, off, h => by
    rw [State.returnedFrom, returnedByte_elsewhere (a := off) n start data touched b (h 0 (by simp)),
      returnedFrom_elsewhere n start data touched bs (off + 1) (fun j hj => by
        rw [show off + 1 + j = off + (j + 1) by omega]
        exact h (j + 1) (by simpa using hj))]

theorem markedRecords_elsewhere {s : State} {off : Nat} {bs : List Byte}
    (h : ∀ j < bs.length, ∀ r k o, classify s.regions (off + j) ≠ .record r k o) : s.markedRecords off bs = [] := by
  rw [markedRecords_eq, List.filterMap_eq_nil_iff]
  exact fun j hj => markAt_of_classify (h j (List.mem_range.1 hj))

theorem exec_answerStateRead {s : State} {k : Nat} {i : IssuedUp} (a : Answer) (h : ReadDownstream s k i)
    (hc : s.coversAnswerState i.up.req = true) :
    exec (.answerStateRead k a) s = .next (((s.dropUp k).answerRead i a).readArrives i a) := by
  obtain ⟨hr, hi, ha, hw⟩ := h
  rw [exec, execAnswerStateRead, live_eq hr, upAnswered_eq _ hi (by rw [ha, hw, hc]; rfl)]

theorem attentionLine_iff (s : State) : s.attentionLine = true ↔
    (s.loader.part = .ready ∨ s.loader.part = .formatting) ∧
      ∃ (n : StreamId) (c : StreamCfg), s.cfg n = some c ∧ c.enable = true ∧ c.attention = true ∧ (s.stream n).answer = .fresh := by
  simp only [State.attentionLine, Bool.and_eq_true, decide_eq_true_eq, List.any_eq_true, mem_allStreams, true_and,
    Option.any_eq_true]
  refine and_congr_right fun _ => exists_congr fun n => ?_
  constructor
  · rintro ⟨⟨c, hc, he, ha⟩, hf⟩; exact ⟨c, hc, he, ha, hf⟩
  · rintro ⟨c, hc, he, ha, hf⟩; exact ⟨⟨c, hc, he, ha⟩, hf⟩

/-- Settles O23: the owner's read, by whether it shows the FRESH answer standing. -/
theorem ownersReadMakesSeen : Obligations.OwnersReadMakesSeen := by
  unfold Obligations.OwnersReadMakesSeen
  refine ⟨fun s k i a h hk hc ho => ⟨fun d hd => ?_, fun e he => ?_⟩, attentionLine_iff⟩
  · subst hk
    have hexec := exec_answerStateRead a h hc
    have hspec := answerRead_spec (s := s.dropUp i.up.tag) hd
    obtain ⟨hview, hgrow, hothers, hentry, hseen, hkept⟩ := hspec
    generalize (s.dropUp i.up.tag).answerRead i a = t at hexec hview hgrow hothers hentry hseen hkept
    have hall : SameView s t := (sameView_dropUp s i.up.tag).trans hview
    rw [readArrives_done (by rw [hall.mem]; exact hd)] at hexec
    have hdata : t.returnedFrom i.up.req.stream i.up.req.start d i.touched (i.up.req.start - t.base) d =
        s.returnedFrom i.up.req.stream i.up.req.start d i.touched (i.up.req.start - s.base) d := by
      rw [returnedFrom_congr hall, hall.base]
    have hanswer : ∀ n, ((t.readReturned i d).stream n).answer = (t.stream n).answer :=
      fun n => (handOffs_shown i.up.req.stream i.touched n _ t).2
    have hreturn := onlyParts_readReturned t i d
    have hout : ∃ o ∈ t.path.outstanding, o.tag = i.up.tag := by
      rw [(hgrow.parts .upstream (by decide)).2.2.2.2.2.1]; exact ho
    refine ⟨_, hexec, ((onlyParts_dropUp s _).trans (hgrow.parts.trans (rs := [.upstream, .raised, .streams]) hreturn
      (by decide) (by decide)) (by decide) (by decide)), ?_, fun helse => ⟨?_, ?_, fun hs => ?_⟩, fun hp hf h3 hpend hcount => ?_,
      fun hnot => ?_⟩
    · rw [← hdata]; exact answered_readReturned t i d hout
    · exact returnedFrom_elsewhere _ _ _ _ d _ helse
    all_goals try
      have hnone : t.markedRecords (i.up.req.start - t.base) d = [] := by
        rw [markedRecords_congr hall.loader, hall.base]; exact markedRecords_elsewhere helse
      have hstreams : (t.readReturned i d).streams = t.streams := by rw [readReturned_streams, hnone]; rfl
    · exact fun m hm => (stream_of_streams_eq hstreams m).trans (hothers m hm)
    · rw [stream_of_streams_eq hstreams]; exact hentry hs
    · obtain ⟨h1, h2⟩ := hseen ((readsFresh_iff _ _ _).2 ⟨h3, hf, hpend, hcount, hp⟩)
      refine ⟨(hanswer _).trans h1, h2.of_unchanged ?_ (hreturn .pins (by decide)).2⟩
      exact ownWaiting_of_unchanged (hreturn .issued (by decide)) (hreturn .raised (by decide))
    · have hfalse : (s.dropUp i.up.tag).readsFresh i d = false := by
        rw [Bool.eq_false_iff, ne_eq, readsFresh_iff]
        rintro ⟨h3, hf, hpend, hcount, hp⟩
        rcases hnot with h | h | h | h | h | h
        · exact absurd (h ▸ hp) (by decide)
        · exact absurd (h ▸ hp) (by decide)
        · exact h hf
        · exact h h3
        · exact absurd (h.symm.trans hpend) (by decide)
        · exact h hcount
      rw [hkept hfalse] at hreturn hanswer ⊢
      exact ⟨hanswer, (onlyParts_dropUp s _).trans hreturn (by decide) (by decide)⟩
  · subst hk he
    have hexec := exec_answerStateRead (.error e) h hc
    rw [answerRead_error, readArrives_error] at hexec
    exact ⟨_, hexec, answered_complete _ _ _ ho,
      (onlyParts_dropUp s _).trans (onlyParts_complete _ _ _) (by decide) (by decide)⟩

end Sys2Proof.Machine
end


section
/-! Obligation O27: slot writes of a desk, and how a desk write is handed on. -/

namespace Sys2Proof.Machine

/-! ## What stands among the own requests -/

theorem mem_ownWaiting_refillOwn_iff (s : State) (q : OwnReq) : q ∈ s.refillOwn.ownWaiting ↔ q ∈ s.ownWaiting := by
  unfold State.refillOwn
  split
  next p ps hslot hraised =>
    simp only [State.ownWaiting, hslot, hraised, Option.toList_none, Option.toList_some, List.append_nil, List.mem_append,
      List.mem_cons, List.not_mem_nil, or_false]
    tauto
  next => rfl

/-- What stands after a request is raised: what stood, and the request. -/
theorem mem_ownWaiting_raise_iff (s : State) (t : OwnTag) (o : Nat) (b : OwnBody) (h : Option Nat) (q : OwnReq) :
    q ∈ (s.raise t o b h).ownWaiting ↔ q ∈ s.ownWaiting ∨ q = s.newOwn t o b h := by
  unfold State.raise
  rw [mem_ownWaiting_refillOwn_iff, countAnswer_ownWaiting]
  simp only [State.ownWaiting, List.mem_append, List.mem_singleton]
  tauto

/-! ## A desk write handed on (R12) -/

theorem writeBack_done (s : State) (i : IssuedUp) :
    (s.dropUp i.up.tag).writeBack i .done = ((s.handedOn i).handOn i.up).respond i.up.tag := rfl

theorem exec_write_done {s : State} {k : Nat} {i : IssuedUp} {c : Instr} {about : State → Request → Bool}
    (h : WriteDownstream s k i) (hk : i.up.tag = k) (hc : exec c s = .next (s.live (fun s => s.writeAnswered k .done about)))
    (ho : about s i.up.req = true) : exec c s = .next (((s.handedOn i).handOn i.up).respond k) := by
  subst hk
  rw [exec_writeAnswered h hc ho, writeBack_done]

theorem coversWord_congr {s t : State} (h : t.base = s.base) (w : Nat) (r : Request) : t.coversWord w r = s.coversWord w r := by
  simp only [State.coversWord, State.cells, h]

theorem noSetupWord_congr {s t : State} {r : Request} (h : t.base = s.base) (hn : NoSetupWord s r) : NoSetupWord t r := by
  simpa only [NoSetupWord, coversWord_congr h] using hn

/-- A write that covers no setup word is handed to Desk Capture alone. -/
theorem handOn_desk {s : State} {u : UpReq} (h : NoSetupWord s u.req) : s.handOn u = s.deskHandOn u :=
  setupHandOn_none (noSetupWord_congr (keeps_deskHandOn s u).base h)

theorem deskActs_iff (s : State) : s.deskActs = true ↔ s.loader.part ≠ .unset ∧ s.loader.part ≠ .starting := by
  rw [State.deskActs, decide_eq_true_eq]
  cases s.loader.part <;> decide

theorem deskHandOn_idle {s : State} (u : UpReq) (h : s.loader.part = .unset ∨ s.loader.part = .starting) : s.deskHandOn u = s := by
  have : s.deskActs = false := by
    rw [Bool.eq_false_iff, ne_eq, deskActs_iff]
    rcases h with h | h <;> simp [h]
  simp [State.deskHandOn, this]

/-- Where Desk Capture acts: the slot words, then the close word, then the cancel word (R54). -/
theorem deskHandOn_acts {s : State} (i : IssuedUp) (h1 : s.loader.part ≠ .unset) (h2 : s.loader.part ≠ .starting) :
    (s.handedOn i).deskHandOn i.up =
      if s.coversCancel i.up.req then (s.closeWordTaken i).cancelBatch i.up.req.stream i.up.tag else s.closeWordTaken i := by
  have hacts : (s.handedOn i).deskActs = true := (deskActs_iff s).2 ⟨h1, h2⟩
  simp only [State.deskHandOn, hacts, Bool.not_true, Bool.false_eq_true, if_false]
  rfl

theorem closeWordTaken_none {s : State} {i : IssuedUp} (h : countByte (s.deskCells i.up.req.stream i.up.req) = none) :
    s.closeWordTaken i = s.slotsTaken i := by simp only [State.closeWordTaken, h]

theorem closeWordTaken_some {s : State} {i : IssuedUp} {c : Nat}
    (h : countByte (s.deskCells i.up.req.stream i.up.req) = some c) :
    s.closeWordTaken i = (s.slotsTaken i).closeBatch i.up.req.stream c i.up.tag := by simp only [State.closeWordTaken, h]

theorem respond_waits {s : State} {k : Nat} (h : ∃ q ∈ s.ownWaiting, q.holds = some k) : s.respond k = s := by
  obtain ⟨q, hq, hh⟩ := h
  unfold State.respond
  rw [if_pos]
  rw [List.any_eq_true]
  exact ⟨q, hq, decide_eq_true hh⟩

theorem onlyParts_handedOn (s : State) (i : IssuedUp) : OnlyParts s (s.handedOn i) [.upstream, .memory] :=
  (onlyParts_dropUp s _).trans (onlyParts_mem _ _) (by decide) (by decide)

/-! ## Slot words taken -/

theorem flagAt_setIfInBounds (v : Vector Bool 64) (x w : Nat) (b : Bool) :
    flagAt (v.setIfInBounds x b) w = if x = w ∧ w < 64 then b else flagAt v w := by
  unfold flagAt
  rw [Vector.toList_setIfInBounds, List.getD_eq_getElem?_getD, List.getD_eq_getElem?_getD, List.getElem?_set]
  by_cases h : x = w
  · subst h
    by_cases hx : x < 64
    · simp [hx]
    · simp [hx]
  · simp [h]

theorem coveredIn_pos_iff (cells : List (Nat × Byte)) (w : Nat) : 0 < coveredIn cells w ↔ ∃ c ∈ cells, c.1 / 8 = w := by
  rw [coveredIn, List.length_pos_iff_exists_mem]
  simp

/-- The flags of a word after the words of a list were marked. -/
theorem markWords_flags (cells : List (Nat × Byte)) {w : Nat} (hw : w < 64) : ∀ (l : List (Nat × Byte)) (t : Stream),
    (∀ c, coveredIn cells w = 8 → c ∈ l → c.1 / 8 = w →
      flagAt (l.foldl (fun u c => markWord cells u (c.1 / 8)) t).written w = true) ∧
    ((coveredIn cells w ≠ 8 ∨ ∀ c ∈ l, c.1 / 8 ≠ w) →
      flagAt (l.foldl (fun u c => markWord cells u (c.1 / 8)) t).written w = flagAt t.written w) ∧
    (∀ c ∈ l, c.1 / 8 = w →
      flagAt (l.foldl (fun u c => markWord cells u (c.1 / 8)) t).torn w = decide (coveredIn cells w ≠ 8)) ∧
    ((∀ c ∈ l, c.1 / 8 ≠ w) →
      flagAt (l.foldl (fun u c => markWord cells u (c.1 / 8)) t).torn w = flagAt t.torn w)
  | [], t => ⟨fun c _ h => absurd h List.not_mem_nil, fun _ => rfl, fun c h => absurd h List.not_mem_nil, fun _ => rfl⟩
  | d :: l, t => by
    obtain ⟨h1, h2, h3, h4⟩ := markWords_flags cells hw l (markWord cells t (d.1 / 8))
    have hwritten : flagAt (markWord cells t (d.1 / 8)).written w =
        if d.1 / 8 = w ∧ coveredIn cells w = 8 then true else flagAt t.written w := by
      unfold markWord
      split
      next h8 =>
        rw [flagAt_setIfInBounds]
        by_cases hd : d.1 / 8 = w
        · rw [if_pos ⟨hd, hw⟩, if_pos ⟨hd, hd ▸ h8⟩]
        · rw [if_neg (fun h => hd h.1), if_neg (fun h => hd h.1)]
      next h8 => rw [if_neg]; rintro ⟨rfl, h⟩; exact h8 h
    have htorn : flagAt (markWord cells t (d.1 / 8)).torn w =
        if d.1 / 8 = w then decide (coveredIn cells w ≠ 8) else flagAt t.torn w := by
      unfold markWord
      split <;> rename_i h8 <;> rw [flagAt_setIfInBounds] <;> by_cases hd : d.1 / 8 = w
      · rw [if_pos ⟨hd, hw⟩, if_pos hd]; subst hd; simp [h8]
      · rw [if_neg (fun h => hd h.1), if_neg hd]
      · rw [if_pos ⟨hd, hw⟩, if_pos hd]; subst hd; simp [h8]
      · rw [if_neg (fun h => hd h.1), if_neg hd]
    rw [List.foldl_cons]
    refine ⟨fun c h8 hc hcw => ?_, fun h => ?_, fun c hc hcw => ?_, fun h => ?_⟩
    · by_cases hl : ∃ e ∈ l, e.1 / 8 = w
      · obtain ⟨e, he, hew⟩ := hl
        exact h1 e h8 he hew
      · have hd : d.1 / 8 = w := by
          rcases List.mem_cons.1 hc with rfl | hc
          · exact hcw
          · exact absurd ⟨c, hc, hcw⟩ hl
        rw [h2 (.inr (fun e he hew => hl ⟨e, he, hew⟩)), hwritten, if_pos ⟨hd, h8⟩]
    · rw [h2 (h.imp_right (fun h e he => h e (List.mem_cons_of_mem _ he))), hwritten, if_neg]
      rintro ⟨hd, h8⟩
      exact h.elim (fun h => h h8) (fun h => h d List.mem_cons_self hd)
    · by_cases hl : ∃ e ∈ l, e.1 / 8 = w
      · obtain ⟨e, he, hew⟩ := hl
        exact h3 e he hew
      · rw [h4 (fun e he hew => hl ⟨e, he, hew⟩), htorn, if_pos]
        rcases List.mem_cons.1 hc with rfl | hc
        · exact hcw
        · exact absurd ⟨c, hc, hcw⟩ hl
    · rw [h4 (fun e he => h e (List.mem_cons_of_mem _ he)), htorn, if_neg (h d List.mem_cons_self)]

/-- The marks touch no field but the two flag vectors. -/
theorem markWords_rest (cells : List (Nat × Byte)) (z : Vector Bool 64) : ∀ (l : List (Nat × Byte)) (t : Stream),
    { l.foldl (fun u c => markWord cells u (c.1 / 8)) t with written := z, torn := z } = { t with written := z, torn := z }
  | [], _ => rfl
  | d :: l, t => by
    rw [List.foldl_cons, markWords_rest cells z l]
    unfold markWord
    split <;> rfl

/-- The entry of a stream whose slot words were taken: the batch collects, and all but its capture is as it was. -/
def Stream.collects (t : Stream) (cells : List (Nat × Byte)) : Stream :=
  (takeWords cells { (if t.batch = .idle then t.batchIdle else t) with batch := .collecting, collectTimer := some 0 }).settled

theorem takeWords_captured (cells : List (Nat × Byte)) (t : Stream) :
    (takeWords cells t).captured = cells.foldl (fun m c => Memory.write m c.1 c.2) t.captured :=
  congrArg Stream.captured (markWords_rest cells t.written cells _)

theorem takeWords_rest (cells : List (Nat × Byte)) (t : Stream) (m : Memory) (z : Vector Bool 64) :
    { takeWords cells t with captured := m, written := z, torn := z } = { t with captured := m, written := z, torn := z } :=
  congrArg (fun x : Stream => { x with captured := m }) (markWords_rest cells z cells _)

theorem slotWrite_opens {s : State} {n : StreamId} (cells : List (Nat × Byte))
    (h : (s.stream n).batch = .idle ∨ (s.stream n).batch = .collecting) :
    (s.slotWrite n cells).stream n = (s.stream n).collects cells := by
  rcases h with h | h
  · simp only [State.slotWrite, h, stream_updStream_self, Stream.collects, if_true]
  · simp only [State.slotWrite, h, stream_updStream_self, Stream.collects, reduceCtorEq, if_false]

theorem slotWrite_untaken {s : State} {n : StreamId} (cells : List (Nat × Byte))
    (h : (s.stream n).batch = .queued ∨ (s.stream n).batch = .settling) : s.slotWrite n cells = s := by
  rcases h with h | h <;> simp only [State.slotWrite, h]

theorem onlyParts_slotWrite (s : State) (n : StreamId) (cells : List (Nat × Byte)) :
    OnlyParts s (s.slotWrite n cells) [.streams] := by
  unfold State.slotWrite
  split
  · exact onlyParts_updStream s n _
  · exact onlyParts_updStream s n _
  · exact OnlyParts.refl s _
  · exact OnlyParts.refl s _

theorem path_slotWrite (s : State) (n : StreamId) (cells : List (Nat × Byte)) : (s.slotWrite n cells).path = s.path := by
  unfold State.slotWrite
  split <;> rfl

theorem onlyStreams_slotWrite (s : State) (n : StreamId) (cells : List (Nat × Byte)) :
    OnlyStreams s (s.slotWrite n cells) [n] := fun m hm => by
  have hne : m ≠ n := by simpa using hm
  unfold State.slotWrite
  split
  · exact stream_updStream_ne s hne _
  · exact stream_updStream_ne s hne _
  · rfl
  · rfl

/-- All that the capture of slot words leaves of an entry. -/
theorem collects_shown (t : Stream) (cells : List (Nat × Byte)) : (t.collects cells).session = t.session ∧
    (t.collects cells).answer = t.answer ∧ (t.collects cells).guardHits = t.guardHits ∧
    (t.collects cells).batch = .collecting ∧ (t.collects cells).collectTimer = some 0 ∧ (t.collects cells).idleTimer = none ∧
    (t.collects cells).answersRaised = t.answersRaised ∧
    (t.session ≠ .off → (t.collects cells).checkFails = t.checkFails) := by
  have hrest := takeWords_rest cells
    { (if t.batch = .idle then t.batchIdle else t) with batch := .collecting, collectTimer := some 0 } [] t.written
  have hsession := congrArg Stream.session hrest
  have hbatch := congrArg Stream.batch hrest
  have hfails := congrArg Stream.checkFails hrest
  have hbase : ∀ {α : Type} (f : Stream → α), f t.batchIdle = f t → f (if t.batch = .idle then t.batchIdle else t) = f t :=
    fun f h => by split <;> simp [h]
  refine ⟨hsession.trans (hbase Stream.session rfl), (congrArg Stream.answer hrest).trans (hbase Stream.answer rfl),
    (congrArg Stream.guardHits hrest).trans (hbase Stream.guardHits rfl), hbatch, congrArg Stream.collectTimer hrest, ?_,
    (congrArg Stream.answersRaised hrest).trans (hbase Stream.answersRaised rfl), fun hoff => ?_⟩
  · simp only [Stream.collects, Stream.settled]
    rw [if_neg]
    rw [show (takeWords cells _).batch = _ from hbatch]
    simp
  · have hs : (takeWords cells { (if t.batch = .idle then t.batchIdle else t) with
      batch := .collecting, collectTimer := some 0 }).session = t.session := hsession.trans (hbase Stream.session rfl)
    simp only [Stream.collects, Stream.settled, hs, if_neg hoff]
    exact hfails.trans (hbase Stream.checkFails rfl)

theorem collects_captured (t : Stream) (cells : List (Nat × Byte)) : (t.collects cells).captured =
    cells.foldl (fun m c => Memory.write m c.1 c.2) (if t.batch = .idle then [] else t.captured) := by
  rw [Stream.collects, settled_captured, takeWords_captured]
  split <;> rfl

theorem collects_flags (t : Stream) (cells : List (Nat × Byte)) {w : Nat} (hw : w < 64) :
    (coveredIn cells w = 8 → flagAt (t.collects cells).written w = true ∧ flagAt (t.collects cells).torn w = false) ∧
    (0 < coveredIn cells w → coveredIn cells w ≠ 8 → flagAt (t.collects cells).torn w = true) ∧
    (coveredIn cells w ≠ 8 →
      flagAt (t.collects cells).written w = (if t.batch = .idle then false else flagAt t.written w)) ∧
    (coveredIn cells w = 0 →
      flagAt (t.collects cells).torn w = (if t.batch = .idle then false else flagAt t.torn w)) := by
  obtain ⟨h1, h2, h3, h4⟩ := markWords_flags cells hw cells
    { (if t.batch = .idle then t.batchIdle else t) with
      batch := .collecting, collectTimer := some 0
      captured := cells.foldl (fun m c => Memory.write m c.1 c.2) (if t.batch = .idle then t.batchIdle else t).captured }
  refine ⟨fun h8 => ?_, fun h0 h8 => ?_, fun h8 => ?_, fun h0 => ?_⟩
  · obtain ⟨c, hc, hcw⟩ := (coveredIn_pos_iff cells w).1 (by omega)
    exact ⟨h1 c h8 hc hcw, (h3 c hc hcw).trans (by simp [h8])⟩
  · obtain ⟨c, hc, hcw⟩ := (coveredIn_pos_iff cells w).1 h0
    exact (h3 c hc hcw).trans (by simp [h8])
  · refine (h2 (.inl h8)).trans ?_
    split
    · exact flagAt_replicate_false w
    · rfl
  · have hno : ∀ c ∈ cells, c.1 / 8 ≠ w := fun c hc he => by
      have := (coveredIn_pos_iff cells w).2 ⟨c, hc, he⟩
      omega
    refine (h4 hno).trans ?_
    split
    · exact flagAt_replicate_false w
    · rfl

/-! ## The state when the slot words were taken -/

theorem slotsTaken_write {s : State} {i : IssuedUp} (h : (s.slotCells i.up.req).isEmpty = false) :
    s.slotsTaken i = (s.handedOn i).slotWrite i.up.req.stream (s.slotCells i.up.req) := if_neg (by rw [h]; decide)

theorem slotsTaken_none {s : State} {i : IssuedUp} (h : (s.slotCells i.up.req).isEmpty = true) :
    s.slotsTaken i = s.handedOn i := if_pos h

theorem slotCells_nonempty {s : State} {r : Request} (h : s.coversSlots r = true) : (s.slotCells r).isEmpty = false := by
  rw [State.coversSlots, Bool.and_eq_true, List.any_eq_true] at h
  obtain ⟨-, c, hc, hp⟩ := h
  rw [Bool.eq_false_iff, ne_eq, List.isEmpty_iff]
  intro he
  exact absurd (List.mem_filter.2 ⟨hc, hp⟩) (by rw [State.slotCells] at he; rw [he]; exact List.not_mem_nil)

theorem path_slotsTaken (s : State) (i : IssuedUp) : (s.slotsTaken i).path = (s.handedOn i).path := by
  unfold State.slotsTaken
  split
  · rfl
  · exact path_slotWrite _ _ _

theorem onlyParts_slotsTaken (s : State) (i : IssuedUp) : OnlyParts s (s.slotsTaken i) [.upstream, .memory, .streams] := by
  cases h : (s.slotCells i.up.req).isEmpty
  · rw [slotsTaken_write h]
    exact (onlyParts_handedOn s i).trans (onlyParts_slotWrite _ _ _) (by decide) (by decide)
  · rw [slotsTaken_none h]
    exact (onlyParts_handedOn s i).mono (by decide)

theorem slotsTaken_mem (s : State) (i : IssuedUp) : (s.slotsTaken i).mem = s.mem.writeLanes i.up.req.start i.up.req.lanes := by
  cases h : (s.slotCells i.up.req).isEmpty
  · rw [slotsTaken_write h, onlyParts_slotWrite _ _ _ .memory (by decide)]; rfl
  · rw [slotsTaken_none h]; rfl

theorem onlyStreams_slotsTaken (s : State) (i : IssuedUp) : OnlyStreams s (s.slotsTaken i) [i.up.req.stream] := by
  cases h : (s.slotCells i.up.req).isEmpty
  · rw [slotsTaken_write h]; exact onlyStreams_slotWrite (s.handedOn i) _ _
  · rw [slotsTaken_none h]; exact fun _ _ => rfl

theorem ownWaiting_slotsTaken (s : State) (i : IssuedUp) : (s.slotsTaken i).ownWaiting = s.ownWaiting :=
  ownWaiting_of_unchanged (onlyParts_slotsTaken s i .issued (by decide)) (onlyParts_slotsTaken s i .raised (by decide))

theorem outstanding_slotsTaken (s : State) (i : IssuedUp) : (s.slotsTaken i).path.outstanding = s.path.outstanding := by
  rw [path_slotsTaken]; rfl

/-- Settles O27: a slot write by the batch it meets. -/
theorem slotWriteIsCaptured : Obligations.SlotWriteIsCaptured := by
  unfold Obligations.SlotWriteIsCaptured
  intro s k i h hk hslots hclose hcancel hsetup hown hout
  have hexec := exec_write_done h hk (c := .entrySlotWrite k .done) rfl hslots
  have hcells := slotCells_nonempty hslots
  rw [handOn_desk (s := s.handedOn i) hsetup] at hexec
  by_cases hp : s.loader.part = .unset ∨ s.loader.part = .starting
  · rw [deskHandOn_idle (s := s.handedOn i) i.up hp, respond_free (s := s.handedOn i) hown] at hexec
    refine ⟨_, hexec, (onlyParts_handedOn s i).trans (onlyParts_complete _ _ _) (by decide) (by decide), fun _ _ => rfl, rfl,
      answered_complete _ _ _ hout, fun _ => rfl, fun h1 h2 => ?_⟩
    exact absurd hp (not_or.2 ⟨h1, h2⟩)
  · obtain ⟨h1, h2⟩ := not_or.1 hp
    rw [deskHandOn_acts i h1 h2, hcancel, if_neg Bool.false_ne_true, closeWordTaken_none (countByte_none h.2.2.2 hclose),
      respond_free (by rw [NoOwnWriteHolds, ownWaiting_slotsTaken]; exact hown)] at hexec
    refine ⟨_, hexec, (onlyParts_slotsTaken s i).trans (onlyParts_complete _ _ _) (by decide) (by decide),
      onlyStreams_slotsTaken s i, slotsTaken_mem s i, answered_complete _ _ _ (by rw [outstanding_slotsTaken]; exact hout),
      fun hb => ?_, fun _ _ hb => ?_⟩
    · have hb' := hb.resolve_left h1 |>.resolve_left h2
      change (s.slotsTaken i).streams = _
      rw [slotsTaken_write hcells, slotWrite_untaken (s := s.handedOn i) _ hb']
      rfl
    · have hstream : (s.slotsTaken i).stream i.up.req.stream = (s.stream i.up.req.stream).collects (s.slotCells i.up.req) := by
        rw [slotsTaken_write hcells]
        exact slotWrite_opens (s := s.handedOn i) _ hb
      obtain ⟨hsession, hanswer, hhits, hbatch, htimer, hidle, -, -⟩ :=
        collects_shown (s.stream i.up.req.stream) (s.slotCells i.up.req)
      have hv : ((s.slotsTaken i).complete k ⟨true, []⟩).stream i.up.req.stream =
          (s.stream i.up.req.stream).collects (s.slotCells i.up.req) := hstream
      rw [hv]
      exact ⟨hbatch, htimer, hidle, hsession, hanswer, hhits, collects_captured _ _, fun w hw => collects_flags _ _ hw⟩

end Sys2Proof.Machine
end


section
/-! Obligations O28, O29, O31: closes and cancels of a desk, and the expiry of its timers. -/

namespace Sys2Proof.Machine

/-! ## The FRESH and WAITING answers -/

/-- An entry whose answer was written: the answer state, and one more answer write. -/
def Stream.answers (x : Stream) (a : AnswerState) : Stream :=
  ({ ({ x with answer := a } : Stream).settled with answersRaised := x.answersRaised + 1 } : Stream).settled

theorem answers_settled {x : Stream} (h : x.settled = x) (a : AnswerState) :
    x.answers a = { x with answer := a, answersRaised := x.answersRaised + 1 } := by
  have h1 : ({ x with answer := a } : Stream).settled = { x with answer := a } := settled_of_same h rfl rfl rfl rfl rfl
  rw [Stream.answers, h1]
  exact settled_of_same h rfl rfl rfl rfl rfl

/-- Raising an answer of a stream, its state set before. -/
theorem stream_setRaiseAnswer (s : State) (n : StreamId) (a : AnswerState) (tag : OwnTag) (ht : tag.answerOf = some n)
    (ls : List Lane) (h : Option Nat) (m : StreamId) :
    ((s.updStream n (fun t => { t with answer := a })).raiseAnswer n tag ls h).stream m =
      if m = n then (s.stream n).answers a else s.stream m := by
  rw [stream_raiseAnswer, stream_updStream, ht]
  by_cases hm : m = n
  · subst hm; simp [Stream.answers]
  · rw [if_neg (by simpa using Ne.symm hm), if_neg hm, if_neg hm]

theorem stream_answerFresh (s : State) (n : StreamId) (r : BatchResult) (c : Nat) (h : Option Nat) (m : StreamId) :
    (s.answerFresh n r c h).stream m = if m = n then (s.stream n).answers .fresh else s.stream m :=
  stream_setRaiseAnswer s n .fresh (.answer n) rfl _ h m

theorem stream_answerWaiting (s : State) (n : StreamId) (c : Nat) (h : Option Nat) (m : StreamId) :
    (s.answerWaiting n c h).stream m = if m = n then (s.stream n).answers .waiting else s.stream m :=
  stream_setRaiseAnswer s n .waiting (.answer n) rfl _ h m

theorem grows_answerFresh (s : State) (n : StreamId) (r : BatchResult) (c : Nat) (h : Option Nat) :
    Grows s (s.answerFresh n r c h) [.raised, .streams] := (grows_updStream s n _).mono.andThen (grows_raiseAnswer _ n _ _ _)

theorem grows_answerWaiting (s : State) (n : StreamId) (c : Nat) (h : Option Nat) :
    Grows s (s.answerWaiting n c h) [.raised, .streams] := (grows_updStream s n _).mono.andThen (grows_raiseAnswer _ n _ _ _)

theorem onlyStreams_answerFresh (s : State) (n : StreamId) (r : BatchResult) (c : Nat) (h : Option Nat) :
    OnlyStreams s (s.answerFresh n r c h) [n] := fun m hm => by
  rw [stream_answerFresh, if_neg (by simpa using hm)]

theorem awaits_answerFresh (s : State) (n : StreamId) (r : BatchResult) (h : Option Nat) :
    Awaits (s.answerFresh n r 0 h) (.answer n) (deskAddr n Config.answerOff)
      (.write (lanesOf ([3] ++ leBytes 1 r.code ++ [0]) ++ [noLane] ++ lanesOf (leBytes 2 (s.stream n).guardHits))) :=
  awaits_raiseAnswer _ n _ _ h

theorem answersFresh_answerFresh (s : State) (n : StreamId) (r : BatchResult) (h : Option Nat) :
    AnswersFresh (s.answerFresh n r 0 h) n r (s.stream n).guardHits := by
  refine ⟨?_, awaits_answerFresh s n r h⟩
  rw [stream_answerFresh, if_pos rfl]
  rfl

/-- The answer write holds the response it was raised for. -/
theorem answerFresh_holds (s : State) (n : StreamId) (r : BatchResult) (c k : Nat) :
    ∃ q ∈ (s.answerFresh n r c (some k)).ownWaiting, q.holds = some k := by
  obtain ⟨q, hq, -, -, -, hh⟩ := mem_raiseAnswer (s.updStream n (fun t => { t with answer := .fresh })) n (.answer n)
    (freshLanes r c (s.stream n).guardHits) (some k)
  exact ⟨q, hq, hh⟩

theorem answerWaiting_holds (s : State) (n : StreamId) (c k : Nat) :
    ∃ q ∈ (s.answerWaiting n c (some k)).ownWaiting, q.holds = some k := by
  obtain ⟨q, hq, -, -, -, hh⟩ := mem_raiseAnswer (s.updStream n (fun t => { t with answer := .waiting })) n (.answer n)
    (waitingLanes c (s.stream n).guardHits) (some k)
  exact ⟨q, hq, hh⟩

theorem awaits_answerWaiting (s : State) (n : StreamId) (c : Nat) (h : Option Nat) :
    Awaits (s.answerWaiting n c h) (.answer n) (deskAddr n Config.answerOff)
      (.write (lanesOf [1] ++ [noLane] ++ lanesOf (leBytes 1 c) ++ [noLane] ++
        lanesOf (leBytes 2 (s.stream n).guardHits))) :=
  awaits_raiseAnswer _ n _ _ h

theorem Grows.responseWaits {s t : State} {ps : List Part} {k : Nat} (h : Grows s t ps)
    (hq : ∃ q ∈ t.ownWaiting, q.holds = some k) (hu : Part.upstream ∉ ps := by decide) : ResponseWaits s t k := by
  obtain ⟨-, -, -, -, -, hout, hret⟩ := h.parts .upstream hu
  exact ⟨hq, hout, hret⟩

/-! ## A batch discarded (R53, R58) -/

theorem batchIsIdle_batchIdle (x : Stream) : BatchIsIdle x.batchIdle :=
  ⟨rfl, rfl, fun w => ⟨flagAt_replicate_false w, flagAt_replicate_false w⟩, rfl, rfl, rfl⟩

/-- A discarded batch, its stream's entry settled: all fields but those of the batch are the stream's. -/
theorem batchIdle_settled_idle (x : Stream) : BatchIsIdle x.batchIdle.settled ∧
    (∀ p, x.session = .claimed p → x.batchIdle.settled.idleTimer = some 0) :=
  ⟨batchIsIdle_batchIdle x, fun p hp => by simp [Stream.settled, Stream.batchIdle, hp, Session.isClaimed]⟩

/-- A batch discarded and answered. -/
theorem stream_endAnswer (s : State) (n : StreamId) (r : BatchResult) (c : Nat) (h : Option Nat) :
    ((s.endBatch n).answerFresh n r c h).stream n =
      { (s.stream n).batchIdle.settled with answer := .fresh, answersRaised := (s.stream n).answersRaised + 1 } := by
  rw [stream_answerFresh, if_pos rfl, State.endBatch, stream_updStream_self, answers_settled (settled_settled _)]
  rfl

theorem grows_endAnswer (s : State) (n : StreamId) (r : BatchResult) (c : Nat) (h : Option Nat) :
    Grows s ((s.endBatch n).answerFresh n r c h) [.raised, .streams] :=
  (grows_updStream s n _).mono.andThen (grows_answerFresh _ n r c h)

theorem onlyStreams_endAnswer (s : State) (n : StreamId) (r : BatchResult) (c : Nat) (h : Option Nat) :
    OnlyStreams s ((s.endBatch n).answerFresh n r c h) [n] :=
  onlyStreams_trans (fun _ hm => stream_updStream_ne s (by simpa using hm) _) (onlyStreams_answerFresh _ n r c h)

/-- A batch discarded and answered: IDLE, FRESH, and a CLAIMED stream's idle timer from zero. -/
theorem endAnswer_spec (s : State) (n : StreamId) (r : BatchResult) (h : Option Nat) :
    BatchIsIdle (((s.endBatch n).answerFresh n r 0 h).stream n) ∧
      AnswersFresh ((s.endBatch n).answerFresh n r 0 h) n r (s.stream n).guardHits ∧
      (∀ p, (((s.endBatch n).answerFresh n r 0 h).stream n).session = .claimed p →
        (((s.endBatch n).answerFresh n r 0 h).stream n).idleTimer = some 0) ∧
      (((s.endBatch n).answerFresh n r 0 h).stream n).session = (s.stream n).session := by
  have hhits : ((s.endBatch n).stream n).guardHits = (s.stream n).guardHits := by
    rw [State.endBatch, stream_updStream_self]; rfl
  have hfresh := answersFresh_answerFresh (s.endBatch n) n r h
  rw [hhits] at hfresh
  obtain ⟨hidle, htimer⟩ := batchIdle_settled_idle (s.stream n)
  rw [stream_endAnswer]
  exact ⟨hidle, hfresh, htimer, rfl⟩

/-! ## The session word -/

theorem sessionWord_head? (s : State) (n : StreamId) : (s.sessionWord n).head? = some (BitVec.ofNat 8 (s.stream n).session.code) := by
  simp [State.sessionWord, encodeSessionWord, leBytes]

/-- Sessions of different codes show different words. -/
theorem sessionWord_ne {s t : State} {n : StreamId} (h : BitVec.ofNat 8 (t.stream n).session.code ≠ BitVec.ofNat 8 (s.stream n).session.code) :
    t.sessionWord n ≠ s.sessionWord n := fun he => h (by
  have := congrArg List.head? he
  rwa [sessionWord_head?, sessionWord_head?, Option.some.injEq] at this)

theorem grows_changeSession (s : State) (n : StreamId) (f : Stream → Stream) (h : Option Nat) :
    Grows s (s.changeSession n f h) [.raised, .streams] :=
  Grows.ite (grows_updStream s n f).mono ((grows_updStream s n f).mono.andThen (grows_raiseWrite _ _ _ _ _))

theorem stream_changeSession (s : State) (n : StreamId) (f : Stream → Stream) (h : Option Nat) (m : StreamId) :
    (s.changeSession n f h).stream m = (s.updStream n f).stream m := by
  unfold State.changeSession
  split
  · rfl
  · exact stream_of_streams_eq (raise_streams _ _ _ _ _ rfl) m

theorem onlyStreams_changeSession (s : State) (n : StreamId) (f : Stream → Stream) (h : Option Nat) :
    OnlyStreams s (s.changeSession n f h) [n] := fun m hm => by
  rw [stream_changeSession]
  exact stream_updStream_ne s (by simpa using hm) f

/-- A session that changes its code has its word raised. -/
theorem changeSession_raised {s : State} {n : StreamId} {f : Stream → Stream} {h : Option Nat}
    (hne : BitVec.ofNat 8 (f (s.stream n)).session.code ≠ BitVec.ofNat 8 (s.stream n).session.code) :
    SessionWordRaised (s.changeSession n f h) n := by
  have hword : (s.updStream n f).sessionWord n ≠ s.sessionWord n := sessionWord_ne (by simpa using hne)
  have hraise : s.changeSession n f h = (s.updStream n f).raiseSession n h := if_neg hword
  have hsame : (s.changeSession n f h).sessionWord n = (s.updStream n f).sessionWord n := by
    refine sessionWord_congr (by rw [stream_changeSession]) ?_
    rw [(grows_changeSession s n f h).parts .loader (by decide)]
    rfl
  rw [SessionWordRaised, hsame, hraise]
  exact awaits_raiseWrite _ _ _ _ _

/-- The word raised stands while the session and the Setup Loader do. -/
theorem SessionWordRaised.grows {s t : State} {n : StreamId} {ps : List Part} (h : SessionWordRaised s n) (hg : Grows s t ps)
    (hs : (t.stream n).session = (s.stream n).session) (hl : Part.loader ∉ ps := by decide) : SessionWordRaised t n := by
  have hword : t.sessionWord n = s.sessionWord n := sessionWord_congr hs (by rw [hg.parts .loader hl])
  rw [SessionWordRaised, hword]
  exact Awaits.grows h hg

/-! ## A close refused (R48, R49, R58) -/

/-- The check-failure count after one more refusal. -/
def Stream.nextFails (x : Stream) : Nat := min (x.checkFails + 1) 15

theorem checkRefusal_off {s : State} {n : StreamId} (h : (s.stream n).session = .off) (k : Option Nat) :
    s.checkRefusal n k = s := by simp [State.checkRefusal, h]

theorem checkRefusal_bars {s : State} {n : StreamId} (h : (s.stream n).session ≠ .off) (hl : s.checkLimit ≤ (s.stream n).nextFails)
    (k : Option Nat) : s.checkRefusal n k =
      s.changeSession n (fun t => { t with session := .barred, checkFails := (s.stream n).nextFails }) k := by
  unfold State.checkRefusal
  rw [if_neg h]
  exact if_pos hl

theorem checkRefusal_counts {s : State} {n : StreamId} (h : (s.stream n).session ≠ .off)
    (hl : ¬ s.checkLimit ≤ (s.stream n).nextFails) (k : Option Nat) :
    s.checkRefusal n k = s.updStream n (fun t => { t with checkFails := (s.stream n).nextFails }) := by
  unfold State.checkRefusal
  rw [if_neg h]
  exact if_neg hl

theorem grows_checkRefusal (s : State) (n : StreamId) (k : Option Nat) : Grows s (s.checkRefusal n k) [.raised, .streams] :=
  Grows.ite (Grows.refl s _) (Grows.ite (grows_changeSession s n _ k) (grows_updStream s n _).mono)

theorem onlyStreams_checkRefusal (s : State) (n : StreamId) (k : Option Nat) : OnlyStreams s (s.checkRefusal n k) [n] := by
  by_cases h : (s.stream n).session = .off
  · rw [checkRefusal_off h]; exact fun _ _ => rfl
  · by_cases hl : s.checkLimit ≤ (s.stream n).nextFails
    · rw [checkRefusal_bars h hl]; exact onlyStreams_changeSession s n _ k
    · rw [checkRefusal_counts h hl]; exact fun m hm => stream_updStream_ne s (by simpa using hm) _

theorem checkRefusal_guardHits (s : State) (n : StreamId) (k : Option Nat) :
    ((s.checkRefusal n k).stream n).guardHits = (s.stream n).guardHits := by
  by_cases h : (s.stream n).session = .off
  · rw [checkRefusal_off h]
  · by_cases hl : s.checkLimit ≤ (s.stream n).nextFails
    · rw [checkRefusal_bars h hl, stream_changeSession, stream_updStream_self]; rfl
    · rw [checkRefusal_counts h hl, stream_updStream_self]; rfl

/-- A CHECK refusal of a stream that is not OFF: the count rises, and the session is BARRED at the limit. -/
theorem checkRefusal_entry {s : State} {n : StreamId} (h : (s.stream n).session ≠ .off) (k : Option Nat) :
    ((s.checkRefusal n k).stream n).checkFails = (s.stream n).nextFails ∧
      ((s.checkRefusal n k).stream n).session =
        (if s.checkLimit ≤ (s.stream n).nextFails then .barred else (s.stream n).session) := by
  by_cases hl : s.checkLimit ≤ (s.stream n).nextFails
  · rw [checkRefusal_bars h hl, stream_changeSession, stream_updStream_self, if_pos hl]
    exact ⟨by simp [Stream.settled], rfl⟩
  · rw [checkRefusal_counts h hl, stream_updStream_self, if_neg hl]
    exact ⟨by simp [Stream.settled, h], rfl⟩

theorem session_code_barred {x : Session} (h : x ≠ .barred) :
    BitVec.ofNat 8 Session.barred.code ≠ BitVec.ofNat 8 x.code := by
  have hcodes : ∀ c < 3, BitVec.ofNat 8 3 ≠ BitVec.ofNat 8 c := by decide
  cases x with
  | barred => exact absurd rfl h
  | off => exact hcodes 0 (by decide)
  | vacant => exact hcodes 1 (by decide)
  | claimed p => exact hcodes 2 (by decide)

theorem closeBatch_refused {s : State} {n : StreamId} {c k : Nat} {r : BatchResult} (h : s.closeVerdict n c = .refused r) :
    s.closeBatch n c k = s.closeRefused n r k := by simp only [State.closeBatch, h]

theorem closeBatch_ignored {s : State} {n : StreamId} {c k : Nat} (h : s.closeVerdict n c = .ignored) :
    s.closeBatch n c k = s.guardHit n := by simp only [State.closeBatch, h]

theorem closeBatch_taken {s : State} {n : StreamId} {c k : Nat} (h : s.closeVerdict n c = .taken) :
    s.closeBatch n c k = s.closeTaken n c k := by simp only [State.closeBatch, h]

/-- The state a refused close ends the batch in: the count moved first, when the refusal is CHECK. -/
def State.refusalCounted (s : State) (n : StreamId) (r : BatchResult) (k : Nat) : State :=
  if r = .check then s.checkRefusal n (some k) else s

theorem closeRefused_eq (s : State) (n : StreamId) (r : BatchResult) (k : Nat) :
    s.closeRefused n r k = ((s.refusalCounted n r k).endBatch n).answerFresh n r 0 (some k) := rfl

theorem grows_refusalCounted (s : State) (n : StreamId) (r : BatchResult) (k : Nat) :
    Grows s (s.refusalCounted n r k) [.raised, .streams] := Grows.ite (grows_checkRefusal s n _) (Grows.refl s _)

theorem onlyStreams_refusalCounted (s : State) (n : StreamId) (r : BatchResult) (k : Nat) :
    OnlyStreams s (s.refusalCounted n r k) [n] := by
  unfold State.refusalCounted
  split
  · exact onlyStreams_checkRefusal s n _
  · exact fun _ _ => rfl

theorem refusalCounted_guardHits (s : State) (n : StreamId) (r : BatchResult) (k : Nat) :
    ((s.refusalCounted n r k).stream n).guardHits = (s.stream n).guardHits := by
  unfold State.refusalCounted
  split
  · exact checkRefusal_guardHits s n _
  · rfl

/-- The entry where a refusal moves no count. -/
theorem refusalCounted_same {s : State} {n : StreamId} {r : BatchResult} (k : Nat) (h : r ≠ .check ∨ (s.stream n).session = .off) :
    s.refusalCounted n r k = s := by
  unfold State.refusalCounted
  split
  next hr => exact checkRefusal_off (h.resolve_left (not_not.2 hr)) _
  next => rfl

theorem closeRefused_spec (s : State) (n : StreamId) (r : BatchResult) (k : Nat) :
    Grows s (s.closeRefused n r k) [.raised, .streams] ∧ OnlyStreams s (s.closeRefused n r k) [n] ∧
      (∃ q ∈ (s.closeRefused n r k).ownWaiting, q.holds = some k) := by
  rw [closeRefused_eq]
  exact ⟨(grows_refusalCounted s n r k).andThen (grows_endAnswer _ n r 0 _),
    onlyStreams_trans (onlyStreams_refusalCounted s n r k) (onlyStreams_endAnswer _ n r 0 _), answerFresh_holds _ n r 0 k⟩

/-- The discarded entry's count, session and watches are those the refusal left, settled. -/
theorem closeRefused_entry (s : State) (n : StreamId) (r : BatchResult) (k : Nat) :
    (s.closeRefused n r k).stream n =
      { ((s.refusalCounted n r k).stream n).batchIdle.settled with
        answer := .fresh, answersRaised := ((s.refusalCounted n r k).stream n).answersRaised + 1 } := by
  rw [closeRefused_eq, stream_endAnswer]

theorem closeRefused_bars {s : State} {n : StreamId} {k : Nat} (h : (s.stream n).session ≠ .off)
    (hb : (s.stream n).session ≠ .barred) (hl : s.checkLimit ≤ (s.stream n).nextFails) :
    ((s.closeRefused n .check k).stream n).session = .barred ∧ ((s.closeRefused n .check k).stream n).watches = [] ∧
      ((s.closeRefused n .check k).stream n).idleTimer = none ∧ SessionWordRaised (s.closeRefused n .check k) n := by
  have hsession : ((s.checkRefusal n (some k)).stream n).session = .barred := by
    rw [(checkRefusal_entry h (some k)).2, if_pos hl]
  have hcounted : s.refusalCounted n .check k = s.checkRefusal n (some k) := if_pos rfl
  have hraised : SessionWordRaised (s.checkRefusal n (some k)) n := by
    rw [checkRefusal_bars h hl]
    exact changeSession_raised (session_code_barred hb)
  have hentry := closeRefused_entry s n .check k
  rw [hcounted] at hentry
  have hdone : ((s.closeRefused n .check k).stream n).session = .barred := by rw [hentry]; exact hsession
  refine ⟨hdone, ?_, ?_, ?_⟩
  · rw [hentry]; simp [Stream.settled, Stream.batchIdle, hsession, Session.isClaimed]
  · rw [hentry]; simp [Stream.settled, Stream.batchIdle, hsession, Session.isClaimed]
  · rw [closeRefused_eq, hcounted] at hdone ⊢
    exact hraised.grows (grows_endAnswer _ n .check 0 _) (by rw [hdone, hsession])

/-! ## A close taken (R59) -/

/-- The entry of a stream whose batch joins the Commit Queue. -/
def Stream.queues (x : Stream) (c : Nat) : Stream :=
  { x with checkFails := 0, collectTimer := none, closedCount := c, cancelAsked := false, batch := .queued }

/-- The batch of a close taken stands at the tail of the Commit Queue. -/
def State.closeQueued (s : State) (n : StreamId) (c : Nat) : State :=
  { s.updStream n (fun t => t.queues c) with queue := s.queue ++ [n] }

theorem closeTaken_eq (s : State) (n : StreamId) (c k : Nat) :
    s.closeTaken n c k = (s.closeQueued n c).answerWaiting n c (some k) := rfl

theorem stream_closeQueued (s : State) (n : StreamId) (c : Nat) (m : StreamId) : (s.closeQueued n c).stream m =
    if m = n then ((s.stream n).queues c).settled else s.stream m := stream_updStream s m n (fun t => t.queues c)

theorem grows_closeQueued (s : State) (n : StreamId) (c : Nat) : Grows s (s.closeQueued n c) [.streams, .commitQueue] :=
  ((grows_updStream s n fun t => t.queues c).mono : Grows s _ [.streams, .commitQueue]).andThen
    (onlyParts_queue _ (s.queue ++ [n])).grows

theorem closeTaken_spec (s : State) (n : StreamId) (c k : Nat) :
    Grows s (s.closeTaken n c k) [.raised, .streams, .commitQueue] ∧ OnlyStreams s (s.closeTaken n c k) [n] ∧
      (∃ q ∈ (s.closeTaken n c k).ownWaiting, q.holds = some k) ∧ (s.closeTaken n c k).queue = s.queue ++ [n] ∧
      Awaits (s.closeTaken n c k) (.answer n) (deskAddr n Config.answerOff)
        (.write (lanesOf [1] ++ [noLane] ++ lanesOf (leBytes 1 c) ++ [noLane] ++ lanesOf (leBytes 2 (s.stream n).guardHits))) := by
  have hgrow := grows_answerWaiting (s.closeQueued n c) n c (some k)
  rw [closeTaken_eq]
  refine ⟨(grows_closeQueued s n c).mono.andThen hgrow, fun m hm => ?_, answerWaiting_holds _ n c k,
    hgrow.parts .commitQueue (by decide), ?_⟩
  · rw [stream_answerWaiting, if_neg (by simpa using hm), stream_closeQueued, if_neg (by simpa using hm)]
  · have hawait := awaits_answerWaiting (s.closeQueued n c) n c (some k)
    rwa [show ((s.closeQueued n c).stream n).guardHits = (s.stream n).guardHits by
      rw [stream_closeQueued, if_pos rfl]; rfl] at hawait

theorem closeTaken_entry (s : State) (n : StreamId) (c k : Nat) : (s.closeTaken n c k).stream n =
    { ((s.stream n).queues c).settled with answer := .waiting, answersRaised := (s.stream n).answersRaised + 1 } := by
  rw [closeTaken_eq, stream_answerWaiting, if_pos rfl, stream_closeQueued, if_pos rfl, answers_settled (settled_settled _)]
  rfl

end Sys2Proof.Machine
end


section
/-! Obligations O26, O28, O29, O31: the close checks, closes and cancels decided, and the timers of a stream. -/

namespace Sys2Proof.Machine

/-! ## The close checks, in order (R57, R55) -/

theorem slotComplete_iff (v : Vector Bool 64) (i : Nat) : slotComplete v i = true ↔
    ∀ w, 4 * i ≤ w → w < 4 * i + 4 → flagAt v w = true := by
  simp only [slotComplete, Bool.and_eq_true]
  constructor
  · rintro ⟨⟨⟨h0, h1⟩, h2⟩, h3⟩ w hlo hhi
    rcases (show w = 4 * i ∨ w = 4 * i + 1 ∨ w = 4 * i + 2 ∨ w = 4 * i + 3 by omega) with rfl | rfl | rfl | rfl <;> assumption
  · intro h
    exact ⟨⟨⟨h _ (by omega) (by omega), h _ (by omega) (by omega)⟩, h _ (by omega) (by omega)⟩, h _ (by omega) (by omega)⟩

theorem slotTorn_iff (v : Vector Bool 64) (i : Nat) : slotTorn v i = true ↔
    ∃ w, 4 * i ≤ w ∧ w < 4 * i + 4 ∧ flagAt v w = true := by
  simp only [slotTorn, Bool.or_eq_true]
  constructor
  · rintro (((h | h) | h) | h)
    · exact ⟨_, by omega, by omega, h⟩
    · exact ⟨_, by omega, by omega, h⟩
    · exact ⟨_, by omega, by omega, h⟩
    · exact ⟨_, by omega, by omega, h⟩
  · rintro ⟨w, hlo, hhi, h⟩
    rcases (show w = 4 * i ∨ w = 4 * i + 1 ∨ w = 4 * i + 2 ∨ w = 4 * i + 3 by omega) with rfl | rfl | rfl | rfl
    · exact .inl (.inl (.inl h))
    · exact .inl (.inl (.inr h))
    · exact .inl (.inr h)
    · exact .inr h

/-- Every slot of the batch is complete. -/
theorem allComplete_iff (v : Vector Bool 64) (c : Nat) : (List.range c).all (slotComplete v) = true ↔
    ∀ w < 4 * c, flagAt v w = true := by
  simp only [List.all_eq_true, List.mem_range, slotComplete_iff]
  exact ⟨fun h w hw => h (w / 4) (by omega) w (by omega) (by omega), fun h i hi w _ hw => h w (by omega)⟩

/-- Some slot of the batch is torn. -/
theorem anyTorn_iff (v : Vector Bool 64) (c : Nat) : (List.range c).any (slotTorn v) = true ↔
    ∃ w < 4 * c, flagAt v w = true := by
  simp only [List.any_eq_true, List.mem_range, slotTorn_iff]
  exact ⟨fun ⟨i, hi, w, _, hw, h⟩ => ⟨w, by omega, h⟩, fun ⟨w, hw, h⟩ => ⟨w / 4, by omega, w, by omega, by omega, h⟩⟩

/-- Some slot of the batch fails its check code. -/
theorem anyUnchecked_iff (m : Memory) (c : Nat) : (List.range c).any (fun i => !checkCorrect (slotBytes m i)) = true ↔
    ∃ i < c, checkCorrect (m.bytes (32 * i) 32) = false := by
  simp [List.any_eq_true, slotBytes]

/-- The checks of a batch that may close: the count, then the slots, then the engine. -/
theorem closeVerdict_open {s : State} {n : StreamId} (c : Nat) (hp : s.loader.part = .ready) (hb : (s.stream n).session ≠ .barred)
    (hopen : (s.stream n).batch = .idle ∨ (s.stream n).batch = .collecting) : s.closeVerdict n c =
      if c = 0 ∨ 16 < c then .refused .badClose
      else if ¬ (List.range c).all (slotComplete (s.stream n).written) = true then .refused .short
      else if (List.range c).any (slotTorn (s.stream n).torn) = true then .refused .torn
      else if (List.range c).any (fun i => !checkCorrect (slotBytes (s.stream n).captured i)) = true then .refused .check
      else if ¬ s.engine.running = true then .refused .halted
      else .taken := by
  have hclosed : ¬((s.stream n).batch = .queued ∨ (s.stream n).batch = .settling) := by
    rcases hopen with h | h <;> simp [h]
  simp only [State.closeVerdict, hp, ne_eq, not_true_eq_false, if_false, if_neg hb, hopen, and_true, if_neg hclosed,
    Bool.not_eq_true', Bool.not_eq_true]

/-- A batch queued or settling ignores a close. -/
theorem closeVerdict_closed {s : State} {n : StreamId} (c : Nat) (hp : s.loader.part = .ready) (hb : (s.stream n).session ≠ .barred)
    (hclosed : (s.stream n).batch = .queued ∨ (s.stream n).batch = .settling) : s.closeVerdict n c = .ignored := by
  have hopen : ¬((s.stream n).batch = .idle ∨ (s.stream n).batch = .collecting) := by
    rcases hclosed with h | h <;> simp [h]
  simp only [State.closeVerdict, hp, ne_eq, not_true_eq_false, if_false, if_neg hb, hopen, and_false, if_pos hclosed]

theorem closeVerdict_notReady {s : State} (n : StreamId) (c : Nat) (hp : s.loader.part ≠ .ready) :
    s.closeVerdict n c = .refused .notReady := if_pos hp

theorem closeVerdict_barred {s : State} {n : StreamId} (c : Nat) (hp : s.loader.part = .ready)
    (hb : (s.stream n).session = .barred) : s.closeVerdict n c = .refused .barred := by
  simp only [State.closeVerdict, hp, ne_eq, not_true_eq_false, if_false, hb, if_true]

theorem batch_open_or_closed (x : BatchState) : (x = .idle ∨ x = .collecting) ∨ (x = .queued ∨ x = .settling) := by
  cases x <;> decide

/-- Settles O26: the close checks, one by one. -/
theorem closeChecksInOrder : Obligations.CloseChecksInOrder := by
  unfold Obligations.CloseChecksInOrder
  refine fun s n c => ⟨closeVerdict_notReady n c, closeVerdict_barred c, fun hp hb => ⟨closeVerdict_closed c hp hb, fun hopen => ?_⟩⟩
  rw [closeVerdict_open c hp hb hopen]
  refine ⟨fun hc => if_pos hc, fun h1 h16 => ?_⟩
  rw [if_neg (by omega)]
  refine ⟨fun ⟨i, hi, w, _, hw, hf⟩ => ?_, fun hwritten => ?_⟩
  · rw [if_pos]
    intro hall
    rw [(allComplete_iff _ _).1 hall w (by omega)] at hf
    exact Bool.false_ne_true hf.symm
  rw [if_neg (not_not.2 ((allComplete_iff _ _).2 hwritten))]
  refine ⟨fun htorn => if_pos ((anyTorn_iff _ _).2 htorn), fun hwhole => ?_⟩
  rw [if_neg (fun htorn => ?_)]
  swap
  · obtain ⟨w, hw, hf⟩ := (anyTorn_iff _ _).1 htorn
    rw [hwhole w hw] at hf
    exact Bool.false_ne_true hf
  refine ⟨fun hcheck => if_pos ((anyUnchecked_iff _ _).2 hcheck), fun hcheck => ?_⟩
  rw [if_neg (fun hbad => ?_)]
  swap
  · obtain ⟨i, hi, hf⟩ := (anyUnchecked_iff _ _).1 hbad
    rw [hcheck i hi] at hf
    exact Bool.false_ne_true hf.symm
  cases s.engine.running <;> rfl

/-- A close is ignored only by a batch queued or settling. -/
theorem closed_of_ignored {s : State} {n : StreamId} {c : Nat} (h : s.closeVerdict n c = .ignored) :
    (s.stream n).batch = .queued ∨ (s.stream n).batch = .settling := by
  by_cases hp : s.loader.part = .ready
  · by_cases hb : (s.stream n).session = .barred
    · rw [closeVerdict_barred c hp hb] at h; cases h
    · rcases batch_open_or_closed (s.stream n).batch with hopen | hclosed
      · rw [closeVerdict_open c hp hb hopen] at h
        split_ifs at h
      · exact hclosed
  · rw [closeVerdict_notReady n c hp] at h; cases h

/-! ## What the slot words of the write leave of the entry -/

/-- The slot words taken leave the session, the answer and the guard hits, and the check failures of a stream that is not OFF. -/
theorem slotsTaken_shown (s : State) (i : IssuedUp) (n : StreamId) :
    ((s.slotsTaken i).stream n).session = (s.stream n).session ∧ ((s.slotsTaken i).stream n).answer = (s.stream n).answer ∧
      ((s.slotsTaken i).stream n).guardHits = (s.stream n).guardHits ∧
      ((s.stream n).session ≠ .off → ((s.slotsTaken i).stream n).checkFails = (s.stream n).checkFails) := by
  by_cases hn : n = i.up.req.stream
  · subst hn
    cases hcells : (s.slotCells i.up.req).isEmpty
    · rw [slotsTaken_write hcells]
      rcases batch_open_or_closed (s.stream i.up.req.stream).batch with hb | hb
      · rw [slotWrite_opens (s := s.handedOn i) _ hb]
        obtain ⟨h1, h2, h3, -, -, -, -, h4⟩ := collects_shown (s.stream i.up.req.stream) (s.slotCells i.up.req)
        exact ⟨h1, h2, h3, h4⟩
      · rw [slotWrite_untaken (s := s.handedOn i) _ hb]
        exact ⟨rfl, rfl, rfl, fun _ => rfl⟩
    · rw [slotsTaken_none hcells]
      exact ⟨rfl, rfl, rfl, fun _ => rfl⟩
  · rw [onlyStreams_slotsTaken s i n (by simpa using hn)]
    exact ⟨rfl, rfl, rfl, fun _ => rfl⟩

/-- A batch that is queued or settling after the slot words were taken was so before, and took none. -/
theorem slotsTaken_closed {s : State} {i : IssuedUp}
    (h : ((s.slotsTaken i).stream i.up.req.stream).batch = .queued ∨ ((s.slotsTaken i).stream i.up.req.stream).batch = .settling) :
    (s.slotsTaken i).stream i.up.req.stream = s.stream i.up.req.stream := by
  cases hcells : (s.slotCells i.up.req).isEmpty
  · rw [slotsTaken_write hcells] at h ⊢
    rcases batch_open_or_closed (s.stream i.up.req.stream).batch with hb | hb
    · rw [slotWrite_opens (s := s.handedOn i) _ hb] at h
      obtain ⟨-, -, -, hbatch, -⟩ := collects_shown (s.stream i.up.req.stream) (s.slotCells i.up.req)
      rcases h with h | h <;> exact absurd (hbatch.symm.trans h) (by decide)
    · rw [slotWrite_untaken (s := s.handedOn i) _ hb]; rfl
  · rw [slotsTaken_none hcells]; rfl

theorem slotsTaken_checkLimit {s : State} {i : IssuedUp} {x : Setup} (h : s.loader.inForce = some x) :
    (s.slotsTaken i).checkLimit = x.limits.checkLimit := by
  rw [State.checkLimit, onlyParts_slotsTaken s i .loader (by decide), h]
  rfl

theorem coversClose_of_countByte {s : State} {r : Request} {c : Nat} (hw : r.write = true)
    (h : countByte (s.deskCells r.stream r) = some c) : s.coversClose r = true := by
  rw [countByte, Option.map_eq_some_iff] at h
  obtain ⟨x, hx, -⟩ := h
  rw [State.coversClose, hw, Bool.true_and, List.any_eq_true]
  have hp := List.find?_some hx
  exact ⟨x, List.mem_of_find?_eq_some hx, hp⟩

theorem coversClose_of_countByte_none {s : State} {r : Request} (h : countByte (s.deskCells r.stream r) = none) :
    s.coversClose r = false := by
  rw [countByte, Option.map_eq_none_iff, List.find?_eq_none] at h
  rw [State.coversClose, Bool.and_eq_false_iff, List.any_eq_false]
  exact .inr h

theorem stream_complete (s : State) (k : Nat) (a : UpAnswer) (n : StreamId) : (s.complete k a).stream n = s.stream n :=
  stream_of_streams_eq (complete_streams s k a) n

theorem onlyStreams_updStream (s : State) (n : StreamId) (f : Stream → Stream) : OnlyStreams s (s.updStream n f) [n] :=
  fun _ hm => stream_updStream_ne s (by simpa using hm) f

theorem onlyStreams_complete {s t : State} {ns : List StreamId} (h : OnlyStreams s t ns) (k : Nat) (a : UpAnswer) :
    OnlyStreams s (t.complete k a) ns := fun m hm => (stream_complete t k a m).trans (h m hm)

/-! ## A close, where Desk Capture acts -/

theorem exec_closeWord {s : State} {i : IssuedUp} {c : Nat} (h : WriteDownstream s i.up.tag i)
    (hcount : countByte (s.deskCells i.up.req.stream i.up.req) = some c) (hsetup : NoSetupWord s i.up.req) :
    exec (.closeWord i.up.tag .done) s = .next (((s.handedOn i).deskHandOn i.up).respond i.up.tag) := by
  rw [exec_write_done h rfl (c := .closeWord i.up.tag .done) rfl (coversClose_of_countByte h.2.2.2 hcount),
    handOn_desk (s := s.handedOn i) hsetup]

theorem exec_closeWord_acts {s : State} {i : IssuedUp} {c : Nat} (h : WriteDownstream s i.up.tag i)
    (hcount : countByte (s.deskCells i.up.req.stream i.up.req) = some c) (hcancel : s.coversCancel i.up.req = false)
    (hsetup : NoSetupWord s i.up.req) (h1 : s.loader.part ≠ .unset) (h2 : s.loader.part ≠ .starting) :
    exec (.closeWord i.up.tag .done) s =
      .next (((s.slotsTaken i).closeBatch i.up.req.stream c i.up.tag).respond i.up.tag) := by
  rw [exec_closeWord h hcount hsetup, deskHandOn_acts i h1 h2, hcancel, if_neg Bool.false_ne_true, closeWordTaken_some hcount]

/-- What a close refused leaves of the entry, by the refusal. -/
theorem closeRefused_taken_entry {s : State} {i : IssuedUp} {r : BatchResult} :
    ((r ≠ .check ∨ (s.stream i.up.req.stream).session = .off) →
      (((s.slotsTaken i).closeRefused i.up.req.stream r i.up.tag).stream i.up.req.stream).session =
        (s.stream i.up.req.stream).session ∧
      (StreamsSettled s → (((s.slotsTaken i).closeRefused i.up.req.stream r i.up.tag).stream i.up.req.stream).checkFails =
        (s.stream i.up.req.stream).checkFails)) := by
  intro h
  obtain ⟨hsession, -, -, hfails⟩ := slotsTaken_shown s i i.up.req.stream
  rw [closeRefused_entry, refusalCounted_same i.up.tag (h.imp_right hsession.trans)]
  refine ⟨hsession, fun hs => ?_⟩
  by_cases hoff : (s.stream i.up.req.stream).session = .off
  · rw [((settled_eq_iff _).1 (hs i.up.req.stream)).2.2 hoff]
    simp [Stream.settled, Stream.batchIdle, hsession, hoff]
  · simp [Stream.settled, Stream.batchIdle, hsession, hoff, hfails hoff]

theorem closeRefused_check_entry {s : State} {n : StreamId} {k : Nat} (h : (s.stream n).session ≠ .off) :
    ((s.closeRefused n .check k).stream n).checkFails = (s.stream n).nextFails ∧
      ((s.closeRefused n .check k).stream n).session =
        (if s.checkLimit ≤ (s.stream n).nextFails then .barred else (s.stream n).session) := by
  obtain ⟨hfails, hsession⟩ := checkRefusal_entry h (some k)
  have hcounted : s.refusalCounted n .check k = s.checkRefusal n (some k) := if_pos rfl
  rw [closeRefused_entry, hcounted]
  refine ⟨?_, hsession⟩
  have hoff : ((s.checkRefusal n (some k)).stream n).session ≠ .off := by
    rw [hsession]
    split
    · decide
    · exact h
  simp [Stream.settled, Stream.batchIdle, hoff, hfails]

/-- Settles O28: a close by its verdict, after the slot words of the write. -/
theorem closeIsDecided : Obligations.CloseIsDecided := by
  unfold Obligations.CloseIsDecided
  refine ⟨fun s k i h hk _ hcount hslots hcancel hsetup hown hout => ?_, fun s k i c h hk hcount hcancel hsetup hown hout =>
    ⟨fun hp => ?_, fun h1 h2 => ⟨fun r hr => ?_, fun hi => ?_, fun ht => ?_⟩⟩⟩ <;> subst hk
  · have hobs : s.observed i.up.req = false := by
      obtain ⟨h1, h2, h3, h4⟩ := hsetup
      simp [State.observed, hslots, coversClose_of_countByte_none hcount, hcancel, h1, h2, h3, h4]
    exact ⟨_, exec_unobserved h hobs hown .done, onlyParts_answeredUp s _ _ _, rfl, answered_answeredUp s _ _ _ hout⟩
  · have hexec := exec_closeWord h hcount hsetup
    rw [deskHandOn_idle (s := s.handedOn i) i.up hp, respond_free (s := s.handedOn i) hown] at hexec
    exact ⟨_, hexec, (onlyParts_handedOn s i).trans (onlyParts_complete _ _ _) (by decide) (by decide), rfl,
      answered_complete _ _ _ hout⟩
  all_goals
    have hexec := exec_closeWord_acts h hcount hcancel hsetup h1 h2
    obtain ⟨hsession, hanswer, hhits, hfails⟩ := slotsTaken_shown s i i.up.req.stream
  · obtain ⟨hgrow, honly, hholds⟩ := closeRefused_spec (s.slotsTaken i) i.up.req.stream r i.up.tag
    obtain ⟨hidle, hfresh, htimer, -⟩ := endAnswer_spec
      ((s.slotsTaken i).refusalCounted i.up.req.stream r i.up.tag) i.up.req.stream r (some i.up.tag)
    rw [← closeRefused_eq, refusalCounted_guardHits, hhits] at hfresh
    rw [closeBatch_refused hr, respond_waits hholds] at hexec
    refine ⟨_, hexec, hgrow.parts.mono (by decide), onlyStreams_trans (onlyStreams_slotsTaken s i) honly,
      Eq.trans (hgrow.parts .memory (by decide)) (slotsTaken_mem s i), hgrow.responseWaits hholds, hidle, hfresh, htimer,
      closeRefused_taken_entry, fun hcheck hoff => ?_⟩
    subst hcheck
    have hnext : ((s.slotsTaken i).stream i.up.req.stream).nextFails = min ((s.stream i.up.req.stream).checkFails + 1) 15 := by
      rw [Stream.nextFails, hfails hoff]
    have hoff' : ((s.slotsTaken i).stream i.up.req.stream).session ≠ .off := by rw [hsession]; exact hoff
    obtain ⟨hcount', hses⟩ := closeRefused_check_entry (k := i.up.tag) hoff'
    refine ⟨hcount'.trans hnext, fun x hx => ⟨fun hlt => ?_, fun hle hbar => ?_⟩⟩
    · rw [hses, slotsTaken_checkLimit hx, hnext, if_neg (by omega), hsession]
    · exact closeRefused_bars hoff' (by rw [hsession]; exact hbar) (by rw [slotsTaken_checkLimit hx, hnext]; exact hle)
  · have hsame := slotsTaken_closed (closed_of_ignored hi)
    have hentry : ((s.slotsTaken i).guardHit i.up.req.stream).stream i.up.req.stream =
        ({ s.stream i.up.req.stream with guardHits := satSucc (s.stream i.up.req.stream).guardHits } : Stream).settled := by
      rw [State.guardHit, stream_updStream_self, hsame]
    rw [closeBatch_ignored hi, respond_free (s := (s.slotsTaken i).guardHit i.up.req.stream) (by
      rw [NoOwnWriteHolds]
      change ∀ q ∈ (s.slotsTaken i).ownWaiting, _
      rw [ownWaiting_slotsTaken]; exact hown)] at hexec
    refine ⟨_, hexec, (onlyParts_guardHit _ _).trans (onlyParts_complete _ _ _) (by decide) (by decide),
      onlyStreams_complete (onlyStreams_trans (onlyStreams_slotsTaken s i) (onlyStreams_updStream _ _ _)) _ _,
      slotsTaken_mem s i, answered_complete _ _ _ (by rw [guardHit_path, outstanding_slotsTaken]; exact hout), ?_, ?_, ?_⟩
    all_goals rw [stream_complete]
    · exact congrArg Stream.guardHits hentry
    · exact (congrArg Stream.batch hentry).trans rfl
    · exact (congrArg Stream.answer hentry).trans rfl
  · obtain ⟨hgrow, honly, hholds, hqueue, hawaits⟩ := closeTaken_spec (s.slotsTaken i) i.up.req.stream c i.up.tag
    have hentry := closeTaken_entry (s.slotsTaken i) i.up.req.stream c i.up.tag
    rw [hhits] at hawaits
    rw [closeBatch_taken ht, respond_waits hholds] at hexec
    refine ⟨_, hexec, hgrow.parts.mono (by decide), onlyStreams_trans (onlyStreams_slotsTaken s i) honly,
      Eq.trans (hgrow.parts .memory (by decide)) (slotsTaken_mem s i), hgrow.responseWaits hholds,
      hqueue.trans (by rw [onlyParts_slotsTaken s i .commitQueue (by decide)]), ?_⟩
    rw [hentry]
    refine ⟨rfl, rfl, rfl, rfl, ?_, ?_, rfl, hsession, rfl, hawaits⟩
    · simp [Stream.settled, Stream.queues]
    · exact ite_self _

/-! ## A cancel (R61) -/

theorem exec_cancelWord {s : State} {i : IssuedUp} (h : WriteDownstream s i.up.tag i) (hc : s.coversCancel i.up.req = true)
    (hsetup : NoSetupWord s i.up.req) :
    exec (.cancelWord i.up.tag .done) s = .next (((s.handedOn i).deskHandOn i.up).respond i.up.tag) := by
  rw [exec_write_done h rfl (c := .cancelWord i.up.tag .done) rfl hc, handOn_desk (s := s.handedOn i) hsetup]

theorem exec_cancelWord_acts {s : State} {i : IssuedUp} (h : WriteDownstream s i.up.tag i)
    (hc : s.coversCancel i.up.req = true) (hsetup : NoSetupWord s i.up.req) (h1 : s.loader.part ≠ .unset)
    (h2 : s.loader.part ≠ .starting) : exec (.cancelWord i.up.tag .done) s =
      .next (((s.closeWordTaken i).cancelBatch i.up.req.stream i.up.tag).respond i.up.tag) := by
  rw [exec_cancelWord h hc hsetup, deskHandOn_acts i h1 h2, hc, if_pos rfl]

theorem cancelBatch_idle {s : State} {n : StreamId} (k : Nat) (h : (s.stream n).batch = .idle) : s.cancelBatch n k = s := by
  simp only [State.cancelBatch, h]

theorem cancelBatch_collecting {s : State} {n : StreamId} (k : Nat) (h : (s.stream n).batch = .collecting) :
    s.cancelBatch n k = (s.endBatch n).answerFresh n .cancelled 0 (some k) := by simp only [State.cancelBatch, h]

theorem cancelBatch_queued {s : State} {n : StreamId} (k : Nat) (h : (s.stream n).batch = .queued) :
    s.cancelBatch n k = ((s.leaveQueue n).endBatch n).answerFresh n .cancelled 0 (some k) := by simp only [State.cancelBatch, h]

theorem cancelBatch_settling {s : State} {n : StreamId} (k : Nat) (h : (s.stream n).batch = .settling) :
    s.cancelBatch n k = s.updStream n (fun t => { t with cancelAsked := true }) := by simp only [State.cancelBatch, h]

theorem respond_cases (s : State) (k : Nat) :
    (NoOwnWriteHolds s k ∧ s.respond k = (s.complete k ⟨true, []⟩).drain) ∨ (¬NoOwnWriteHolds s k ∧ s.respond k = s) := by
  by_cases h : NoOwnWriteHolds s k
  · exact .inl ⟨h, respond_free h⟩
  · refine .inr ⟨h, respond_waits ?_⟩
    simpa [NoOwnWriteHolds] using h

theorem outstanding_closeWordTaken (s : State) (i : IssuedUp) :
    (s.closeWordTaken i).path.outstanding = s.path.outstanding := by
  cases hc : countByte (s.deskCells i.up.req.stream i.up.req) with
  | none => rw [closeWordTaken_none hc, outstanding_slotsTaken]
  | some c =>
    rw [closeWordTaken_some hc, ← outstanding_slotsTaken s i]
    cases hv : (s.slotsTaken i).closeVerdict i.up.req.stream c with
    | refused r =>
      rw [closeBatch_refused hv]
      exact ((closeRefused_spec _ _ r _).1.parts .upstream (by decide)).2.2.2.2.2.1
    | ignored => rw [closeBatch_ignored hv]; rfl
    | taken =>
      rw [closeBatch_taken hv]
      exact ((closeTaken_spec _ _ c _).1.parts .upstream (by decide)).2.2.2.2.2.1

/-- A batch discarded by a cancel, COLLECTING or QUEUED. -/
theorem cancelBatch_discards {s : State} {n : StreamId} (k : Nat)
    (h : (s.stream n).batch = .collecting ∨ (s.stream n).batch = .queued) :
    Grows s (s.cancelBatch n k) [.streams, .raised, .commitQueue] ∧ OnlyStreams s (s.cancelBatch n k) [n] ∧
      (∃ q ∈ (s.cancelBatch n k).ownWaiting, q.holds = some k) ∧ BatchIsIdle ((s.cancelBatch n k).stream n) ∧
      AnswersFresh (s.cancelBatch n k) n .cancelled (s.stream n).guardHits ∧
      (∀ p : Nat, ((s.cancelBatch n k).stream n).session = .claimed p → ((s.cancelBatch n k).stream n).idleTimer = some 0) ∧
      ((s.stream n).batch = .queued → (s.cancelBatch n k).queue = s.queue.filter (fun m => decide (m ≠ n))) ∧
      ((s.stream n).batch = .collecting → (s.cancelBatch n k).queue = s.queue) := by
  rcases h with h | h
  · rw [cancelBatch_collecting k h]
    have hgrow := grows_endAnswer s n .cancelled 0 (some k)
    obtain ⟨hidle, hfresh, htimer, -⟩ := endAnswer_spec s n .cancelled (some k)
    exact ⟨hgrow.mono, onlyStreams_endAnswer s n _ 0 _, answerFresh_holds _ n _ 0 k, hidle, hfresh, htimer,
      fun he => absurd (h.symm.trans he) (by decide), fun _ => hgrow.parts .commitQueue (by decide)⟩
  · rw [cancelBatch_queued k h]
    have hgrow := grows_endAnswer (s.leaveQueue n) n .cancelled 0 (some k)
    obtain ⟨hidle, hfresh, htimer, -⟩ := endAnswer_spec (s.leaveQueue n) n .cancelled (some k)
    have hleave : Grows s (s.leaveQueue n) [.streams, .raised, .commitQueue] := (onlyParts_queue s _).grows.mono
    exact ⟨hleave.andThen hgrow, onlyStreams_endAnswer (s.leaveQueue n) n _ 0 _, answerFresh_holds _ n _ 0 k, hidle, hfresh, htimer,
      fun _ => hgrow.parts .commitQueue (by decide), fun he => absurd (h.symm.trans he) (by decide)⟩

/-- Settles O29: a cancel by the batch it meets. -/
theorem cancelIsDecided : Obligations.CancelIsDecided := by
  unfold Obligations.CancelIsDecided
  intro s k i h hk hc hsetup hout
  subst hk
  have hout' : ∃ o ∈ (s.closeWordTaken i).path.outstanding, o.tag = i.up.tag := by
    rw [outstanding_closeWordTaken]; exact hout
  refine ⟨fun hp => ?_, fun h1 h2 => ⟨fun hb => ?_, fun hb => ?_, fun hb hown => ?_⟩⟩
  · have hexec := exec_cancelWord h hc hsetup
    rw [deskHandOn_idle (s := s.handedOn i) i.up hp] at hexec
    refine ⟨fun hown => ?_, fun hown => ?_⟩
    · rw [respond_free (s := s.handedOn i) hown] at hexec
      exact ⟨_, hexec, (onlyParts_handedOn s i).trans (onlyParts_complete _ _ _) (by decide) (by decide), rfl,
        answered_complete _ _ _ hout⟩
    · rcases respond_cases (s.handedOn i) i.up.tag with ⟨hno, -⟩ | ⟨-, he⟩
      · exact absurd hno hown
      · rw [hexec, he]
  all_goals have hexec := exec_cancelWord_acts h hc hsetup h1 h2
  · rw [cancelBatch_idle _ hb] at hexec
    refine ⟨fun hown => ?_, fun hown => ?_⟩
    · rw [respond_free hown] at hexec
      exact ⟨_, hexec, onlyParts_complete _ _ _, answered_complete _ _ _ hout'⟩
    · rcases respond_cases (s.closeWordTaken i) i.up.tag with ⟨hno, -⟩ | ⟨-, he⟩
      · exact absurd hno hown
      · rw [hexec, he]
  · obtain ⟨hgrow, honly, hholds, hrest⟩ := cancelBatch_discards i.up.tag hb
    rw [respond_waits hholds] at hexec
    exact ⟨_, hexec, hgrow.parts, honly, hgrow.responseWaits hholds, hrest⟩
  · rw [cancelBatch_settling _ hb, respond_free (s := (s.closeWordTaken i).updStream _ _) hown] at hexec
    refine ⟨_, hexec, (onlyParts_updStream _ _ _).trans (onlyParts_complete _ _ _) (by decide) (by decide),
      onlyStreams_complete (onlyStreams_updStream _ _ _) _ _, answered_complete _ _ _ hout', ?_⟩
    rw [stream_complete, stream_updStream_self]
    exact ⟨rfl, hb, rfl⟩

/-! ## Timers (R47, R56) -/

theorem session_code_vacant {p : Nat} : BitVec.ofNat 8 Session.vacant.code ≠ BitVec.ofNat 8 (Session.claimed p).code := by
  change BitVec.ofNat 8 1 ≠ BitVec.ofNat 8 2
  decide

theorem stream_makeVacant (s : State) (n : StreamId) :
    (s.makeVacant n).stream n = ({ s.stream n with session := .vacant } : Stream).settled := by
  rw [State.makeVacant, stream_changeSession, stream_updStream_self]

/-- Settles O31: the two expiries of a stream. -/
theorem timersExpire : Obligations.TimersExpire := by
  unfold Obligations.TimersExpire
  refine ⟨fun s n p e x hr hses htimer hx hle => ?_, fun s n e x hr hb htimer hx hle => ?_⟩
  · have hdue : s.idleDue n = true := by simp [State.idleDue, htimer, hx, hle]
    have hexec : exec (.idleExpiry n) s = .next ((s.makeVacant n).answerFresh n .idleRelease 0) := by
      rw [exec, execIdleExpiry, live_eq hr, if_pos hdue]; rfl
    have hgrow := grows_answerFresh (s.makeVacant n) n .idleRelease 0 none
    have hentry : ((s.makeVacant n).answerFresh n .idleRelease 0).stream n =
        { ({ s.stream n with session := .vacant } : Stream).settled with
          answer := .fresh, answersRaised := (s.stream n).answersRaised + 1 } := by
      rw [stream_answerFresh, if_pos rfl, stream_makeVacant, answers_settled (settled_settled _)]
      rfl
    have hraised : SessionWordRaised (s.makeVacant n) n := changeSession_raised (by
      rw [hses]; exact session_code_vacant)
    have hfresh := answersFresh_answerFresh (s.makeVacant n) n .idleRelease none
    rw [stream_makeVacant, settled_guardHits] at hfresh
    refine ⟨_, hexec, ((grows_changeSession s n _ _).parts.trans hgrow.parts (by decide) (by decide)),
      onlyStreams_trans (onlyStreams_changeSession s n _ _) (onlyStreams_answerFresh _ n _ 0 _), ?_, ?_, ?_, ?_, ?_,
      hraised.grows hgrow (by rw [hentry, stream_makeVacant]), hfresh⟩ <;>
      rw [hentry] <;> simp [Stream.settled, Session.isClaimed]
  · have hdue : s.collectDue n = true := by simp [State.collectDue, htimer, hx, hle]
    have hexec : exec (.collectTimerExpiry n) s = .next ((s.endBatch n).answerFresh n .collectTimeout 0) := by
      rw [exec, execCollectTimerExpiry, live_eq hr, if_pos hdue]; rfl
    obtain ⟨hidle, hfresh, hzero, hsession⟩ := endAnswer_spec s n .collectTimeout none
    exact ⟨_, hexec, (grows_endAnswer s n _ 0 _).parts.mono (by decide), onlyStreams_endAnswer s n _ 0 _, hidle, hsession,
      fun _ p hp => hzero p (hsession.trans hp), hfresh⟩

end Sys2Proof.Machine
end


section
/-! Obligation O30: own writes answered, and the upstream responses that wait for them. -/

namespace Sys2Proof.Machine

/-! ## The own write, before the response that waits for it -/

/-- The own write has landed, left the list and been counted. -/
def State.ownLanded (s : State) (i : IssuedOwn) (a : Answer) : State :=
  if answeredDone a || decide (i.req.tag = .status) then (s.landOwnWhole i.req a).dropOwn i.req.serial
  else ((s.landOwnWhole i.req a).dropOwn i.req.serial).storeFault

theorem ownWriteAnswered_eq (s : State) (i : IssuedOwn) (a : Answer) (b : Bool) :
    s.ownWriteAnswered i a b = (s.ownLanded i a).releaseHeld i.req.holds (b && !answeredDone a) := rfl

theorem ownLanded_done {s : State} {i : IssuedOwn} {a : Answer} {ls : List Lane} (hb : i.req.body = .write ls)
    (ha : answeredDone a = true) : s.ownLanded i a = s.landedAs (s.mem.writeLanes i.req.addr ls) i.req.serial := by
  simp only [State.ownLanded, ha, Bool.true_or, if_true, State.landOwnWhole, hb, Memory.landWhole]
  rfl

theorem landOwnWhole_error {s : State} {q : OwnReq} {a : Answer} (ha : answeredDone a = false) : s.landOwnWhole q a = s := by
  unfold State.landOwnWhole
  cases q.body with
  | read len => rfl
  | write ls => simp only [Memory.landWhole, ha, Bool.false_eq_true, if_false]

theorem ownLanded_status {s : State} {i : IssuedOwn} {a : Answer} (ha : answeredDone a = false) (ht : i.req.tag = .status) :
    s.ownLanded i a = s.dropOwn i.req.serial := by
  simp only [State.ownLanded, ha, ht, decide_true, Bool.or_true, if_true, landOwnWhole_error ha]

theorem ownLanded_error {s : State} {i : IssuedOwn} {a : Answer} (ha : answeredDone a = false) (ht : i.req.tag ≠ .status) :
    s.ownLanded i a = (s.dropOwn i.req.serial).storeFault := by
  simp only [State.ownLanded, ha, ht, decide_false, Bool.or_false, Bool.false_eq_true, if_false, landOwnWhole_error ha]

theorem storeFault_holds (s : State) (k : Nat) : NoOwnWriteHolds s.storeFault k ↔ NoOwnWriteHolds s k := by
  unfold State.storeFault
  split
  · unfold State.raiseStatus State.raiseWrite
    simp only [NoOwnWriteHolds, mem_ownWaiting_raise_iff]
    constructor
    · exact fun h q hq => h q (.inl hq)
    · rintro h q (hq | rfl)
      · exact h q hq
      · nofun
  · rfl

/-- What the answered write leaves, whatever its answer. -/
structure OwnLanded (s t : State) (i : IssuedOwn) (a : Answer) (ls : List Lane) : Prop where
  mem : t.mem = (if answeredDone a then s.mem.writeLanes i.req.addr ls else s.mem)
  counted : WriteCounted s t i a
  parts : OnlyParts s t [.memory, .issued, .raised, .loader]
  holds : ∀ k, NoOwnWriteHolds t k ↔ NoOwnWriteHolds (s.dropOwn i.req.serial) k

theorem ownLanded_spec {s : State} {i : IssuedOwn} {ls : List Lane} (hb : i.req.body = .write ls) (a : Answer) :
    OwnLanded s (s.ownLanded i a) i a ls := by
  cases ha : answeredDone a
  · by_cases ht : i.req.tag = .status
    · rw [ownLanded_status ha ht]
      exact ⟨by rw [ha]; rfl, ⟨fun _ => ⟨rfl, rfl, rfl, rfl⟩, fun h => absurd ht h.2⟩, (onlyParts_dropOwn s _).mono (by decide),
        fun _ => Iff.rfl⟩
    · rw [ownLanded_error ha ht]
      have hgrow := grows_storeFault (s.dropOwn i.req.serial)
      refine ⟨?_, ⟨fun h => ?_, fun _ => ⟨storeFault_loader _, fun hlt => ?_⟩⟩, parts_of_dropOwn hgrow, storeFault_holds _⟩
      · rw [ha]; exact hgrow.parts .memory (by decide)
      · rcases h with h | h
        · exact absurd (ha.symm.trans h) Bool.false_ne_true
        · exact absurd h ht
      · exact statusRaised_storeFault (s := s.dropOwn i.req.serial) hlt
  · rw [ownLanded_done hb ha]
    exact ⟨by rw [ha]; rfl, ⟨fun _ => ⟨rfl, rfl, rfl, rfl⟩, fun h => absurd (ha.symm.trans h.1) (by decide)⟩,
      (onlyParts_landedAs s _ _).mono (by decide), fun _ => Iff.rfl⟩

theorem WriteCounted.upstream {s t v : State} {i : IssuedOwn} {a : Answer} (h : WriteCounted s t i a)
    (k : OnlyParts t v [.upstream]) : WriteCounted s v i a := by
  obtain ⟨hkept, hcounted⟩ := h
  refine ⟨fun hd => ?_, fun hd => ?_⟩
  · obtain ⟨h1, h2⟩ := hkept hd
    exact ⟨h1.trans (k .loader (by decide)), h2.trans (k .raised (by decide))⟩
  · obtain ⟨h1, h2⟩ := hcounted hd
    refine ⟨Eq.trans (k .loader (by decide)) h1, fun hlt => (h2 hlt).of_unchanged ?_ (k .pins (by decide)).2⟩
    exact ownWaiting_of_unchanged (k .issued (by decide)) (k .raised (by decide))

/-! ## The upstream response that waited (R19, R49) -/

/-- The request's answer write failed. -/
def State.markFailed (s : State) (k : Nat) : State := s.updOutstanding k (fun o => { o with failed := true })

/-- The request is answered: error when an answer write it waited for was. -/
def State.giveHeld (s : State) (k : Nat) : State :=
  (s.updOutstanding k (fun o => { o with answer := some ⟨!o.failed, []⟩ })).flush

theorem releaseHeld_none (s : State) (b : Bool) : s.releaseHeld none b = s := rfl

theorem releaseHeld_failed (s : State) (k : Nat) : s.releaseHeld (some k) true = (s.markFailed k).releaseHeld (some k) false := rfl

theorem releaseHeld_free {s : State} {k : Nat} (h : NoOwnWriteHolds s k) : s.releaseHeld (some k) false = (s.giveHeld k).drain := by
  unfold State.releaseHeld
  refine if_neg ?_
  rw [List.any_eq_true]
  rintro ⟨q, hq, hh⟩
  exact h q hq (of_decide_eq_true hh)

theorem releaseHeld_waits {s : State} {k : Nat} (h : ¬NoOwnWriteHolds s k) : s.releaseHeld (some k) false = s := by
  unfold State.releaseHeld
  refine if_pos ?_
  rw [List.any_eq_true]
  obtain ⟨q, hq⟩ := not_forall.1 h
  obtain ⟨hm, hh⟩ := Classical.not_imp.1 hq
  exact ⟨q, hm, decide_eq_true (not_not.1 hh)⟩

theorem onlyParts_giveHeld (s : State) (k : Nat) : OnlyParts s (s.giveHeld k) [.upstream] :=
  (onlyParts_updOutstanding s k _).andThen (onlyParts_flush _)

theorem onlyParts_markFailed (s : State) (k : Nat) : OnlyParts s (s.markFailed k) [.upstream] := onlyParts_updOutstanding s k _

theorem answered_giveHeld {s : State} {k : Nat} {b : Bool} (h : ∃ o ∈ s.path.outstanding, o.tag = k)
    (hf : ∀ o ∈ s.path.outstanding, o.tag = k → o.failed = b) : Answered (s.giveHeld k) k ⟨!b, []⟩ := by
  obtain ⟨o, ho, hk⟩ := h
  have := answered_flush (s.updOutstanding k (fun o => { o with answer := some ⟨!o.failed, []⟩ }))
    { o with failed := b, answer := some ⟨!b, []⟩ } ⟨!b, []⟩ (List.mem_map.2 ⟨o, ho, by simp only [if_pos hk, hf o ho hk]⟩) rfl
  rw [show ({ o with failed := b, answer := some ⟨!b, []⟩ } : Outstanding).tag = k from hk] at this
  exact this

theorem answered_giveHeld_markFailed {s : State} {k : Nat} (h : ∃ o ∈ s.path.outstanding, o.tag = k) :
    Answered ((s.markFailed k).giveHeld k) k ⟨false, []⟩ := by
  obtain ⟨o, ho, hk⟩ := h
  refine answered_giveHeld (b := true) ⟨{ o with failed := true }, List.mem_map.2 ⟨o, ho, if_pos hk⟩, hk⟩ fun p hp hpk => ?_
  obtain ⟨q, -, rfl⟩ := List.mem_map.1 hp
  split
  · rfl
  next hq => rw [if_neg hq] at hpk; exact absurd hpk hq

/-! ## The commands -/

theorem exec_ownWriteResponse {s : State} {k : Nat} {i : IssuedOwn} (a : Answer) (hr : s.inReset = false)
    (hi : s.pullOwn (fun q => decide (q.serial = k) && routineWrite q) = some i) :
    exec (.ownWriteResponse k a) s = .next (s.ownWriteAnswered i a false) := by
  rw [exec, execOwnWriteResponse, live_eq hr]
  simp only [hi]

theorem exec_answerWriteResponse {s : State} {n : StreamId} {i : IssuedOwn} (a : Answer) (hr : s.inReset = false)
    (hi : s.pullOwn (fun q => decide (q.tag = .answer n) && q.holds.isSome) = some i) :
    exec (.answerWriteResponse n a) s = .next (s.ownWriteAnswered i a true) := by
  rw [exec, execAnswerWriteResponse, live_eq hr]
  simp only [hi]

theorem pullOwn_serial {s : State} {k : Nat} {i : IssuedOwn}
    (h : s.pullOwn (fun q => decide (q.serial = k) && routineWrite q) = some i) : i.req.serial = k := by
  have := (pullOwn_some h).1
  simp only [Bool.and_eq_true, decide_eq_true_eq] at this
  exact this.1

theorem pullOwn_answer_tag {s : State} {n : StreamId} {i : IssuedOwn}
    (h : s.pullOwn (fun q => decide (q.tag = .answer n) && q.holds.isSome) = some i) : i.req.tag ≠ .status := by
  have := (pullOwn_some h).1
  simp only [Bool.and_eq_true, decide_eq_true_eq] at this
  rw [this.1]
  nofun

theorem not_mem_dropOwn (s : State) (k : Nat) : ∀ j ∈ (s.dropOwn k).path.ownIssued, j.req.serial ≠ k := fun j hj => by
  simpa using (List.mem_filter.1 hj).2

theorem outstanding_ownLanded (s : State) (i : IssuedOwn) (a : Answer) {ls : List Lane} (hb : i.req.body = .write ls) :
    (s.ownLanded i a).path.outstanding = s.path.outstanding ∧ (s.ownLanded i a).path.returned = s.path.returned := by
  obtain ⟨-, -, -, -, -, hout, hret⟩ := (ownLanded_spec hb a).parts .upstream (by decide)
  exact ⟨hout, hret⟩

/-- The answered write released the response that waited for it, with the answer `b`. -/
theorem giveHeld_spec {s : State} {i : IssuedOwn} {a : Answer} {ls : List Lane} {k : Nat} {t v : State}
    (hb : i.req.body = .write ls) (ht : t = s.ownLanded i a ∨ t = (s.ownLanded i a).markFailed k) (hv : v = t.giveHeld k) :
    v.mem = (if answeredDone a then s.mem.writeLanes i.req.addr ls else s.mem) ∧ WriteCounted s v i a ∧
      OnlyParts s v [.memory, .issued, .raised, .loader, .upstream] := by
  obtain ⟨hmem, hcount, hparts, -⟩ := ownLanded_spec (s := s) hb a
  have hup : OnlyParts (s.ownLanded i a) v [.upstream] := by
    rcases ht with rfl | rfl <;> rw [hv]
    · exact onlyParts_giveHeld _ k
    · exact (onlyParts_markFailed _ k).andThen (onlyParts_giveHeld _ k)
  exact ⟨Eq.trans (hup .memory (by decide)) hmem, hcount.upstream hup, hparts.trans hup (by decide) (by decide)⟩

/-- A write answered error adds its fault, and the status word shows it. -/
theorem error_loader {s : State} {i : IssuedOwn} {a : Answer} (ha : answeredDone a = false) (ht : i.req.tag ≠ .status) :
    (s.ownLanded i a).loader = oneMoreFault s.loader ∧ StatusShown s (s.ownLanded i a) := by
  rw [ownLanded_error ha ht]
  exact ⟨storeFault_loader _, statusShown_dropOwn (statusShown_storeFault _)⟩

theorem StatusShown.upstream {s t v : State} (h : StatusShown s t) (k : OnlyParts t v [.upstream]) : StatusShown s v := by
  have hl : v.loader = t.loader := k .loader (by decide)
  rcases h with h | ⟨tag, htag, hq⟩
  · exact .inl (by rw [hl]; exact h)
  · refine .inr ⟨tag, htag, ?_⟩
    rw [hl]
    exact hq.of_unchanged (ownWaiting_of_unchanged (k .issued (by decide)) (k .raised (by decide))) (k .pins (by decide)).2

/-- Settles O30: an own write by its answer, and the response it may release. -/
theorem ownWritesAreAnswered : Obligations.OwnWritesAreAnswered := by
  unfold Obligations.OwnWritesAreAnswered
  refine ⟨fun s k i ls hr hi hb hh => ⟨?_, fun e ht => ?_, fun e ht => ?_⟩,
    fun s k up i ls hr hi hb hh hown hout hf a => ?_,
    fun s up i ls c hr hc hb hh hout => ⟨fun hown hf a => ?_, fun hown => ⟨?_, fun e ht => ?_⟩⟩,
    fun s n up i ls hr hi hb hh hown hout hf => ⟨?_, fun e => ?_⟩⟩
  · have hexec := exec_ownWriteResponse .done hr hi
    rw [ownWriteAnswered_eq, hh, releaseHeld_none, ownLanded_done hb rfl] at hexec
    refine ⟨_, hexec, onlyParts_landedAs s _ _, rfl, fun x hx => read_writeLanes_outside _ _ _ _ hx, ?_⟩
    rw [← pullOwn_serial hi]
    exact not_mem_dropOwn s _
  · have hexec := exec_ownWriteResponse (.error e) hr hi
    rw [ownWriteAnswered_eq, hh, releaseHeld_none, ownLanded_error rfl ht] at hexec
    exact ⟨_, hexec, parts_of_dropOwn (grows_storeFault _), storeFault_loader _,
      fun hlt => statusRaised_storeFault (s := s.dropOwn i.req.serial) hlt⟩
  · have hexec := exec_ownWriteResponse (.error e) hr hi
    rw [ownWriteAnswered_eq, hh, releaseHeld_none, ownLanded_status rfl ht] at hexec
    refine ⟨_, hexec, onlyParts_dropOwn s _, ?_⟩
    rw [← pullOwn_serial hi]
    exact not_mem_dropOwn s _
  · have hexec := exec_ownWriteResponse a hr hi
    have hfree := ((ownLanded_spec (s := s) hb a).holds up).2 hown
    rw [ownWriteAnswered_eq, hh, Bool.false_and, releaseHeld_free hfree] at hexec
    obtain ⟨hmem, hcount, hparts⟩ := giveHeld_spec (k := up) (s := s) (a := a) hb (.inl rfl) rfl
    refine ⟨_, hexec, answered_giveHeld (b := false) ?_ ?_, hmem, hcount, hparts⟩ <;>
      rw [(outstanding_ownLanded s i a hb).1]
    · exact hout
    · exact hf
  · have hfree := ((ownLanded_spec (s := s) hb a).holds up).2 hown
    have hexec : ∃ b : Bool, exec (c a) s = .next ((s.ownLanded i a).releaseHeld (some up) b) := by
      rcases hc with ⟨n, rfl, hi⟩ | ⟨k, rfl, hi⟩
      · exact ⟨_, by rw [exec_answerWriteResponse a hr hi, ownWriteAnswered_eq, hh]⟩
      · exact ⟨_, by rw [exec_ownWriteResponse a hr hi, ownWriteAnswered_eq, hh]⟩
    obtain ⟨b, hexec⟩ := hexec
    have hout' : ∃ o ∈ (s.ownLanded i a).path.outstanding, o.tag = up := by
      rw [(outstanding_ownLanded s i a hb).1]; exact hout
    cases b
    · rw [releaseHeld_free hfree] at hexec
      refine ⟨_, hexec, answered_giveHeld (b := true) hout' ?_, giveHeld_spec hb (.inl rfl) rfl⟩
      rw [(outstanding_ownLanded s i a hb).1]; exact hf
    · rw [releaseHeld_failed, releaseHeld_free (s := (s.ownLanded i a).markFailed up) hfree] at hexec
      exact ⟨_, hexec, answered_giveHeld_markFailed hout', giveHeld_spec hb (.inr rfl) rfl⟩
  · have hwaits : ¬NoOwnWriteHolds (s.ownLanded i .done) up := fun h => hown (((ownLanded_spec hb .done).holds up).1 h)
    have hexec : exec (c .done) s = .next ((s.ownLanded i .done).releaseHeld (some up) false) := by
      rcases hc with ⟨n, rfl, hi⟩ | ⟨k, rfl, hi⟩
      · rw [exec_answerWriteResponse .done hr hi, ownWriteAnswered_eq, hh]; rfl
      · rw [exec_ownWriteResponse .done hr hi, ownWriteAnswered_eq, hh]; rfl
    rw [releaseHeld_waits hwaits] at hexec
    refine ⟨_, hexec, ⟨by simpa [NoOwnWriteHolds] using hwaits, outstanding_ownLanded s i .done hb⟩,
      (ownLanded_spec hb .done).mem, ?_⟩
    rw [ownLanded_done hb rfl]
    exact onlyParts_landedAs s _ _
  · have hwaits : ¬NoOwnWriteHolds (s.ownLanded i (.error e)) up := fun h =>
      hown (((ownLanded_spec hb (.error e)).holds up).1 h)
    have hsome : ∃ q ∈ (s.ownLanded i (.error e)).ownWaiting, q.holds = some up := by
      simpa [NoOwnWriteHolds] using hwaits
    obtain ⟨hout', hret⟩ := outstanding_ownLanded s i (.error e) hb
    obtain ⟨hloader, hshown⟩ := error_loader (s := s) (a := .error e) rfl ht
    have hmem := (ownLanded_spec (s := s) hb (.error e)).mem
    have hparts : OnlyParts s (s.ownLanded i (.error e)) [.issued, .raised, .loader] := by
      rw [ownLanded_error rfl ht]; exact parts_of_dropOwn (grows_storeFault _)
    rcases hc with ⟨n, rfl, hi⟩ | ⟨k, rfl, hi⟩
    · have hexec := exec_answerWriteResponse (.error e) hr hi
      have hup := onlyParts_markFailed (s.ownLanded i (.error e)) up
      rw [ownWriteAnswered_eq, hh, show (true && !answeredDone (.error e)) = true from rfl, releaseHeld_failed,
        releaseHeld_waits (s := (s.ownLanded i (.error e)).markFailed up) hwaits] at hexec
      refine ⟨_, hexec, hsome, hret, hmem, hloader, hshown.upstream hup, fun _ _ => ?_, fun _ h => ?_,
        hparts.trans hup (by decide) (by decide)⟩
      · change (s.ownLanded i (.error e)).path.outstanding.map _ = _
        rw [hout']
      · have := congrFun h .done
        cases this
    · have hexec := exec_ownWriteResponse (.error e) hr hi
      rw [ownWriteAnswered_eq, hh, Bool.false_and, releaseHeld_waits hwaits] at hexec
      refine ⟨_, hexec, hsome, hret, hmem, hloader, hshown, fun _ h => ?_, fun _ _ => hout', hparts.mono (by decide)⟩
      have := congrFun h .done
      cases this
  · have hexec := exec_answerWriteResponse .done hr hi
    have hfree := ((ownLanded_spec (s := s) hb .done).holds up).2 hown
    rw [ownWriteAnswered_eq, hh, show (true && !answeredDone .done) = false from rfl, releaseHeld_free hfree] at hexec
    obtain ⟨hout', -⟩ := outstanding_ownLanded s i .done hb
    have hmem : ((s.ownLanded i .done).giveHeld up).mem = s.mem.writeLanes i.req.addr ls := (giveHeld_spec (k := up) hb (.inl rfl) rfl).1
    refine ⟨_, hexec, answered_giveHeld (b := false) (by rw [hout']; exact hout) (by rw [hout']; exact hf), ?_, hmem, fun x hx => ?_⟩
    · rw [ownLanded_done hb rfl]
      exact (onlyParts_landedAs s _ _).trans (onlyParts_giveHeld _ up) (by decide) (by decide)
    · rw [hmem]; exact read_writeLanes_outside _ _ _ _ hx
  · have hexec := exec_answerWriteResponse (.error e) hr hi
    have ht := pullOwn_answer_tag hi
    have hfree := ((ownLanded_spec (s := s) hb (.error e)).holds up).2 hown
    rw [ownWriteAnswered_eq, hh, show (true && !answeredDone (.error e)) = true from rfl, releaseHeld_failed,
      releaseHeld_free (s := (s.ownLanded i (.error e)).markFailed up) hfree] at hexec
    obtain ⟨hloader, hshown⟩ := error_loader (s := s) (a := .error e) rfl ht
    have hup := (onlyParts_markFailed (s.ownLanded i (.error e)) up).andThen (onlyParts_giveHeld _ up)
    refine ⟨_, hexec, answered_giveHeld_markFailed (by rw [(outstanding_ownLanded s i _ hb).1]; exact hout), ?_, hloader,
      hshown.upstream hup⟩
    rw [ownLanded_error rfl ht] at hup ⊢
    exact (parts_of_dropOwn (ps := [.loader, .raised]) (grows_storeFault (s.dropOwn i.req.serial))
      (qs := [.issued, .raised, .loader])).trans hup (by decide) (by decide)

end Sys2Proof.Machine
end


section
/-! Obligation O32: the fields of an entry, what a unit takes at its gather, and the checks common to all units. -/

namespace Sys2Proof.Machine

/-! ## The entry's fields -/

theorem until_eq (e : Entry) : e.until = if e.day = 4294967295 then none else some e.day := rfl

theorem mem_excluded_parseEntry (bs : List Byte) (p : Nat) :
    p ∈ (parseEntry bs).excluded ↔ p ≠ 255 ∧ ∃ j < 4, p = fieldAt bs (20 + j) 1 := by
  have hlist : (parseEntry bs).excluded =
      ((List.range 4).map (fun j => fieldAt bs (20 + j) 1)).filter (fun p => decide (p ≠ 255)) := rfl
  rw [hlist, List.mem_filter, List.mem_map, decide_eq_true_eq]
  constructor
  · rintro ⟨⟨j, hj, rfl⟩, hp⟩
    exact ⟨hp, j, List.mem_range.mp hj, rfl⟩
  · rintro ⟨hp, j, hj, rfl⟩
    exact ⟨⟨j, List.mem_range.mpr hj, rfl⟩, hp⟩

/-! ## The stream's standing -/

theorem grade_of_cfg {s : State} {n : StreamId} {c : StreamCfg} (h : s.cfg n = some c) :
    s.grade n = if (s.stream n).session = .off then none else some c.grade := by
  simp [State.grade, h]

theorem branch_of_cfg {s : State} {n : StreamId} {c : StreamCfg} (h : s.cfg n = some c) : s.branch n = c.branch := by
  simp [State.branch, h]

/-! ## The checks, one by one -/

theorem entryKind_ofCode_code (k : EntryKind) : EntryKind.ofCode k.code = some k := by cases k <;> rfl

theorem entryKind_ofCode_none {v : Nat} (h : v = 0 ∨ 14 < v) : EntryKind.ofCode v = none := by
  unfold EntryKind.ofCode
  split
  case h_15 => rfl
  all_goals omega

theorem commonChecks_badKind {s : State} {n : StreamId} {e : Entry} (h : EntryKind.ofCode e.kind = none) :
    s.commonChecks n e = .error .badKind := by
  simp [State.commonChecks, h]

section
variable {s : State} {n : StreamId} {e : Entry} {k : EntryKind}

theorem commonChecks_grade (hk : e.kind = k.code) (h : kindAllowed k (s.grade n) = false) :
    s.commonChecks n e = .error .grade := by
  simp [State.commonChecks, hk, entryKind_ofCode_code, h]

theorem commonChecks_session (hk : e.kind = k.code) (h : kindAllowed k (s.grade n) = true) {o : OutcomeCode}
    (ho : sessionCheck k (s.stream n).session = some o) : s.commonChecks n e = .error o := by
  simp [State.commonChecks, hk, entryKind_ofCode_code, h, ho]

theorem commonChecks_noTarget (hk : e.kind = k.code) (h : kindAllowed k (s.grade n) = true)
    (ho : sessionCheck k (s.stream n).session = none) (ht : targetRegion k = none) : s.commonChecks n e = .ok k := by
  simp [State.commonChecks, hk, entryKind_ofCode_code, h, ho, ht]

theorem commonChecks_target (hk : e.kind = k.code) (h : kindAllowed k (s.grade n) = true)
    (ho : sessionCheck k (s.stream n).session = none) {r : Region} (ht : targetRegion k = some r) :
    s.commonChecks n e = if e.target < s.regionCount r then .ok k else .error .badTarget := by
  simp [State.commonChecks, hk, entryKind_ofCode_code, h, ho, ht]
end

/-- The kinds no KIOSK stream may use (R63). -/
def notForKiosk : List EntryKind := [.waive, .arrive, .patronBar, .streamReopen]

theorem kindAllowed_some (k : EntryKind) (g : Grade) : kindAllowed k (some g) = true ↔ g ≠ .kiosk ∨ k ∉ notForKiosk := by
  cases g <;> cases k <;> decide

theorem kindAllowed_eq_false {s : State} {n : StreamId} {k : EntryKind}
    (h : (s.stream n).session = .off ∨ ∃ c, s.cfg n = some c ∧ c.grade = .kiosk ∧ k ∈ notForKiosk) :
    kindAllowed k (s.grade n) = false := by
  rcases h with hoff | ⟨c, hc, hg, hk⟩
  · simp [State.grade, hoff, kindAllowed]
  · rw [grade_of_cfg hc, hg]
    split
    · rfl
    · exact Bool.eq_false_iff.mpr (fun h => ((kindAllowed_some k .kiosk).mp h).elim (· rfl) (· hk))

theorem kindAllowed_eq_true {s : State} {n : StreamId} {k : EntryKind} {c : StreamCfg} (hoff : (s.stream n).session ≠ .off)
    (hc : s.cfg n = some c) (h : c.grade ≠ .kiosk ∨ k ∉ notForKiosk) : kindAllowed k (s.grade n) = true := by
  rw [grade_of_cfg hc, if_neg hoff]
  exact (kindAllowed_some k c.grade).mpr h

theorem isClaimed_iff (x : Session) : x.isClaimed = true ↔ ∃ p, x = .claimed p := by
  cases x <;> simp [Session.isClaimed]

/-- The kinds that do not need a claimed session (R63). -/
def noClaimNeeded : List EntryKind := [.claim, .returnItem, .arrive, .patronBar, .streamReopen]

theorem sessionCheck_claimNeeded {k : EntryKind} (hk : k ∉ noClaimNeeded) (x : Session) :
    sessionCheck k x = if x.isClaimed then none else some .noPatron := by
  cases k <;> simp_all [noClaimNeeded, sessionCheck]

theorem sessionCheck_none {k : EntryKind} {x : Session} (hclaim : k = .claim → x = .vacant)
    (hneeded : k ∉ noClaimNeeded → ∃ p, x = .claimed p) : sessionCheck k x = none := by
  by_cases hk : k ∈ noClaimNeeded
  · simp only [noClaimNeeded, List.mem_cons, List.not_mem_nil, or_false] at hk
    rcases hk with rfl | rfl | rfl | rfl | rfl
    · exact if_pos (hclaim rfl)
    all_goals rfl
  · rw [sessionCheck_claimNeeded hk, if_pos ((isClaimed_iff x).mpr (hneeded hk))]

theorem targetRegion_of_mem {k : EntryKind} {r : Region}
    (h : (k, r) ∈ [(EntryKind.claim, Region.cards), (.lend, .items), (.returnItem, .items), (.renew, .items),
      (.arrive, .items), (.holdPlace, .titles), (.holdCancel, .titles), (.holdPause, .titles), (.patronBar, .patrons)]) :
    targetRegion k = some r := by
  revert h
  cases k <;> cases r <;> decide

theorem targetRegion_none {k : EntryKind} (h : k ∈ [EntryKind.release, .renewSet, .pay, .waive, .streamReopen]) :
    targetRegion k = none := by
  revert h
  cases k <;> decide

/-- Settles O32: each field by its place, and the common checks one by one in their order. -/
theorem commonPrefixInOrder : Obligations.CommonPrefixInOrder := by
  unfold Obligations.CommonPrefixInOrder
  refine ⟨?_, fun s n j o => ⟨rfl, rfl⟩, ?_, ?_⟩
  · rintro bs e rfl
    exact ⟨rfl, decide_eq_true_iff, decide_eq_true_iff, rfl, rfl, rfl, rfl, until_eq _, rfl, rfl, rfl, rfl,
      mem_excluded_parseEntry bs⟩
  · intro s x u n hu
    refine ⟨rfl, rfl, by simp [State.ctx, hu], by simp [State.ctx, hu], fun c hc => ⟨?_, grade_of_cfg hc⟩,
      fun p hp => by simp [State.ctx, hu, hp, Session.patron],
      fun j hj => ⟨by simp [State.ctx, State.unitEntry, hu, hj], by simp [State.unitEntry, hu, hj]⟩⟩
    simp [State.ctx, hu, branch_of_cfg hc]
  · intro s n e
    refine ⟨fun h => commonChecks_badKind (entryKind_ofCode_none h), fun k hk =>
      ⟨fun h => commonChecks_grade hk (kindAllowed_eq_false h), fun c hoff hc hgrade => ?_⟩⟩
    have hallowed := kindAllowed_eq_true hoff hc hgrade
    refine ⟨?_, fun hneeded hnone => ?_, fun hclaim hneeded => ⟨fun r hr => ?_, fun hr => ?_⟩⟩
    · rintro rfl hvacant
      exact commonChecks_session hk hallowed (if_neg hvacant)
    · refine commonChecks_session hk hallowed ?_
      rw [sessionCheck_claimNeeded hneeded, if_neg]
      exact fun h => ((isClaimed_iff _).mp h).elim hnone
    · have hcheck := commonChecks_target hk hallowed (sessionCheck_none hclaim hneeded) (targetRegion_of_mem hr)
      exact ⟨fun h => hcheck.trans (if_neg (Nat.not_lt.mpr h)), fun h => hcheck.trans (if_pos h)⟩
    · exact commonChecks_noTarget hk hallowed (sessionCheck_none hclaim hneeded) (targetRegion_none hr)

end Sys2Proof.Machine
end


section
/-! Obligation O33: the engine's choice at a boundary, and how a unit begins. -/

namespace Sys2Proof.Machine

/-! ## A unit begins -/

theorem gatherStep_reads {s : State} {x : Setup} {u : WorkUnit} {y : Target}
    (h : (unitNeeds u s.subUnits (s.ctx x u) (Work.start x u.gathered)).find? (fun z => !(Work.start x u.gathered).has z) =
      some y) : s.gatherStep x u = (s.setUnit u).raise (.gather y) (s.targetOff y) (.read y.len) := by
  simp only [State.gatherStep, h]

theorem gatherStep_decides {s : State} {x : Setup} {u : WorkUnit}
    (h : (unitNeeds u s.subUnits (s.ctx x u) (Work.start x u.gathered)).find? (fun z => !(Work.start x u.gathered).has z) =
      none) : s.gatherStep x u = s.setUnit { u with phase := .decide } := by
  simp only [State.gatherStep, h]

theorem grows_setUnit (s : State) (u : WorkUnit) : Grows s (s.setUnit u) [.engine] := (onlyParts_setUnit s u).grows

theorem grows_gatherRead (s : State) (u : WorkUnit) (y : Target) :
    Grows s ((s.setUnit u).raise (.gather y) (s.targetOff y) (.read y.len)) [.engine, .raised] :=
  (grows_setUnit s u).mono.andThen (grows_raise _ _ _ _ _)

/-- With nothing gathered, the first record needed is the first one read. -/
theorem find_not_has_nil (x : Setup) (l : List Target) : l.find? (fun z => !(Work.start x []).has z) = l.head? := by
  cases l <;> rfl

/-- The records the unit of a kind needs before it has read any. -/
def State.firstNeeds (s : State) (x : Setup) (kind : UnitKind) (owner : Option StreamId) (entry : Option Nat) (code : Nat) :
    List Target :=
  unitNeeds (s.newUnit kind owner entry code .gather) s.subUnits (s.ctx x (s.newUnit kind owner entry code .gather))
    (Work.start x [])

theorem setUnit_begins (s : State) (kind : UnitKind) (owner : Option StreamId) (entry : Option Nat) (code : Nat) :
    UnitBegins s (s.setUnit (s.newUnit kind owner entry code .decide)) kind owner entry code none where
  unit := ⟨_, rfl, rfl, rfl, rfl, rfl, rfl, rfl, rfl, rfl, rfl, rfl, rfl⟩
  engine := ⟨rfl, rfl, rfl, rfl⟩
  read := nofun
  frame := (onlyParts_setUnit s _).mono (by decide)

theorem gatherRead_begins (s : State) (kind : UnitKind) (owner : Option StreamId) (entry : Option Nat) (code : Nat)
    (y : Target) : UnitBegins s ((s.setUnit (s.newUnit kind owner entry code .gather)).raise (.gather y) (s.targetOff y)
      (.read y.len)) kind owner entry code (some y) where
  unit := ⟨s.newUnit kind owner entry code .gather, by rw [raise_engine]; rfl, rfl, rfl, rfl, rfl, rfl, rfl, rfl, rfl, rfl,
    rfl, rfl⟩
  engine := by rw [raise_engine]; exact ⟨rfl, rfl, rfl, rfl⟩
  read z hz := by cases hz; exact awaits_raise _ _ _ _ _
  frame := (grows_gatherRead s _ y).parts

theorem beginUnit_begins {s : State} {x : Setup} (hx : s.loader.inForce = some x) {kind : UnitKind} {owner : Option StreamId}
    {entry : Option Nat} {code : Nat} {first : Option Target}
    (hfirst : (s.firstNeeds x kind owner entry code).head? = first) :
    UnitBegins s (s.beginUnit kind owner entry code) kind owner entry code first := by
  have hbegin : s.beginUnit kind owner entry code = s.gatherStep x (s.newUnit kind owner entry code .gather) := by
    simp only [State.beginUnit, hx]
  have hfind := (find_not_has_nil x (s.firstNeeds x kind owner entry code)).trans hfirst
  rw [hbegin]
  cases first with
  | none => rw [gatherStep_decides hfind]; exact setUnit_begins s kind owner entry code
  | some y => rw [gatherStep_reads hfind]; exact gatherRead_begins s kind owner entry code y

/-! ## The record each unit reads first -/

theorem head_entryNeeds (k : EntryKind) (c : Ctx) (w : Work) :
    (entryNeeds k c w).head? = k.firstRead c.patron c.entry.target := by cases k <;> rfl

theorem head_sweepNeeds (o : Offer) (c : Ctx) (w : Work) : (sweepNeeds o c w).head? = some o.firstRead := by cases o <;> rfl

theorem head_needsRenewOf (c : Ctx) (w : Work) (i : Nat) : (needsRenewOf c w i).head? = some (.record .patrons c.patron) := rfl

theorem head_needsFreshenSub (c : Ctx) (w : Work) (i : Nat) :
    (needsFreshenSub c w i).head? = some (.record .patrons c.patron) := rfl

section
variable {s : State} {x : Setup} {b : CurrentBatch}

theorem head_firstNeeds_entry (k : EntryKind) :
    (s.firstNeeds x (.entry k) (some b.stream) (some b.next) k.code).head? =
      k.firstRead ((s.stream b.stream).session.patron.getD 0) (s.entryOf b.stream b.next).target :=
  head_entryNeeds k _ _

theorem head_firstNeeds_sweep (o : Offer) (code : Nat) :
    (s.firstNeeds x (.sweep o) none none code).head? = some o.firstRead := head_sweepNeeds o _ _

theorem subUnits_of_batch (hb : s.engine.batch = some b) : s.subUnits = b.sub := by simp [State.subUnits, hb]

theorem head_firstNeeds_freshen (hb : s.engine.batch = some b) {p i : Nat} {is : List Nat} (hsub : b.sub = .claim p (i :: is)) :
    (s.firstNeeds x .freshenSub (some b.stream) (some b.next) codeFreshenSub).head? =
      some (.record .patrons ((s.stream b.stream).session.patron.getD 0)) := by
  unfold State.firstNeeds
  rw [subUnits_of_batch hb, hsub]
  rfl

theorem head_firstNeeds_renewal (hb : s.engine.batch = some b) {r : RenewProgress} (hsub : b.sub = .renew r)
    (hr : r.remaining ≠ []) : (s.firstNeeds x .renewalSub (some b.stream) (some b.next) codeRenewalSub).head? =
      some (.record .patrons ((s.stream b.stream).session.patron.getD 0)) := by
  obtain ⟨z, zs, hz⟩ := List.exists_cons_of_ne_nil hr
  have hneeds : s.firstNeeds x .renewalSub (some b.stream) (some b.next) codeRenewalSub =
      needsRenewOf (s.ctx x (s.newUnit .renewalSub (some b.stream) (some b.next) codeRenewalSub .gather)) (Work.start x [])
        z.2 := by
    unfold State.firstNeeds
    rw [subUnits_of_batch hb, hsub]
    simp only [unitNeeds, State.newUnit, hz]
  rw [hneeds, head_needsRenewOf]
  rfl
end

/-! ## The boundary before an entry -/

theorem decideUnit_begins (s : State) (kind : UnitKind) (b : CurrentBatch) (code : Nat) :
    UnitBegins s (s.decideUnit kind b code) kind (some b.stream) (some b.next) code none := setUnit_begins s _ _ _ _

section
variable {s : State} {b : CurrentBatch}

theorem beginEntry_cancelled (h : (s.stream b.stream).cancelAsked = true) :
    s.beginEntry b = s.decideUnit .endBatch b codeEnd := if_pos h

theorem beginEntry_skips (h : (s.stream b.stream).cancelAsked = false) (hnext : 0 < b.next)
    (hafter : (s.entryOf b.stream b.next).afterDone = true) (hprev : b.prevDone = false) :
    s.beginEntry b = s.decideUnit .skip b codeSkip := by
  simp [State.beginEntry, h, hnext, hafter, hprev]

/-- An entry that is neither cancelled nor skipped goes on to its common checks. -/
theorem beginEntry_checked (h : (s.stream b.stream).cancelAsked = false)
    (hrun : b.next = 0 ∨ (s.entryOf b.stream b.next).afterDone = false ∨ b.prevDone = true) :
    ¬ (s.stream b.stream).cancelAsked = true ∧
      ¬ (0 < b.next ∧ (s.entryOf b.stream b.next).afterDone = true ∧ (!b.prevDone) = true) := by
  refine ⟨by rw [h]; decide, ?_⟩
  rintro ⟨hnext, hafter, hprev⟩
  rcases hrun with h0 | h1 | h2
  · omega
  · rw [h1] at hafter; contradiction
  · rw [h2] at hprev; contradiction

theorem beginEntry_ok (h : (s.stream b.stream).cancelAsked = false)
    (hrun : b.next = 0 ∨ (s.entryOf b.stream b.next).afterDone = false ∨ b.prevDone = true) {k : EntryKind}
    (hk : s.commonChecks b.stream (s.entryOf b.stream b.next) = .ok k) :
    s.beginEntry b = s.beginUnit (.entry k) (some b.stream) (some b.next) k.code := by
  obtain ⟨h1, h2⟩ := beginEntry_checked h hrun
  simp only [State.beginEntry, if_neg h1, if_neg h2, hk]

theorem beginEntry_error (h : (s.stream b.stream).cancelAsked = false)
    (hrun : b.next = 0 ∨ (s.entryOf b.stream b.next).afterDone = false ∨ b.prevDone = true) {c : OutcomeCode}
    (hc : s.commonChecks b.stream (s.entryOf b.stream b.next) = .error c) : s.beginEntry b = s.refuseEntry b c := by
  obtain ⟨h1, h2⟩ := beginEntry_checked h hrun
  simp only [State.beginEntry, if_neg h1, if_neg h2, hc]
end

theorem beginEntry_begins {s : State} {x : Setup} (hx : s.loader.inForce = some x) (b : CurrentBatch) :
    EntryBegins s (s.beginEntry b) b x where
  cancel h := by
    rw [beginEntry_cancelled h]
    exact decideUnit_begins s .endBatch b codeEnd
  skip h hnext hafter hprev := by
    rw [beginEntry_skips h hnext hafter hprev]
    exact decideUnit_begins s .skip b codeSkip
  begins k h hrun hk := by
    rw [beginEntry_ok h hrun hk]
    exact beginUnit_begins hx (head_firstNeeds_entry k)
  refused c h hrun hc := by
    have hrefuse : s.refuseEntry b c = s.conclude (s.newUnit .refusal (some b.stream) (some b.next)
        (s.entryOf b.stream b.next).kind .decide) b (Work.start x []) (plain c) .none := by
      simp only [State.refuseEntry, hx]
    rw [beginEntry_error h hrun hc, hrefuse]
    exact ⟨_, rfl, rfl, rfl, rfl, concludes_conclude s _ b _ _ _⟩

/-! ## Taking the queue head -/

/-- The queue head has become the current batch on chip; its own write is not yet raised. -/
def State.batchTaken (s : State) (n : StreamId) (q : List StreamId) : State :=
  ({ s with
      queue := q
      engine := { s.engine with batch := some ⟨n, 0, false, .none, [], none⟩ } } : State).updStream n
    (fun t => { t with batch := .settling, answer := .working })

theorem takeBatch_eq {s : State} {n : StreamId} {q : List StreamId} (h : s.queue = n :: q) :
    s.takeBatch = (s.batchTaken n q).raise (.working n) (deskAddr n Config.answerOff) (.write (stateLanes .working)) := by
  simp only [State.takeBatch, h]
  rfl

theorem stream_batchTaken (s : State) (n : StreamId) (q : List StreamId) (m : StreamId) : (s.batchTaken n q).stream m =
    if m = n then ({ s.stream n with batch := .settling, answer := .working } : Stream).settled else s.stream m :=
  stream_updStream _ m n _

theorem onlyParts_batchTaken (s : State) (n : StreamId) (q : List StreamId) :
    OnlyParts s (s.batchTaken n q) [.commitQueue, .engine, .streams] :=
  OnlyParts.andThen (OnlyParts.andThen ((onlyParts_queue s q).mono (by decide)) (onlyParts_engine _ _))
    (onlyParts_updStream _ n _)

theorem takeBatch_takes {s : State} {n : StreamId} {q : List StreamId} (h : s.queue = n :: q) :
    TakesBatch s s.takeBatch n := by
  rw [takeBatch_eq h]
  refine ⟨by rw [raise_queue, h]; rfl, by rw [raise_engine]; exact ⟨rfl, rfl, rfl, rfl, rfl⟩, ?_, awaits_raise _ _ _ _ _,
    OnlyParts.andThen ((onlyParts_batchTaken s n q).mono (by decide)) (onlyParts_raise' _ _ _ _ _), fun m hm => ?_⟩
  · rw [stream_raise_self rfl, stream_batchTaken, if_pos rfl]
    exact ⟨rfl, rfl, rfl, rfl, rfl⟩
  · have hmn : m ≠ n := fun he => hm (he ▸ List.mem_cons_self)
    rw [stream_raise_ne (t := .working n) (fun he => hmn (Option.some.inj he).symm), stream_batchTaken, if_neg hmn]

/-! ## The boundary's choice -/

section
variable {s : State} {x : Setup} (h : AtBoundary s x)
include h

theorem exec_unitBoundary : exec .unitBoundary s = .next s.boundary := by
  obtain ⟨hreset, hpart, hrun, hunit, -, -⟩ := h
  have hat : s.atBoundary = true := by simp [State.atBoundary, hreset, hpart, hrun, hunit]
  show Host.Outcome.next (if s.atBoundary then s.boundary else s) = _
  rw [if_pos hat]

theorem boundary_requests (hr : s.loader.requests ≠ []) : s.boundary = s.startRequest := by
  obtain ⟨-, -, -, -, hjob, -⟩ := h
  simp [State.boundary, hjob, hr]

theorem boundary_cut (hr : s.loader.requests = []) {b : CurrentBatch} (hb : s.engine.batch = some b)
    (hcut : b.cut.isSome = true) : s.boundary = (s.setTurn .batch).decideUnit .endBatch b codeEnd := by
  obtain ⟨-, -, -, -, hjob, -⟩ := h
  simp [State.boundary, hjob, hr, State.cutBatch, hb, hcut]

theorem boundary_chooses (hr : s.loader.requests = []) (hcut : ∀ b, s.engine.batch = some b → b.cut = none) :
    s.boundary = s.chooseUnit := by
  obtain ⟨-, -, -, -, hjob, -⟩ := h
  have hnone : s.cutBatch = none := by
    unfold State.cutBatch
    cases hb : s.engine.batch with
    | none => rfl
    | some b => simp [hcut b hb]
  simp [State.boundary, hjob, hr, hnone]

/-- The first pending request is begun with the read of the region table. -/
theorem boundary_startRequest {k : RequestKind} {rs : List RequestKind} (hr : s.loader.requests = k :: rs)
    (hk : k ≠ .warmReset) : s.startRequest =
      ({ s with loader := { s.loader with requests := rs } } : State).readPart k .regions [] := by
  obtain ⟨-, -, -, -, hjob, -⟩ := h
  cases k with
  | apply => simp only [State.startRequest, hjob, hr]
  | format => simp only [State.startRequest, hjob, hr]
  | warmReset => exact absurd rfl hk

theorem boundary_warmReset {rs : List RequestKind} (hr : s.loader.requests = .warmReset :: rs) : s.startRequest = s := by
  obtain ⟨-, -, -, -, hjob, -⟩ := h
  simp only [State.startRequest, hjob, hr]
end

section
variable {s : State}

theorem chooseUnit_sweep (h : s.engine.lastTurn = .batch ∨ (s.engine.batch = none ∧ s.queue = [])) {o : Offer}
    (ho : s.sweep.offer = some o) : s.chooseUnit = s.sweepTurn := by
  unfold State.chooseUnit
  rcases h with hlast | ⟨hb, hq⟩
  · cases s.batchWork <;> simp [ho, hlast]
  · simp [State.batchWork, hb, hq]

theorem chooseUnit_idle (hb : s.engine.batch = none) (hq : s.queue = []) (ho : s.sweep.offer = none) : s.chooseUnit = s := by
  simp [State.chooseUnit, State.batchWork, hb, hq, State.sweepTurn, ho]

theorem chooseUnit_batch (hw : s.batchWork = true) (h : s.sweep.offer = none ∨ s.engine.lastTurn = .sweep) :
    s.chooseUnit = s.batchTurn := by
  unfold State.chooseUnit
  rcases h with ho | hlast
  · simp [hw, ho]
  · simp [hw, hlast]

theorem batchTurn_current {b : CurrentBatch} (hb : s.engine.batch = some b) : s.batchTurn = (s.setTurn .batch).batchUnit b := by
  have hb' : (s.setTurn .batch).engine.batch = some b := hb
  simp [State.batchTurn, hb']

theorem batchTurn_takes {n : StreamId} {q : List StreamId} (hb : s.engine.batch = none) (hq : s.queue = n :: q) :
    s.batchTurn = (s.setTurn .batch).takeBatch.beginEntry ⟨n, 0, false, .none, [], none⟩ := by
  have hb' : (s.setTurn .batch).engine.batch = none := hb
  have htake : (s.setTurn .batch).takeBatch.engine.batch = some ⟨n, 0, false, .none, [], none⟩ :=
    (takeBatch_takes (s := s.setTurn .batch) (q := q) hq).engine.1
  simp only [State.batchTurn, hb', Option.isSome_none, Bool.false_eq_true, if_false, htake]
  rfl

theorem batchUnit_entry {b : CurrentBatch} (hsub : b.sub = .none) : s.batchUnit b = s.beginEntry b := by
  simp only [State.batchUnit, hsub]

theorem batchUnit_freshen {b : CurrentBatch} {p : Nat} {is : List Nat} (hsub : b.sub = .claim p is) :
    s.batchUnit b = s.beginUnit .freshenSub (some b.stream) (some b.next) codeFreshenSub := by
  simp only [State.batchUnit, hsub]

theorem batchUnit_renewal {b : CurrentBatch} {r : RenewProgress} (hsub : b.sub = .renew r) (hr : r.remaining ≠ []) :
    s.batchUnit b = s.beginUnit .renewalSub (some b.stream) (some b.next) codeRenewalSub := by
  simp [State.batchUnit, hsub, hr]

theorem batchUnit_closing {b : CurrentBatch} {r : RenewProgress} (hsub : b.sub = .renew r) (hr : r.remaining = []) :
    s.batchUnit b = s.decideUnit .closing b codeClosing := by
  simp [State.batchUnit, hsub, hr]

theorem batchWork_current {b : CurrentBatch} (hb : s.engine.batch = some b) : s.batchWork = true := by
  simp [State.batchWork, hb]

theorem batchWork_queued {n : StreamId} {q : List StreamId} (hq : s.queue = n :: q) : s.batchWork = true := by
  simp [State.batchWork, hq]
end

/-- A unit of the current batch, by its sub-units still to run. -/
theorem batchUnit_begins {s : State} {x : Setup} (hx : s.loader.inForce = some x) {b : CurrentBatch}
    (hb : s.engine.batch = some b) :
    (b.sub = .none → EntryBegins s (s.batchUnit b) b x) ∧
    (∀ p i is, b.sub = .claim p (i :: is) → UnitBegins s (s.batchUnit b) .freshenSub (some b.stream) (some b.next) 16
      (some (.record .patrons ((s.stream b.stream).session.patron.getD 0)))) ∧
    (∀ r, b.sub = .renew r → r.remaining ≠ [] → UnitBegins s (s.batchUnit b) .renewalSub (some b.stream) (some b.next) 17
      (some (.record .patrons ((s.stream b.stream).session.patron.getD 0)))) ∧
    (∀ r, b.sub = .renew r → r.remaining = [] →
      UnitBegins s (s.batchUnit b) .closing (some b.stream) (some b.next) 18 none) := by
  refine ⟨fun hsub => ?_, fun p i is hsub => ?_, fun r hsub hr => ?_, fun r hsub hr => ?_⟩
  · rw [batchUnit_entry hsub]
    exact beginEntry_begins hx b
  · rw [batchUnit_freshen hsub]
    exact beginUnit_begins hx (head_firstNeeds_freshen hb hsub)
  · rw [batchUnit_renewal hsub hr]
    exact beginUnit_begins hx (head_firstNeeds_renewal hb hsub hr)
  · rw [batchUnit_closing hsub hr]
    exact decideUnit_begins s .closing b codeClosing

theorem sweepTurn_begins {s : State} {x : Setup} (hx : s.loader.inForce = some x) {o : Offer} (ho : s.sweep.offer = some o) :
    UnitBegins (s.setTurn .sweep) s.sweepTurn (.sweep o) none none o.code (some o.firstRead) := by
  simp only [State.sweepTurn, ho]
  exact beginUnit_begins (s := s.setTurn .sweep) hx (head_firstNeeds_sweep o _)

/-- Settles O33: the requests, the cut, then the turn, each by the equation of its branch. -/
theorem unitBoundaryChooses : Obligations.UnitBoundaryChooses := by
  unfold Obligations.UnitBoundaryChooses
  intro s x hat
  have hx : s.loader.inForce = some x := hat.2.2.2.2.2
  have hexec := exec_unitBoundary hat
  refine ⟨fun k rs hr hk => ?_, fun rs hr => ?_, fun hr => ⟨fun b hb hcut => ?_, fun o ho hcut hturn => ?_,
    fun hturn => ⟨fun n q hb hq => ?_, fun b hb hcut => ?_⟩, fun ho hb hq => ?_⟩⟩
  · refine ⟨_, hexec, ?_⟩
    rw [boundary_requests hat (by simp [hr]), boundary_startRequest hat hr hk]
    exact ⟨readPart_eq_begun _ k .regions [], awaits_raise _ _ _ _ _,
      ((onlyParts_loader s _).mono (by decide)).andThen (grows_readPart _ k .regions []).parts⟩
  · rw [hexec, boundary_requests hat (by simp [hr]), boundary_warmReset hat hr]
  · refine ⟨_, hexec, ?_⟩
    rw [boundary_cut hat hr hb hcut]
    exact decideUnit_begins (s.setTurn .batch) .endBatch b codeEnd
  · refine ⟨_, hexec, ?_⟩
    rw [boundary_chooses hat hr hcut, chooseUnit_sweep hturn ho]
    cases o <;> exact sweepTurn_begins hx ho
  · refine ⟨(s.setTurn .batch).takeBatch, _, hexec, takeBatch_takes (q := q) hq, ?_⟩
    rw [boundary_chooses hat hr (by simp [hb]), chooseUnit_batch (batchWork_queued hq) hturn, batchTurn_takes hb hq]
    have hloader : (s.setTurn .batch).takeBatch.loader = (s.setTurn .batch).loader :=
      (takeBatch_takes (s := s.setTurn .batch) (q := q) hq).frame.1 .loader (by decide)
    exact beginEntry_begins ((congrArg Loader.inForce hloader).trans hx) _
  · have hbegins := batchUnit_begins (s := s.setTurn .batch) hx hb
    have hboundary : s.boundary = (s.setTurn .batch).batchUnit b := by
      rw [boundary_chooses hat hr (fun c hc => by cases hb.symm.trans hc; exact hcut),
        chooseUnit_batch (batchWork_current hb) hturn, batchTurn_current hb]
    rw [hexec, hboundary]
    obtain ⟨hentry, hfreshen, hrenewal, hclosing⟩ := hbegins
    exact ⟨fun hsub => ⟨_, rfl, hentry hsub⟩, fun p i is hsub => ⟨_, rfl, hfreshen p i is hsub⟩,
      fun r hsub hrem => ⟨_, rfl, hrenewal r hsub hrem⟩, fun r hsub hrem => ⟨_, rfl, hclosing r hsub hrem⟩⟩
  · rw [hexec, boundary_chooses hat hr (by simp [hb]), chooseUnit_idle hb hq ho]

end Sys2Proof.Machine
end


section
/-! Obligation O34, the commands: a gather read answered, or failed. -/

namespace Sys2Proof.Machine

/-! ## The Day Sweep when a unit ends or is handed back -/

/-- No pass is under way: nothing is read. -/
theorem sweepExamine_idle {s : State} (h : s.sweep.phase = .idle) : s.sweepExamine = s := by
  simp [State.sweepExamine, State.sweepMayRead, h]

theorem sweepEnded_reported (s : State) (o : Offer) :
    s.sweepEnded o true = ({ s with sweep := s.sweep.past o } : State).sweepExamine := by
  cases o with
  | item k => rfl
  | resume k => rfl
  | progress e =>
    cases e
    · rfl
    · exact (sweepExamine_idle (s := { s with sweep := s.sweep.past (.progress true) }) rfl).symm

theorem sweepEnded_unreported (s : State) (o : Offer) :
    s.sweepEnded o false = ({ s with sweep := s.sweep.released } : State).sweepExamine := rfl

/-- The sweep's fields with the record of an offer counted as skipped; a progress unit is of no record (R166). -/
def Sweep.skips (x : Sweep) : Offer → Sweep
  | .item _ => { x with skipped := min (x.skipped + 1) 65535 }
  | .resume _ => { x with skipped := min (x.skipped + 1) 65535 }
  | .progress _ => x

theorem skips_record (x : Sweep) {o : Offer} (h : ∃ r, o = .item r ∨ o = .resume r) :
    x.skips o = { x with skipped := min (x.skipped + 1) 65535 } := by
  obtain ⟨r, rfl | rfl⟩ := h <;> rfl

theorem skips_progress (x : Sweep) {o : Offer} {e : Bool} (h : o = .progress e) : x.skips o = x := by rw [h]; rfl

theorem sweepHandBack_reported (s : State) (o : Offer) :
    s.sweepHandBack o true = ({ s with sweep := (s.sweep.past o).skips o } : State).sweepExamine := by
  cases o with
  | item k => rfl
  | resume k => rfl
  | progress e => exact sweepEnded_reported s (.progress e)

theorem sweepHandBack_unreported (s : State) (o : Offer) :
    s.sweepHandBack o false = ({ s with sweep := s.sweep.released.skips o } : State).sweepExamine := by cases o <;> rfl

theorem past_skipped (x : Sweep) (o : Offer) : (x.past o).skipped = x.skipped := by
  cases o with
  | item k => rfl
  | resume k => rfl
  | progress e => cases e <;> rfl

theorem onlyParts_clearUnit (s : State) : OnlyParts s s.clearUnit [.engine] := onlyParts_engine s _

/-! ## The gather read answered -/

section
variable {s : State} {i : IssuedOwn} {tg : Target} {u : WorkUnit} {x : Setup} (h : GatherRead s i tg u x)
include h

theorem gatherAnswered_some {data : IssuedOwn → Option (List Byte)} {d : List Byte} (hd : data i = some d) :
    s.gatherAnswered data =
      (s.dropOwn i.req.serial).gatherStep x { u with gathered := u.gathered ++ [(tg, d)] } := by
  obtain ⟨hreset, hrun, hunit, hphase, hforce, hpull, htag⟩ := h
  have hin : s.unitIn .gather = some (u, x) := by simp [State.unitIn, hunit, hforce, hreset, hrun, hphase]
  have htarget : i.req.tag.gatherTarget = some tg := by rw [htag]; rfl
  simp only [State.gatherAnswered, hpull, hin, htarget, hd]

theorem gatherAnswered_none {data : IssuedOwn → Option (List Byte)} (hd : data i = none) :
    s.gatherAnswered data = (s.dropOwn i.req.serial).abandon u tg := by
  obtain ⟨hreset, hrun, hunit, hphase, hforce, hpull, htag⟩ := h
  have hin : s.unitIn .gather = some (u, x) := by simp [State.unitIn, hunit, hforce, hreset, hrun, hphase]
  have htarget : i.req.tag.gatherTarget = some tg := by rw [htag]; rfl
  simp only [State.gatherAnswered, hpull, hin, htarget, hd]

theorem exec_gatherReadResponse {a : Answer} {d : List Byte} (hd : s.ownData i a = some d) : exec (.gatherReadResponse a) s =
    .next ((s.dropOwn i.req.serial).gatherStep x { u with gathered := u.gathered ++ [(tg, d)] }) := by
  show Host.Outcome.next (s.live _) = _
  rw [live_eq h.1, gatherAnswered_some h hd]

theorem exec_gatherReadError (k : Nat) : exec (.gatherReadResponse (.error k)) s =
    .next ((s.dropOwn i.req.serial).abandon u tg) := by
  show Host.Outcome.next (s.live _) = _
  rw [live_eq h.1, gatherAnswered_none h rfl]

theorem exec_gatherReadTimeout : exec .gatherReadTimeout s = .next ((s.dropOwn i.req.serial).abandon u tg) := by
  show Host.Outcome.next (s.live _) = _
  rw [live_eq h.1, gatherAnswered_none h rfl]
end

/-- The unit needs nothing more exactly when no record it needs is still to be read. -/
theorem find_not_has_eq_none (w : Work) (l : List Target) :
    l.find? (fun z => !w.has z) = none ↔ ∀ y ∈ l, w.has y = true := by simp

/-! ## The unit abandoned -/

/-- The fault counted, the read off the list. -/
def State.readFailed (s : State) (k : Nat) : State := (s.dropOwn k).storeFault

theorem readFailed_spec (s : State) (k : Nat) : OnlyParts s (s.readFailed k) [.issued, .raised, .loader] ∧
    (s.readFailed k).loader = oneMoreFault s.loader ∧ StatusShown s (s.readFailed k) :=
  ⟨parts_of_dropOwn (grows_storeFault _), storeFault_loader _, statusShown_dropOwn (statusShown_storeFault _)⟩

/-- The unit that takes the place of an abandoned one (R96). -/
def WorkUnit.faulted (u : WorkUnit) (tg : Target) : WorkUnit :=
  { u with
    kind := .fault, code := codeFault, phase := .decide, gathered := [], failed := some tg
    changes := [], spoil := [], toWrite := [] }

theorem abandon_batch {s : State} {u : WorkUnit} (h : ∀ o, u.kind ≠ .sweep o) (tg : Target) :
    s.abandon u tg = s.storeFault.setUnit (u.faulted tg) := by
  unfold State.abandon
  cases hk : u.kind with
  | sweep o => exact absurd hk (h o)
  | _ => rfl

theorem abandon_sweep {s : State} {u : WorkUnit} {o : Offer} (h : u.kind = .sweep o) (tg : Target) :
    s.abandon u tg = s.storeFault.clearUnit.sweepHandBack o u.reported := by simp only [State.abandon, h]

/-- A sweep unit handed back: the engine at a boundary, the sweep's fields as given. -/
def State.handedBack (s : State) (k : Nat) (y : Sweep) : State := { (s.readFailed k).clearUnit with sweep := y }

theorem readFailed_engine (s : State) (k : Nat) : (s.readFailed k).engine = s.engine :=
  (readFailed_spec s k).1 .engine (by decide)

theorem readFailed_sweep (s : State) (k : Nat) : (s.readFailed k).sweep = s.sweep := (readFailed_spec s k).1 .sweep (by decide)

theorem handedBack_spec (s : State) (k : Nat) (y : Sweep) :
    (s.handedBack k y).engine = { s.engine with unit := none, inFlight := [] } ∧
    (s.handedBack k y).loader = oneMoreFault s.loader ∧ StatusShown s (s.handedBack k y) ∧
    OnlyParts s (s.handedBack k y) [.engine, .issued, .raised, .loader, .sweep] := by
  obtain ⟨hparts, hloader, hshown⟩ := readFailed_spec s k
  have hback : OnlyParts (s.readFailed k) (s.handedBack k y) [.engine, .sweep] :=
    ((onlyParts_clearUnit _).mono (by decide)).andThen (onlyParts_sweep _ y)
  refine ⟨?_, hloader, hshown.trans (.refl _) hback.grows, (hparts.mono (by decide)).andThen hback⟩
  show ({ (s.readFailed k).engine with unit := none, inFlight := [] } : Engine) = _
  rw [readFailed_engine]

theorem exec_gatherReadTimeout_batch {s : State} {i : IssuedOwn} {tg : Target} {u : WorkUnit} {x : Setup}
    (h : GatherRead s i tg u x) (hk : ∀ o, u.kind ≠ .sweep o) :
    ∃ t : State, exec .gatherReadTimeout s = .next t ∧ t.engine = { s.engine with unit := some (u.faulted tg) } ∧
      t.loader = oneMoreFault s.loader ∧ StatusShown s t ∧ OnlyParts s t [.engine, .issued, .raised, .loader] := by
  obtain ⟨hparts, hloader, hshown⟩ := readFailed_spec s i.req.serial
  refine ⟨(s.readFailed i.req.serial).setUnit (u.faulted tg), ?_, ?_, hloader, hshown.trans (.refl _) (grows_setUnit _ _),
    (hparts.mono (by decide)).andThen (onlyParts_setUnit _ _)⟩
  · rw [exec_gatherReadTimeout h, abandon_batch hk, State.readFailed]
  · show ({ (s.readFailed i.req.serial).engine with unit := some (u.faulted tg) } : Engine) = _
    rw [readFailed_engine]

/-- A sweep unit's failed read hands it back; the sweep's fields are those of its end, with the record skipped. -/
theorem exec_gatherReadTimeout_sweep {s : State} {i : IssuedOwn} {tg : Target} {u : WorkUnit} {x : Setup}
    (h : GatherRead s i tg u x) {o : Offer} (hk : u.kind = .sweep o) : exec .gatherReadTimeout s =
      .next (s.handedBack i.req.serial
        ((if u.reported then s.sweep.past o else s.sweep.released).skips o)).sweepExamine := by
  rw [exec_gatherReadTimeout h, abandon_sweep hk]
  have hsweep : (s.dropOwn i.req.serial).storeFault.clearUnit.sweep = s.sweep := readFailed_sweep s i.req.serial
  cases u.reported
  · rw [sweepHandBack_unreported, hsweep]; rfl
  · rw [sweepHandBack_reported, hsweep]; rfl

/-- The first part of O34. -/
theorem gatherRead_taken {s : State} {i : IssuedOwn} {tg : Target} {u : WorkUnit} {x : Setup} (h : GatherRead s i tg u x)
    {a : Answer} {d : List Byte} {u1 : WorkUnit} {w : Work} (hd : s.ownData i a = some d)
    (hu : u1 = { u with gathered := u.gathered ++ [(tg, d)] }) (hw : w = Work.start x u1.gathered) :
    (∀ y, (unitNeeds u s.subUnits (s.ctx x u) w).find? (fun z => !w.has z) = some y →
      ∃ t : State, exec (.gatherReadResponse a) s = .next t ∧ t.engine = { s.engine with unit := some u1 } ∧
        Awaits t (.gather y) (s.targetOff y) (.read y.len) ∧ OnlyParts s t [.engine, .issued, .raised]) ∧
    ((∀ y ∈ unitNeeds u s.subUnits (s.ctx x u) w, w.has y = true) →
      ∃ t : State, exec (.gatherReadResponse a) s = .next t ∧
        t.engine = { s.engine with unit := some { u1 with phase := .decide } } ∧ OnlyParts s t [.engine, .issued]) := by
  subst hw hu
  rw [exec_gatherReadResponse h hd]
  refine ⟨fun y hy => ⟨_, rfl, ?_⟩, fun hall => ⟨_, rfl, ?_⟩⟩
  · rw [gatherStep_reads (s := s.dropOwn i.req.serial) (u := { u with gathered := u.gathered ++ [(tg, d)] }) hy]
    exact ⟨raise_engine _ _ _ _ _, awaits_raise _ _ _ _ _, parts_of_dropOwn (grows_gatherRead _ _ y)⟩
  · rw [gatherStep_decides (s := s.dropOwn i.req.serial) (u := { u with gathered := u.gathered ++ [(tg, d)] })
      ((find_not_has_eq_none _ _).mpr hall)]
    exact ⟨rfl, parts_of_dropOwn (grows_setUnit _ _)⟩

end Sys2Proof.Machine
end


section
/-! Obligation O34, the reads: the records each unit needs, link by link. -/

namespace Sys2Proof.Machine

/-! ## Records named by fields, and walks -/

theorem targets_of_ref {w : Work} {r : Region} {i : Option Nat} {k : Nat} (h : w.ref r i = some k) :
    w.targets r i = [.record r k] := by simp [Work.targets, h]

theorem targets_of_ref_none {w : Work} {r : Region} {i : Option Nat} (h : w.ref r i = none) : w.targets r i = [] := by
  simp [Work.targets, h]

theorem ref_some_of_lt {w : Work} {r : Region} {k : Nat} (h : k < w.count r) : w.ref r (some k) = some k := by
  simp [Work.ref, h]

theorem ref_some_of_le {w : Work} {r : Region} {k : Nat} (h : w.count r ≤ k) : w.ref r (some k) = none := by
  simp [Work.ref, h]

theorem mem_targets_iff (w : Work) (r : Region) (i : Option Nat) (x : Target) :
    x ∈ w.targets r i ↔ ∃ k, i = some k ∧ k < (w.setup.regions.entry r).count ∧ x = .record r k := by
  cases i with
  | none => simp [targets_of_ref_none (w := w) (r := r) (i := none) rfl]
  | some j =>
    rcases Nat.lt_or_ge j (w.count r) with hj | hj
    · have hj' : j < (w.setup.regions.entry r).count := hj
      simp [targets_of_ref (ref_some_of_lt hj), hj']
    · have hj' : ¬ j < (w.setup.regions.entry r).count := Nat.not_lt.mpr hj
      simp [targets_of_ref_none (ref_some_of_le hj), hj']

theorem upTo_eq (stop : Nat × Hold → Bool) : ∀ l : List (Nat × Hold),
    upTo stop l = l.takeWhile (fun x => !stop x) ++ (l.find? stop).toList
  | [] => rfl
  | x :: xs => by
    rw [upTo]
    cases hx : stop x
    · simp [hx, upTo_eq stop xs]
    · simp [hx]

theorem seekCopies_eq (w : Work) (t : Nat) : ∀ cs : List Nat,
    w.seekCopies t cs = cs.takeWhile (fun c => !w.idleCopy t c) ++ (cs.find? (w.idleCopy t)).toList
  | [] => rfl
  | c :: cs => by
    rw [Work.seekCopies]
    cases hc : w.idleCopy t c
    · simp [hc, seekCopies_eq w t cs]
    · simp [hc]

theorem queueTargets_eq (w : Work) (t : Nat) (stop : Nat × Hold → Bool) : w.queueTargets t stop =
    ((w.queue t).takeWhile (fun x => !stop x) ++ ((w.queue t).find? stop).toList).map (fun x => Target.record .holds x.1) := by
  rw [Work.queueTargets, upTo_eq]

/-- A walk that meets no hold of the patron goes to the end of the queue. -/
theorem queueTargets_none {w : Work} {t : Nat} {stop : Nat × Hold → Bool} (h : ∀ z ∈ w.queue t, stop z = false) :
    w.queueTargets t stop = w.queueTargets t (fun _ => false) := by
  have hall : ∀ p : Nat × Hold → Bool, (∀ z ∈ w.queue t, p z = false) →
      w.queueTargets t p = (w.queue t).map (fun x => Target.record .holds x.1) := fun p hp => by
    rw [queueTargets_eq, List.find?_eq_none.mpr (fun z hz => by simp [hp z hz]),
      List.takeWhile_eq_self_iff.mpr (fun z hz => by simp [hp z hz]), Option.toList_none, List.append_nil]
  rw [hall stop h, hall _ (fun _ _ => rfl)]

theorem firstAt_eq_none {p : Nat × Hold → Bool} : ∀ (l : List (Nat × Hold)) (k : Nat),
    firstAt p k l = none ↔ ∀ z ∈ l, p z = false
  | [], k => by simp [firstAt]
  | x :: xs, k => by
    rw [firstAt]
    cases hx : p x
    · simp [hx, firstAt_eq_none xs (k + 1)]
    · simp [hx]

theorem titleOf_of_lt {w : Work} {i : Nat} (h : (w.item i).title < w.count .titles) :
    w.titleOf i = some (w.item i).title := ref_some_of_lt h

theorem titleOf_of_not_lt {w : Work} {i : Nat} (h : ¬ (w.item i).title < w.count .titles) : w.titleOf i = none :=
  ref_some_of_le (Nat.not_lt.mp h)

/-! ## The touch steps -/

theorem touchReads (w : Work) (T i : Nat) (collects : Hold → Bool) : TouchReads w T i collects where
  available h := by simp only [Work.touchTargets, h]
  onLoan h := by simp only [Work.touchTargets, h]
  noHold h href := by simp only [Work.touchTargets, h, href]
  noTitle hold h href htitle := by simp [Work.touchTargets, h, href, htitle, targets_of_ref_none htitle]
  setAside hold t h href htitle := by
    simp only [Work.touchTargets, h, href, htitle, targets_of_ref htitle, Work.unlinkTargets, List.cons_append, List.nil_append,
      List.append_assoc]

/-! ## The units of an entry -/

theorem renewReads (k : Ctx) (w : Work) (i : Nat) : RenewReads k w i (needsRenewOf k w i) := by
  refine ⟨fun h => ?_, fun h => ?_⟩
  · simp [needsRenewOf, Nat.not_lt.mpr h]
  · by_cases ht : (w.item i).title < w.count .titles
    · simp [needsRenewOf, h, titleOf_of_lt ht, ht]
    · simp [needsRenewOf, h, titleOf_of_not_lt ht, ht]

theorem ownHoldReads (k : Ctx) (w : Work) (leaves : Hold → Bool) : OwnHoldReads k w leaves (ownHoldTargets k w leaves) := by
  rintro t rfl
  refine ⟨fun hnone => ?_, fun j h y hfirst => ⟨fun c hc hl => ?_, fun hstay => ?_⟩⟩
  · have hstop : ∀ z ∈ w.queue k.entry.target, decide (z.2.patron = some k.patron) = false := by simpa using hnone
    have hown : w.ownHold k.entry.target k.patron = none := (firstAt_eq_none _ 1).mpr hstop
    rw [ownHoldTargets, hown, queueTargets_none hstop, List.append_nil]
  · have hown : w.ownHold k.entry.target k.patron = some (j, h, y) := hfirst
    simp [ownHoldTargets, hown, hc, hl]
  · have hown : w.ownHold k.entry.target k.patron = some (j, h, y) := hfirst
    rcases hstay with hc | hl
    · simp [ownHoldTargets, hown, hc]
    · simp only [ownHoldTargets, hown, hl]
      cases w.ref .items y.copy <;> simp

theorem cardPatron_none {k : Ctx} {w : Work}
    (h : w.count .patrons ≤ (parseCard (w.raw (.record .cards k.entry.target))).patron) : cardPatron k w = none :=
  ref_some_of_le h

theorem cardPatron_some {k : Ctx} {w : Work}
    (h : (parseCard (w.raw (.record .cards k.entry.target))).patron < w.count .patrons) :
    cardPatron k w = some (parseCard (w.raw (.record .cards k.entry.target))).patron := ref_some_of_lt h

theorem rangeValid_iff (e : Entry) : rangeValid e = true ↔ 1 ≤ e.first ∧ e.first ≤ e.last ∧ e.last ≤ 40 := decide_eq_true_iff

theorem pauseSeeks_iff (k : Ctx) (w : Work) : pauseSeeks k w = true ↔ k.entry.day = 0 ∧ ∃ j h y,
    firstAt (fun z => decide (z.2.patron = some k.patron)) 1 (w.queue k.entry.target) = some (j, h, y) ∧
      y.state = .suspended := by
  rw [pauseSeeks, Bool.and_eq_true, decide_eq_true_eq, Option.any_eq_true]
  simp only [Work.ownHold, Prod.exists, decide_eq_true_eq]

theorem needsClaim_active {k : Ctx} {w : Work} {card : Card} (hcard : card = parseCard (w.raw (.record .cards k.entry.target)))
    (ha : card.state = .active) (hp : card.patron < w.count .patrons) :
    needsClaim k w = [.record .cards k.entry.target, .record .patrons card.patron] := by
  subst hcard
  have hpatron := ref_some_of_lt hp
  rw [needsClaim, if_pos ha, cardPatron_some hp, targets_of_ref hpatron]
  rfl

theorem needsClaim_card {k : Ctx} {w : Work} {card : Card} (hcard : card = parseCard (w.raw (.record .cards k.entry.target)))
    (h : card.state ≠ .active ∨ w.count .patrons ≤ card.patron) : needsClaim k w = [.record .cards k.entry.target] := by
  subst hcard
  by_cases ha : (parseCard (w.raw (.record .cards k.entry.target))).state = .active
  · rw [needsClaim, if_pos ha, cardPatron_none (h.resolve_left (not_not_intro ha)), targets_of_ref_none rfl, List.append_nil]
  · rw [needsClaim, if_neg ha, List.append_nil]

theorem needsReturn_eq (k : Ctx) (w : Work) {i : Nat} (hi : i = k.entry.target) : needsReturn k w = [.record .items i] ++
    (if (w.item i).state = .onLoan then w.targets .patrons (w.item i).borrower else []) ++
    (if (w.item i).title < w.count .titles then .record .titles (w.item i).title ::
      (if (w.item i).state = .onLoan then w.offerTargets k.day i (w.item i).title else []) else []) ++
    w.touchTargets k.day i (fun _ => false) ++ [.summary] := by
  subst hi
  by_cases ht : (w.item k.entry.target).title < w.count .titles
  · simp [needsReturn, titleOf_of_lt ht, ht]
  · simp [needsReturn, titleOf_of_not_lt ht, ht]

theorem needsRenewSet_reads (k : Ctx) (w : Work) :
    ((¬(1 ≤ k.entry.first ∧ k.entry.first ≤ k.entry.last ∧ k.entry.last ≤ 40) ∨ selection k w = []) →
      needsRenewSet k w = [.record .patrons k.patron]) ∧
    (∀ x xs, 1 ≤ k.entry.first → k.entry.first ≤ k.entry.last → k.entry.last ≤ 40 → selection k w = x :: xs →
      ∃ l, RenewReads k w x.2 l ∧ needsRenewSet k w = .record .patrons k.patron :: l) := by
  refine ⟨fun h => ?_, fun x xs h1 h2 h3 hsel => ⟨_, renewReads k w x.2, ?_⟩⟩
  · by_cases hrange : rangeValid k.entry = true
    · rw [needsRenewSet, if_pos hrange, h.resolve_left (not_not_intro ((rangeValid_iff _).mp hrange))]
      rfl
    · rw [needsRenewSet, if_neg hrange]
      rfl
  · rw [needsRenewSet, if_pos ((rangeValid_iff _).mpr ⟨h1, h2, h3⟩), hsel]
    rfl

theorem needsHoldPause_reads (k : Ctx) (w : Work) :
    ∃ l m, OwnHoldReads k w (fun x => lapsed x k.day) l ∧ needsHoldPause k w = l ++ m ++ [.summary] ∧
      (∀ j h y, firstAt (fun z => decide (z.2.patron = some k.patron)) 1 (w.queue k.entry.target) = some (j, h, y) →
        k.entry.day = 0 → y.state = .suspended →
        m = w.copyTargets (w.seekCopies k.entry.target (w.title k.entry.target).copies)) ∧
      ((k.entry.day ≠ 0 ∨ ∀ j h y, firstAt (fun z => decide (z.2.patron = some k.patron)) 1 (w.queue k.entry.target) =
        some (j, h, y) → y.state ≠ .suspended) → m = []) := by
  refine ⟨_, _, ownHoldReads k w _, rfl, fun j h y hfirst hday hy => ?_, fun hno => ?_⟩
  · exact if_pos ((pauseSeeks_iff k w).mpr ⟨hday, j, h, y, hfirst, hy⟩)
  · refine if_neg (fun hseeks => ?_)
    obtain ⟨hday, j, h, y, hfirst, hy⟩ := (pauseSeeks_iff k w).mp hseeks
    exact hno.elim (fun hd => hd hday) (fun hall => hall j h y hfirst hy)

theorem entryReads (k : Ctx) (w : Work) : EntryReads k w where
  claim _ hcard := ⟨fun ⟨ha, hp⟩ => needsClaim_active hcard ha hp, needsClaim_card hcard⟩
  sessions := ⟨rfl, rfl⟩
  lend := rfl
  returnItem _ hi := needsReturn_eq k w hi
  renew := renewReads k w k.entry.target
  renewSet := needsRenewSet_reads k w
  holdPlace := rfl
  holdCancel := ⟨_, ownHoldReads k w _, rfl⟩
  holdPause := needsHoldPause_reads k w
  money := ⟨rfl, rfl⟩
  arrive := rfl
  patronBar := rfl

/-! ## The other units -/

theorem needsResume_reads (T : Nat) (w : Work) (h : Nat) :
    (w.ref .titles (w.hold h).title = none → needsResume T w h = [.record .holds h]) ∧
    (∀ t, w.ref .titles (w.hold h).title = some t → needsResume T w h = [.record .holds h, .record .titles t] ++
      (if resumable (w.hold h) T then
        w.queueTargets t (fun x => readyHold T x.2) ++ w.copyTargets (w.seekCopies t (w.title t).copies) else [])) := by
  refine ⟨fun hnone => ?_, fun t ht => ?_⟩
  · simp only [needsResume, hnone, List.append_nil]
  · simp only [needsResume, ht]
    rfl

theorem unitReads (u : WorkUnit) (sub : SubUnits) (k : Ctx) (w : Work) : UnitReads u sub k w where
  entry e h := by simp only [unitNeeds, h]
  freshen p i is h hsub := by
    have hneeds : unitNeeds u sub k w = needsFreshenSub k w i := by simp only [unitNeeds, h, hsub]
    rw [hneeds]
    exact ⟨fun hi => by simp [needsFreshenSub, Nat.not_lt.mpr hi], fun hi => by simp [needsFreshenSub, hi]⟩
  renewal r x xs h hsub hr := by
    have hneeds : unitNeeds u sub k w = needsRenewOf k w x.2 := by simp only [unitNeeds, h, hsub, hr]
    rw [hneeds]
    exact renewReads k w x.2
  none h := by
    simp only [List.mem_cons, List.not_mem_nil, or_false] at h
    rcases h with h | h | h | h | h <;> simp only [unitNeeds, h]
  item i h := by
    have hneeds : unitNeeds u sub k w = needsItemUnit k.day w i := by simp only [unitNeeds, h, sweepNeeds]
    exact hneeds
  resume h hk := by
    have hneeds : unitNeeds u sub k w = needsResume k.day w h := by simp only [unitNeeds, hk, sweepNeeds]
    rw [hneeds]
    exact needsResume_reads k.day w h
  progress e h := by simp only [unitNeeds, h, sweepNeeds]

/-- Settles O34: the commands by the equations of a gather read answered or failed, the reads by those of each unit's needs. -/
theorem gatherReadsAreTaken : Obligations.GatherReadsAreTaken := by
  unfold Obligations.GatherReadsAreTaken
  refine ⟨fun s i tg u x h => ⟨fun a d u1 w hd hu hw => gatherRead_taken h hd hu hw, fun k => ?_, fun hk => ?_,
    fun o hk hrep => ?_, fun o hk hrep => ?_⟩, fun u sub k w => ⟨unitReads u sub k w, entryReads k w⟩, touchReads,
    fun w T i t => rfl, queueTargets_eq, mem_targets_iff, seekCopies_eq, fun w cs => rfl⟩
  · rw [exec_gatherReadError h, exec_gatherReadTimeout h]
  · obtain ⟨t, hexec, hengine, hloader, hshown, hparts⟩ := exec_gatherReadTimeout_batch h hk
    exact ⟨t, u.faulted tg, hexec, hengine, rfl, rfl, rfl, rfl, rfl, rfl, rfl, rfl, rfl, hloader, hshown, hparts⟩
  · refine ⟨_, exec_gatherReadTimeout_sweep h hk, ?_⟩
    obtain ⟨hengine, hloader, hshown, hparts⟩ := handedBack_spec s i.req.serial
      ((if u.reported then s.sweep.past o else s.sweep.released).skips o)
    refine ⟨hengine, hloader, hshown, hparts, fun ho => ?_, fun e he => ?_⟩
    · show (if u.reported then s.sweep.past o else s.sweep.released).skips o = _
      rw [if_pos hrep, skips_record _ ho, past_skipped]
    · show (if u.reported then s.sweep.past o else s.sweep.released).skips o = _
      rw [if_pos hrep, skips_progress _ he]
  · refine ⟨_, exec_gatherReadTimeout_sweep h hk, ?_⟩
    obtain ⟨hengine, hloader, hshown, hparts⟩ := handedBack_spec s i.req.serial
      ((if u.reported then s.sweep.past o else s.sweep.released).skips o)
    have hfields : (s.handedBack i.req.serial ((if u.reported then s.sweep.past o else s.sweep.released).skips o)).sweep =
        s.sweep.released.skips o := by
      show (if u.reported then s.sweep.past o else s.sweep.released).skips o = _
      rw [hrep]
      rfl
    exact ⟨hengine, hloader, hshown, fun ho => hfields.trans (skips_record _ ho), fun e he => hfields.trans (skips_progress _ he),
      hparts⟩

end Sys2Proof.Machine
end


section
/-! Obligation O35, the writes: a unit's write answered, and the next one raised. -/

namespace Sys2Proof.Machine

/-! ## Raising the next write -/

theorem raiseNext_cons {s : State} {u : WorkUnit} {w : MemWrite} {ws : List MemWrite} (h : u.toWrite = w :: ws) :
    s.raiseNext u = (s.setUnit { u with toWrite := ws }).raise w.tag w.off (.write w.lanes) := by
  simp only [State.raiseNext, h]

theorem raiseNext_written {s : State} {u : WorkUnit} (h : u.toWrite = []) (hp : u.phase = .note) :
    s.raiseNext u = s.raiseWritten u := by simp only [State.raiseNext, h, hp]

theorem raiseNext_clear {s : State} {u : WorkUnit} (h : u.toWrite = []) (hp : u.phase = .apply) :
    s.raiseNext u = (s.setUnit { u with phase := .clear }).raiseWrite .clear Config.noteBase [0] := by
  simp only [State.raiseNext, h, hp]

/-- The next write of a phase is raised: the unit has one write fewer to raise. -/
structure RaisesNext (s t : State) (u : WorkUnit) (w : MemWrite) : Prop where
  engine : t.engine = { s.engine with unit := some u }
  raised : Awaits t w.tag w.off (.write w.lanes)
  grows : Grows s t [.engine, .raised, .streams]
  streams : StreamsSettled s → SameStreams s t

theorem raiseNext_raises (s : State) {u : WorkUnit} {w : MemWrite} {ws : List MemWrite} (h : u.toWrite = w :: ws) :
    RaisesNext s (s.raiseNext u) { u with toWrite := ws } w := by
  rw [raiseNext_cons h]
  exact ⟨raise_engine _ _ _ _ _, awaits_raise _ _ _ _ _, (grows_setUnit s _).mono.andThen (grows_raise_answer _ _ _ _ _),
    fun hs => sameStreams_raise (s := s.setUnit { u with toWrite := ws }) hs _ _ _ _⟩

/-- The targets of the change list are in flight, and every issued read has met them. -/
def State.targetsInFlight (s : State) (u : WorkUnit) : State :=
  ({ s with
      engine := { s.engine with inFlight := u.changes.map Image.target }
      path := s.path.touch (u.changes.map Image.target) } : State).setUnit u

theorem raiseWritten_eq (s : State) (u : WorkUnit) :
    s.raiseWritten u = (s.targetsInFlight u).raiseWrite .written Config.noteBase [Config.noteWritten] := rfl

theorem grows_raiseWritten (s : State) (u : WorkUnit) : Grows s (s.raiseWritten u) [.upstream, .issued, .engine, .raised] :=
  (((grows_touch s _ (u.changes.map Image.target)).mono : Grows s _ [.upstream, .issued, .engine, .raised]).andThen
    (grows_setUnit _ u)).andThen (grows_raiseWrite _ _ _ _ _)

/-! ## A write of the current unit answered -/

section
variable {s : State} {p : Phase} {want : OwnTag → Bool} {i : IssuedOwn} {u : WorkUnit} {ls : List Lane}
  (h : UnitWrite s p want i u ls)
include h

theorem unitWriteAnswered_eq (a : Answer) (done : State → WorkUnit → State) :
    s.unitWriteAnswered p a want done =
      if answeredDone a then done (s.landedAs (s.mem.land i.req.addr ls a) i.req.serial) u
      else (s.landedAs (s.mem.land i.req.addr ls a) i.req.serial).writeError u
        (decide (i.req.tag = .note ∨ i.req.tag = .written)) := by
  obtain ⟨hreset, hrun, hunit, hphase, hforce, hpull, hbody⟩ := h
  obtain ⟨x, hx⟩ := Option.isSome_iff_exists.mp hforce
  have hin : s.unitIn p = some (u, x) := by simp [State.unitIn, hunit, hx, hreset, hrun, hphase]
  have hland : s.landOwn i.req a = { s with mem := s.mem.land i.req.addr ls a } := by simp only [State.landOwn, hbody]
  simp only [State.unitWriteAnswered, hpull, hin, hland]
  rfl

theorem unitWrite_done (done : State → WorkUnit → State) : s.unitWriteAnswered p .done want done =
    done (s.landedAs (s.mem.writeLanes i.req.addr ls) i.req.serial) u := unitWriteAnswered_eq h .done done

theorem unitWrite_error (k : Nat) (done : State → WorkUnit → State) : s.unitWriteAnswered p (.error k) want done =
    (s.landedAs (s.mem.land i.req.addr ls (.error k)) i.req.serial).writeError u
      (decide (i.req.tag = .note ∨ i.req.tag = .written)) := unitWriteAnswered_eq h (.error k) done
end

theorem exec_noteWriteDone (a : Answer) (s : State) : exec (.noteWriteDone a) s =
    .next (s.unitWriteAnswered .note a (fun t => decide (t = .note)) State.raiseNext) := rfl

theorem exec_unitEnd (a : Answer) (s : State) : exec (.unitEnd a) s =
    .next (s.unitWriteAnswered .clear a (fun t => decide (t = .clear)) State.endUnit) := rfl

theorem exec_applyWriteDone_note {s : State} {u : WorkUnit} (hu : s.engine.unit = some u) (hp : u.phase = .note) (a : Answer) :
    exec (.applyWriteDone a) s =
      .next (s.unitWriteAnswered .note a (fun t => decide (t = .written)) State.writeImages) := by
  show Host.Outcome.next (s.applyWriteAnswered a) = _
  simp only [State.applyWriteAnswered, hu, Option.map_some, hp]

theorem exec_applyWriteDone_apply {s : State} {u : WorkUnit} (hu : s.engine.unit = some u) (hp : u.phase = .apply) (a : Answer) :
    exec (.applyWriteDone a) s = .next (s.unitWriteAnswered .apply a isApplyTag State.raiseNext) := by
  show Host.Outcome.next (s.applyWriteAnswered a) = _
  simp only [State.applyWriteAnswered, hu, Option.map_some, hp]

theorem sameMemoryOutside_writeLanes {s t : State} {a : Nat} {ls : List Lane} (h : t.mem = s.mem.writeLanes a ls) :
    SameMemoryOutside s t a ls.length := fun x hx => by rw [h]; exact read_writeLanes_outside ls _ a x hx

/-- A write has landed and the next one is raised, seen from before the landing. -/
theorem RaisesNext.landed {s t : State} {a k : Nat} {ls : List Lane} {u : WorkUnit} {w : MemWrite}
    (h : RaisesNext (s.landedAs (s.mem.writeLanes a ls) k) t u w) :
    t.mem = s.mem.writeLanes a ls ∧ SameMemoryOutside s t a ls.length ∧ t.engine = { s.engine with unit := some u } ∧
      Awaits t w.tag w.off (.write w.lanes) ∧ OnlyParts s t [.memory, .issued, .raised, .engine, .streams] ∧
      (StreamsSettled s → SameStreams s t) :=
  ⟨mem_of_landedAs h.grows, sameMemoryOutside_writeLanes (mem_of_landedAs h.grows), h.engine, h.raised,
    parts_of_landedAs h.grows, h.streams⟩

/-! ## The images, applied -/

theorem applyWrite_congr {s t : State} (h : t.loader.inForce = s.loader.inForce) (g : Image) :
    t.applyWrite g = s.applyWrite g := by
  have hregions : t.regions = s.regions := congrArg (Option.map Setup.regions) h
  unfold State.applyWrite State.targetOff
  rw [hregions]

theorem writeImages_eq {s v : State} (h : v.loader.inForce = s.loader.inForce) (u : WorkUnit) :
    v.writeImages u = v.raiseNext { u with phase := .apply, toWrite := u.changes.map s.applyWrite } := by
  have hfun : v.applyWrite = s.applyWrite := funext (applyWrite_congr h)
  rw [State.writeImages, hfun]

/-- Apply begins, or begins again, with the first image. -/
theorem writeImages_raises {s v : State} (h : v.loader.inForce = s.loader.inForce) {u : WorkUnit} {g : Image} {gs : List Image}
    (hg : u.changes = g :: gs) :
    RaisesNext v (v.writeImages u) { u with phase := .apply, toWrite := gs.map s.applyWrite } (s.applyWrite g) := by
  rw [writeImages_eq h]
  exact raiseNext_raises v (u := { u with phase := .apply, toWrite := u.changes.map s.applyWrite }) (by rw [hg]; rfl)

section
variable (s : State) (g : Image)

theorem applyWrite_record {r : Region} {k : Nat} (h : g.target = .record r k) :
    s.applyWrite g = ⟨s.targetOff (.record r k), guardedLanes r 0 g.contents, .image none⟩ := by
  simp only [State.applyWrite, h]

theorem applyWrite_summary (h : g.target = .summary) :
    s.applyWrite g = byteWrite (.image none) Config.summaryBase g.contents := by simp only [State.applyWrite, h]

theorem applyWrite_desk {n : StreamId} (h : g.target = .desk n) :
    s.applyWrite g = byteWrite (.image (some n)) (deskAddr n Config.answerOff + g.run) g.contents := by
  simp only [State.applyWrite, h]
end

/-- A write of a record strobes its guarded bytes alone. -/
theorem guardedLanes_strobe {r : Region} {bs : List Byte} {o : Nat} {l : Lane} (h : (guardedLanes r 0 bs)[o]? = some l) :
    bs[o]? = some l.value ∧ (l.strobe = true ↔ r.fieldKind o = .guarded) := by
  rw [guardedLanes_getElem?, Nat.zero_add, Option.map_eq_some_iff] at h
  obtain ⟨b, hb, rfl⟩ := h
  exact ⟨hb, decide_eq_true_iff⟩

/-! ## The parts of O35 about commands -/

theorem noteWrite_done {s : State} {i : IssuedOwn} {u : WorkUnit} {ls : List Lane}
    (h : UnitWrite s .note (fun t => decide (t = .note)) i u ls) :
    (∀ w ws, u.toWrite = w :: ws → ∃ t : State, exec (.noteWriteDone .done) s = .next t ∧
      t.mem = s.mem.writeLanes i.req.addr ls ∧ SameMemoryOutside s t i.req.addr ls.length ∧
      t.engine = { s.engine with unit := some { u with toWrite := ws } } ∧
      Awaits t w.tag w.off (.write w.lanes) ∧
      OnlyParts s t [.memory, .issued, .raised, .engine, .streams] ∧ (StreamsSettled s → SameStreams s t)) ∧
    (u.toWrite = [] → ∃ t : State, exec (.noteWriteDone .done) s = .next t ∧
      t.mem = s.mem.writeLanes i.req.addr ls ∧ SameMemoryOutside s t i.req.addr ls.length ∧
      t.engine =
        { s.engine with inFlight := u.changes.map Image.target, unit := some u } ∧
      Awaits t .written Config.noteBase (.write (lanesOf [0x5A])) ∧
      t.path.upIssued =
        s.path.upIssued.map (fun r => { r with touched := r.touched ++ u.changes.map Image.target }) ∧
      t.path.ownIssued = (s.path.ownIssued.filter (fun r => decide (r.req.serial ≠ i.req.serial))).map
        (fun r => { r with touched := r.touched ++ u.changes.map Image.target }) ∧
      t.path.lastGranted = s.path.lastGranted ∧
      OnlyParts s t [.memory, .issued, .raised, .engine, .upstream]) := by
  rw [exec_noteWriteDone, unitWrite_done h]
  refine ⟨fun w ws hw => ⟨_, rfl, (raiseNext_raises _ hw).landed⟩, fun hnil => ⟨_, rfl, ?_⟩⟩
  rw [raiseNext_written hnil h.2.2.2.1]
  have hgrows := grows_raiseWritten (s.landedAs (s.mem.writeLanes i.req.addr ls) i.req.serial) u
  have hraise := onlyParts_raise ((s.landedAs (s.mem.writeLanes i.req.addr ls) i.req.serial).targetsInFlight u) .written
    Config.noteBase (.write (lanesOf [Config.noteWritten])) none rfl
  obtain ⟨-, -, -, -, hup, -, -⟩ := hraise .upstream (by decide)
  obtain ⟨hown, hlast⟩ := hraise .issued (by decide)
  exact ⟨mem_of_landedAs hgrows, sameMemoryOutside_writeLanes (mem_of_landedAs hgrows),
    hraise .engine (by decide), awaits_raiseWrite _ _ _ _ _, hup, hown, hlast, parts_of_landedAs hgrows⟩

theorem writtenWrite_done {s : State} {i : IssuedOwn} {u : WorkUnit} {ls : List Lane} {g : Image} {gs : List Image}
    (h : UnitWrite s .note (fun t => decide (t = .written)) i u ls) (hg : u.changes = g :: gs) :
    ∃ t : State, exec (.applyWriteDone .done) s = .next t ∧
      t.mem = s.mem.writeLanes i.req.addr ls ∧ SameMemoryOutside s t i.req.addr ls.length ∧
      t.engine = { s.engine with unit := some { u with phase := .apply, toWrite := gs.map s.applyWrite } } ∧
      Awaits t (s.applyWrite g).tag (s.applyWrite g).off (.write (s.applyWrite g).lanes) ∧
      OnlyParts s t [.memory, .issued, .raised, .engine, .streams] ∧ (StreamsSettled s → SameStreams s t) := by
  refine ⟨_, exec_applyWriteDone_note h.2.2.1 h.2.2.2.1 .done, ?_⟩
  rw [unitWrite_done h]
  exact RaisesNext.landed (s := s) (writeImages_raises (s := s)
    (v := s.landedAs (s.mem.writeLanes i.req.addr ls) i.req.serial) rfl hg)

theorem imageWrite_done {s : State} {i : IssuedOwn} {u : WorkUnit} {ls : List Lane} (h : UnitWrite s .apply isApplyTag i u ls) :
    (∀ w ws, u.toWrite = w :: ws → ∃ t : State, exec (.applyWriteDone .done) s = .next t ∧
      t.mem = s.mem.writeLanes i.req.addr ls ∧ SameMemoryOutside s t i.req.addr ls.length ∧
      t.engine = { s.engine with unit := some { u with toWrite := ws } } ∧
      Awaits t w.tag w.off (.write w.lanes) ∧
      OnlyParts s t [.memory, .issued, .raised, .engine, .streams] ∧ (StreamsSettled s → SameStreams s t)) ∧
    (u.toWrite = [] → ∃ t : State, exec (.applyWriteDone .done) s = .next t ∧
      t.mem = s.mem.writeLanes i.req.addr ls ∧ SameMemoryOutside s t i.req.addr ls.length ∧
      t.engine = { s.engine with unit := some { u with phase := .clear } } ∧
      Awaits t .clear Config.noteBase (.write (lanesOf [0])) ∧
      OnlyParts s t [.memory, .issued, .raised, .engine]) := by
  rw [exec_applyWriteDone_apply h.2.2.1 h.2.2.2.1, unitWrite_done h]
  refine ⟨fun w ws hw => ⟨_, rfl, (raiseNext_raises _ hw).landed⟩, fun hnil => ⟨_, rfl, ?_⟩⟩
  rw [raiseNext_clear hnil h.2.2.2.1]
  have hgrows : Grows (s.landedAs (s.mem.writeLanes i.req.addr ls) i.req.serial) _ [.engine, .raised] :=
    (grows_setUnit _ { u with phase := .clear }).mono.andThen (grows_raiseWrite _ .clear Config.noteBase [0] none)
  exact ⟨mem_of_landedAs hgrows, sameMemoryOutside_writeLanes (mem_of_landedAs hgrows), raise_engine _ _ _ _ _,
    awaits_raiseWrite _ _ _ _ _, parts_of_landedAs hgrows⟩

end Sys2Proof.Machine
end


section
/-! Obligation O35, the lists: the change list, the order of changes, and the bytes of the note. -/

namespace Sys2Proof.Machine

/-! ## The change list -/

theorem putImage_eq (gs : List Image) (g : Image) : putImage gs g =
    if g.target ∈ gs.map Image.target then gs.map (fun x => if x.target = g.target then g else x) else gs ++ [g] := by
  have hiff : (gs.any (fun x => decide (x.target = g.target)) = true) ↔ g.target ∈ gs.map Image.target := by
    simp [List.any_eq_true, List.mem_map]
  unfold putImage
  by_cases h : g.target ∈ gs.map Image.target
  · rw [if_pos h, if_pos (hiff.mpr h)]
  · rw [if_neg h, if_neg (fun hn => h (hiff.mp hn))]

/-! ## The order of changes within the shared steps (R90) -/

theorem ChangesInOrder.mono {w v : Work} {ts us : List Target} (h : ChangesInOrder w v ts) (hs : ts.Sublist us) :
    ChangesInOrder w v us := by
  obtain ⟨l, hl, hsub⟩ := h
  exact ⟨l, hl, hsub.trans hs⟩

/-- Changes of anything but the images keep the order. -/
theorem ChangesInOrder.congr {w v v' : Work} {ts : List Target} (h : ChangesInOrder w v ts) (hv : v'.images = v.images) :
    ChangesInOrder w v' ts := by
  obtain ⟨l, hl, hsub⟩ := h
  exact ⟨l, by rw [hv, hl], hsub⟩

theorem ChangesInOrder.setSum {w v : Work} {ts : List Target} (h : ChangesInOrder w v ts) (f : Summary → Summary) :
    ChangesInOrder w (v.setSum f) ts := h.congr rfl

theorem freshen_of_not_onLoan {w : Work} {T i : Nat} (h : (w.item i).state ≠ .onLoan) : w.freshen T i = w := by
  unfold Work.freshen
  split
  next hs _ _ _ => exact absurd hs h
  next => rfl

/-- What freshen charges on day `T` for item `i`, of charged-through day `s` and due day `due`, borrowed by `b` (R144). -/
def Work.freshenAmount (w : Work) (T i s due b : Nat) : Nat :=
  freshenApplied (freshenCharge (freshenDays T s due (w.setup.classOf (w.item i).cls).grace)
    (w.setup.classOf (w.item i).cls).rate (w.setup.classOf (w.item i).cls).cap (w.item i).accrued) (w.patron b).balance

/-- The item and the patron as freshen leaves them. -/
def Work.freshItem (w : Work) (T i x : Nat) : Item :=
  { w.item i with accrued := (w.item i).accrued + x, charged := some T }

def Work.freshPatron (w : Work) (b x : Nat) : Patron := { w.patron b with balance := (w.patron b).balance + x }

section
variable {w : Work} {T i s due b : Nat} (h : (w.item i).state = .onLoan) (hs : (w.item i).charged = some s)
  (hd : (w.item i).due = some due) (hb : w.ref .patrons (w.item i).borrower = some b)
include h hs hd hb

theorem freshen_late (hT : T ≤ s) : w.freshen T i = w := by
  simp only [Work.freshen, h, hs, hd, hb, if_neg (Nat.not_lt.mpr hT)]

theorem freshen_eq (hT : s < T) : w.freshen T i =
    { ((w.setItem i (w.freshItem T i (w.freshenAmount T i s due b))).setPatron b
          (w.freshPatron b (w.freshenAmount T i s due b))).setSum
        (fun m => { m with charged := moneyAdd m.charged (w.freshenAmount T i s due b) }) with
      fresh := [.item i [] (w.freshItem T i (w.freshenAmount T i s due b)).written,
        .patron b [] (w.freshPatron b (w.freshenAmount T i s due b))] } := by
  unfold Work.freshen
  split
  next s' due' b' _ hs' hd' hb' =>
    obtain rfl : s = s' := Option.some.inj (hs.symm.trans hs')
    obtain rfl : due = due' := Option.some.inj (hd.symm.trans hd')
    obtain rfl : b = b' := Option.some.inj (hb.symm.trans hb')
    exact if_pos hT
  next hno => exact absurd hb (hno s due b h hs hd)
end

/-- Freshen charges an item on loan with its days, its due day and its borrower in range, or leaves everything. -/
theorem freshen_cases (w : Work) (T i : Nat) : w.freshen T i = w ∨ ∃ s due b, (w.item i).state = .onLoan ∧
    (w.item i).charged = some s ∧ (w.item i).due = some due ∧ w.ref .patrons (w.item i).borrower = some b ∧ s < T := by
  unfold Work.freshen
  split
  next s due b h hs hd hb =>
    by_cases hT : s < T
    · exact .inr ⟨s, due, b, h, hs, hd, hb, hT⟩
    · exact .inl (if_neg hT)
  next => exact .inl rfl

theorem changesInOrder_freshen (w : Work) (T i : Nat) :
    ChangesInOrder w (w.freshen T i) (.record .items i :: w.targets .patrons (w.item i).borrower) := by
  rcases freshen_cases w T i with he | ⟨s, due, b, h, hs, hd, hb, hT⟩
  · rw [he]
    exact ChangesInOrder.refl w _
  · rw [freshen_eq h hs hd hb hT, targets_of_ref hb]
    exact ((changesInOrder_setItem w i _).trans (changesInOrder_setPatron _ b _)).congr rfl

/-- The hold in front of `h` in the queue of title `t`, when the title does not name `h` first (R30). -/
def Work.inFront (w : Work) (t h : Nat) : Option Nat :=
  if (w.title t).first = some h then none else predecessor h (w.queue t)

/-- The queue with the hold in front of `h` linked past it. -/
def Work.linkPast (w : Work) (t h : Nat) : Work :=
  match w.inFront t h with
  | some p => w.setHold p { w.hold p with next := (w.hold h).next }
  | none => w

theorem linkPast_some {w : Work} {t h p : Nat} (hp : w.inFront t h = some p) :
    w.linkPast t h = w.setHold p { w.hold p with next := (w.hold h).next } := by simp only [Work.linkPast, hp]

theorem linkPast_none {w : Work} {t h : Nat} (hp : w.inFront t h = none) : w.linkPast t h = w := by
  simp only [Work.linkPast, hp]

theorem unlink_eq (w : Work) (t h : Nat) : w.unlink t h = (w.linkPast t h).setTitle t
    { w.title t with
      first := if (w.title t).first = some h then (w.hold h).next else (w.title t).first
      last := if (w.title t).last = some h then w.inFront t h else (w.title t).last
      queueLen := (w.title t).queueLen - 1 } := rfl

theorem changesInOrder_unlink (w : Work) (t h : Nat) :
    ChangesInOrder w (w.unlink t h) (holdTarget (w.inFront t h) ++ [.record .titles t]) := by
  rw [unlink_eq]
  refine ChangesInOrder.trans ?_ (changesInOrder_setTitle _ t _)
  cases hp : w.inFront t h with
  | none => rw [linkPast_none hp]; exact ChangesInOrder.refl w _
  | some p => rw [linkPast_some hp]; exact changesInOrder_setHold w p _

theorem changesInOrder_free (w : Work) (h : Nat) : ChangesInOrder w (w.free h) [.record .holds h] :=
  (changesInOrder_setHold w h _).setSum _

theorem changesInOrder_trap (w : Work) (T c h : Nat) :
    ChangesInOrder w (w.trap T c h).1 [.record .items c, .record .holds h] :=
  (changesInOrder_setItem w c _).trans (changesInOrder_setHold _ h _)

theorem changesInOrder_offer {w : Work} {T t : Nat} {x : Nat × Hold}
    (hx : (w.queue t).find? (fun y => readyHold T y.2) = some x) (c : Nat) :
    ChangesInOrder w (w.offer T c t).1 [.record .items c, .record .holds x.1] := by
  cases hc : (w.item c).circulates with
  | true =>
    rw [offer_of_chosenHold_some ((chosenHold_of_circulates hc T t).trans hx)]
    exact changesInOrder_trap w T c x.1
  | false =>
    rw [offer_of_chosenHold_none ((chosenHold_eq_none_iff w T c t).mpr (.inl hc))]
    exact (changesInOrder_setItem w c _).mono (by simp)

section
variable {w : Work} {t h : Nat} (ht : w.ref .titles (w.hold h).title = some t)
include ht

theorem expireHold_patron {p : Nat} (hp : w.ref .patrons (w.hold h).patron = some p) (T : Nat) : w.expireHold T h =
    (((w.unlink t h).free h).setPatron p ((((w.unlink t h).free h).patron p).expired w.setup.limits T)).setSum
      (fun m => { m with expired := countSucc m.expired }) := by
  simp only [Work.expireHold, Work.expireFrom, ht, hp]

theorem expireHold_nobody (hp : w.ref .patrons (w.hold h).patron = none) (T : Nat) : w.expireHold T h =
    ((w.unlink t h).free h).setSum (fun m => { m with expired := countSucc m.expired }) := by
  simp only [Work.expireHold, Work.expireFrom, ht, hp]

theorem changesInOrder_expireHold (T : Nat) :
    ChangesInOrder w (w.expireHold T h) (holdTarget (w.inFront t h) ++ [.record .titles t, .record .holds h] ++
      w.targets .patrons (w.hold h).patron) := by
  have hfreed : ChangesInOrder w ((w.unlink t h).free h) (holdTarget (w.inFront t h) ++ [.record .titles t, .record .holds h]) := by
    simpa using (changesInOrder_unlink w t h).trans (changesInOrder_free _ h)
  cases hp : w.ref .patrons (w.hold h).patron with
  | none =>
    rw [expireHold_nobody ht hp]
    exact (hfreed.mono (List.sublist_append_left _ _)).setSum _
  | some p =>
    rw [expireHold_patron ht hp, targets_of_ref hp]
    exact (hfreed.trans (changesInOrder_setPatron _ p _)).setSum _
end

theorem collect_eq {w : Work} {t h : Nat} (ht : w.ref .titles (w.hold h).title = some t) (p : Nat) : w.collect p h =
    (((w.unlink t h).free h).setPatron p (((w.unlink t h).free h).patron p).dropHold).setSum
      (fun m => { m with collected := countSucc m.collected }) := by
  simp only [Work.collect, ht]

theorem changesInOrder_collect {w : Work} {t h : Nat} (ht : w.ref .titles (w.hold h).title = some t) (p : Nat) :
    ChangesInOrder w (w.collect p h)
      (holdTarget (w.inFront t h) ++ [.record .titles t, .record .holds h, .record .patrons p]) := by
  rw [collect_eq ht]
  simpa using (((changesInOrder_unlink w t h).trans (changesInOrder_free _ h)).trans
    (changesInOrder_setPatron _ p _)).setSum (fun m => { m with collected := countSucc m.collected })

theorem changesInOrder_lend (w : Work) (k : Ctx) (i p : Nat) :
    ChangesInOrder w (w.lend k i p).1 [.record .items i, .record .patrons p] :=
  ((changesInOrder_setItem w i _).trans (changesInOrder_setPatron _ p _)).setSum _

theorem changesInOrder_endLoan (w : Work) (i c : Nat) :
    ChangesInOrder w (w.endLoan i c) (.record .items i :: w.targets .patrons (w.item i).borrower) := by
  unfold Work.endLoan
  cases hb : w.ref .patrons (w.item i).borrower with
  | none => exact (changesInOrder_setItem w i _).mono (by simp)
  | some b =>
    rw [targets_of_ref hb]
    exact (changesInOrder_setItem w i _).trans (changesInOrder_setPatron _ b _)

end Sys2Proof.Machine
end


section
/-! Obligation O35, the bytes of the note; the obligation. -/

namespace Sys2Proof.Machine

/-! ## The writes of the note (R92) -/

theorem imageWrites_getElem? : ∀ (gs : List Image) (i j : Nat), (imageWrites i gs)[j]? =
    gs[j]?.map (fun g => byteWrite .note (Config.noteBase + Config.imageOff (i + j)) g.noteBytes)
  | [], _, _ => rfl
  | g :: gs, i, 0 => rfl
  | g :: gs, i, j + 1 => by
    rw [imageWrites, List.getElem?_cons_succ, imageWrites_getElem? gs (i + 1) j, List.getElem?_cons_succ,
      Nat.add_right_comm, Nat.add_assoc]

@[simp] theorem imageWrites_length : ∀ (gs : List Image) (i : Nat), (imageWrites i gs).length = gs.length
  | [], _ => rfl
  | _ :: gs, i => by simp [imageWrites, imageWrites_length gs (i + 1)]

theorem imageWrites_tag {m : MemWrite} : ∀ (gs : List Image) (i : Nat), m ∈ imageWrites i gs → m.tag = .note
  | [], _, h => by simp [imageWrites] at h
  | g :: gs, i, h => by
    rcases List.mem_cons.mp h with rfl | h
    · rfl
    · exact imageWrites_tag gs (i + 1) h

/-- The four note writes that stand before the images. -/
def noteHead (u : WorkUnit) : List MemWrite :=
  [byteWrite .note (Config.noteBase + 1) (put1 (u.owner.map Fin.val)),
    byteWrite .note (Config.noteBase + 2) (put1 u.entry),
    byteWrite .note (Config.noteBase + 3) (leBytes 1 u.code),
    byteWrite .note (Config.noteBase + 4) (leBytes 1 u.changes.length)]

theorem noteWrites_eq (u : WorkUnit) : noteWrites u = noteHead u ++ imageWrites 0 u.changes := rfl

theorem noteWrites_head (u : WorkUnit) : ((noteWrites u).take 4).map (fun m => (m.off, m.lanes)) =
    [(4097, lanesOf (put1 (u.owner.map Fin.val))), (4098, lanesOf (put1 u.entry)), (4099, lanesOf (leBytes 1 u.code)),
      (4100, lanesOf (leBytes 1 u.changes.length))] := rfl

theorem noteWrites_tag {u : WorkUnit} {m : MemWrite} (h : m ∈ noteWrites u) : m.tag = .note := by
  rw [noteWrites_eq, List.mem_append] at h
  rcases h with h | h
  · simp only [noteHead, List.mem_cons, List.not_mem_nil, or_false] at h
    rcases h with rfl | rfl | rfl | rfl <;> rfl
  · exact imageWrites_tag _ _ h

theorem noteWrites_image {u : WorkUnit} {j : Nat} {g : Image} (h : u.changes[j]? = some g) :
    ∃ m, (noteWrites u)[4 + j]? = some m ∧ m.off = 4096 + 64 + j * 384 ∧ m.lanes = lanesOf g.noteBytes := by
  refine ⟨byteWrite .note (Config.noteBase + Config.imageOff (0 + j)) g.noteBytes, ?_, ?_, rfl⟩
  · rw [noteWrites_eq, List.getElem?_append_right (Nat.le_add_right 4 j)]
    show (imageWrites 0 u.changes)[4 + j - 4]? = _
    rw [Nat.add_sub_cancel_left, imageWrites_getElem?, h, Option.map_some]
  · show 4096 + (64 + (0 + j) * 384) = _
    omega

/-! ## The bytes of an image (R91) -/

section
variable (g : Image)

theorem noteBytes_drop : g.noteBytes.drop 16 = g.contents := by
  rw [Image.noteBytes, List.drop_left' (by simp)]

theorem noteBytes_kind : fieldAt g.noteBytes 0 1 = g.target.code % 256 := by
  simp only [Image.noteBytes, List.append_assoc]
  rw [fieldAt_append_left (by simp), fieldAt_leBytes]
  rfl

theorem noteBytes_run : fieldAt g.noteBytes 2 2 = g.run % 65536 := by
  simp only [Image.noteBytes, List.append_assoc]
  rw [fieldAt_append_right (by simp), fieldAt_append_right (by simp), fieldAt_append_left (by simp)]
  simp [fieldAt_leBytes]

theorem noteBytes_index : fieldAt g.noteBytes 4 4 = g.target.index % 4294967296 := by
  simp only [Image.noteBytes, List.append_assoc]
  rw [fieldAt_append_right (by simp), fieldAt_append_right (by simp), fieldAt_append_right (by simp),
    fieldAt_append_left (by simp)]
  simp [fieldAt_leBytes]

theorem noteBytes_length : fieldAt g.noteBytes 8 2 = g.contents.length % 65536 := by
  simp only [Image.noteBytes, List.append_assoc]
  rw [fieldAt_append_right (by simp), fieldAt_append_right (by simp), fieldAt_append_right (by simp),
    fieldAt_append_right (by simp), fieldAt_append_left (by simp)]
  simp [fieldAt_leBytes]

theorem run_of_not_desk (h : ∀ n, g.target ≠ .desk n) : g.run = 0 := by
  cases g with
  | desk d => exact absurd rfl (h d.desk)
  | _ => rfl

theorem noteBytes_record {r : Region} {k : Nat} (h : g.target = .record r k) : fieldAt g.noteBytes 0 1 = r.code ∧ g.run = 0 ∧
    (k < 4294967296 → fieldAt g.noteBytes 4 4 = k) := by
  have hcode := region_code_lt r
  refine ⟨?_, run_of_not_desk g (by simp [h]), fun hk => ?_⟩
  · rw [noteBytes_kind, h]
    exact Nat.mod_eq_of_lt (Nat.lt_trans hcode (by decide))
  · rw [noteBytes_index, h]
    exact Nat.mod_eq_of_lt hk

theorem noteBytes_summary (h : g.target = .summary) :
    fieldAt g.noteBytes 0 1 = 6 ∧ fieldAt g.noteBytes 4 4 = 0 ∧ g.run = 0 := by
  refine ⟨?_, ?_, run_of_not_desk g (by simp [h])⟩
  · rw [noteBytes_kind, h]; rfl
  · rw [noteBytes_index, h]; rfl

theorem noteBytes_desk {n : StreamId} (h : g.target = .desk n) :
    fieldAt g.noteBytes 0 1 = 7 ∧ fieldAt g.noteBytes 4 4 = n.val := by
  refine ⟨?_, ?_⟩
  · rw [noteBytes_kind, h]; rfl
  · rw [noteBytes_index, h]
    exact Nat.mod_eq_of_lt (Nat.lt_trans n.isLt (by decide))
end

theorem deskBytes_header {d : DeskImage} {h : AnswerHeader} (hd : d.header = some h) : (Image.desk d).run = 0 ∧
    (Image.desk d).contents = leBytes 1 h.state.code ++ leBytes 1 h.result.code ++ leBytes 1 h.count ++ [0] ++
      leBytes 2 h.guardHits ++ zeros 10 ++ (d.records.map encodeOutcome).flatten := by
  refine ⟨by simp only [Image.run, DeskImage.run, hd], ?_⟩
  simp only [Image.contents, DeskImage.bytes, hd]
  rfl

theorem deskBytes_records {d : DeskImage} (hd : d.header = none) : (Image.desk d).run = 16 + 16 * d.first ∧
    (Image.desk d).contents = (d.records.map encodeOutcome).flatten := by
  refine ⟨by simp only [Image.run, DeskImage.run, hd], ?_⟩
  simp only [Image.contents, DeskImage.bytes, hd]
  rfl

/-! ## A hold placed (R134) -/

/-- The hold a placement writes. -/
def placedForm (k : Ctx) (t : Nat) : Hold where
  state := if k.entry.until.isSome then .suspended else .waiting
  pickup := k.entry.pickup
  patron := some k.patron
  title := some t
  placed := k.day
  suspend := k.entry.until
  copy := none
  deadline := none
  next := none

/-- The last hold of a queue linked on to hold `h`. -/
def Work.linkOn (w : Work) (last : Option Nat) (h : Nat) : Work :=
  match last with
  | some l => w.setHold l { w.hold l with next := some h }
  | none => w

/-- The free hold taken, written and linked on, before the title and the patron. -/
def Work.placeLinked (w : Work) (k : Ctx) (t h : Nat) : Work :=
  ((w.setSum (fun m =>
      { m with freeHead := (w.hold h).next, freeCount := m.freeCount - 1, placed := countSucc m.placed })).setHold h
    (placedForm k t)).linkOn (w.ref .holds (w.title t).last) h

/-- The title of a placement's queue. -/
def Title.placed (tt : Title) (h : Nat) : Title :=
  { tt with
    first := if tt.first.isNone then some h else tt.first
    last := some h
    queueLen := tt.queueLen + 1 }

theorem placeHold_eq (w : Work) (k : Ctx) (t h : Nat) : w.placeHold k t h =
    ((w.placeLinked k t h).setTitle t ((w.title t).placed h)).setPatron k.patron
      { ((w.placeLinked k t h).setTitle t ((w.title t).placed h)).patron k.patron with
        activeHolds := (((w.placeLinked k t h).setTitle t ((w.title t).placed h)).patron k.patron).activeHolds + 1 } := rfl

theorem changesInOrder_linkOn (v : Work) {w : Work} {last : Option Nat} {l : Option Nat} (h : Nat)
    (hl : w.ref .holds l = last) : ChangesInOrder v (v.linkOn last h) (w.targets .holds l) := by
  cases last with
  | none => exact ChangesInOrder.refl v _
  | some j => rw [targets_of_ref hl]; exact changesInOrder_setHold v j _

theorem changesInOrder_placeHold (w : Work) (k : Ctx) (t h : Nat) : ChangesInOrder w (w.placeHold k t h)
    ([.record .holds h] ++ w.targets .holds (w.title t).last ++ [.record .titles t, .record .patrons k.patron]) := by
  have hlinked : ChangesInOrder w (w.placeLinked k t h) ([.record .holds h] ++ w.targets .holds (w.title t).last) :=
    ((changesInOrder_setSum w _).trans (changesInOrder_setHold _ h _)).trans (changesInOrder_linkOn _ h rfl)
  rw [placeHold_eq]
  exact hlinked.trans ((changesInOrder_setTitle _ t _).trans (changesInOrder_setPatron _ k.patron _))

/-- Settles O35: the writes by the equations of their phase, the lists and bytes by those of each. -/
theorem noteThenApply : Obligations.NoteThenApply := by
  unfold Obligations.NoteThenApply
  refine ⟨fun s i u ls h => noteWrite_done h, fun s i u ls g gs h hg => writtenWrite_done h hg,
    fun s i u ls h => imageWrite_done h, fun s g => ⟨fun r k h => ?_, fun h => ?_, fun n h => ?_⟩, fun w desk => rfl,
    fun w g => putImage_eq w.images g, ?_, fun u => ⟨?_, fun m hm => noteWrites_tag hm, noteWrites_head u, fun j g hj => noteWrites_image hj⟩,
    fun g => ⟨noteBytes_drop g, fun h => ?_, fun h => ?_, fun r k h => noteBytes_record g h, noteBytes_summary g,
      fun n h => noteBytes_desk g h⟩, fun d => ⟨deskBytes_records, fun h hd => deskBytes_header hd⟩, fun o => rfl⟩
  · rw [applyWrite_record s g h]
    exact ⟨rfl, guardedLanes_length _ _ _, fun o l hl => guardedLanes_strobe hl⟩
  · rw [applyWrite_summary s g h]
    exact ⟨rfl, rfl⟩
  · rw [applyWrite_desk s g h]
    exact ⟨rfl, rfl⟩
  · rintro w k T t h c i p pred rfl
    refine ⟨changesInOrder_freshen w T i, changesInOrder_unlink w t h, changesInOrder_free w h,
      fun x hx => changesInOrder_offer hx c, fun ht hlt => ?_, changesInOrder_lend w k i p, changesInOrder_endLoan w i c,
      changesInOrder_placeHold w k t h⟩
    have href : w.ref .titles (w.hold h).title = some t := by rw [ht]; exact ref_some_of_lt hlt
    exact ⟨changesInOrder_expireHold href T, changesInOrder_collect href p⟩
  · rw [noteWrites_eq, List.length_append, imageWrites_length]
    rfl
  · rw [noteBytes_run]; exact Nat.mod_eq_of_lt h
  · rw [noteBytes_length]; exact Nat.mod_eq_of_lt h

end Sys2Proof.Machine
end


section
/-! Obligation O36: a unit ends. -/

namespace Sys2Proof.Machine

/-! ## Watches spoiled by a unit's changes (R75) -/

/-- A stream's entry with the watches of the given records spoiled. -/
def Stream.spoiled (x : Stream) (ts : List Target) : Stream := { x with watches := spoilWatches ts x.watches }

theorem spoiled_settled {x : Stream} (h : x.settled = x) (ts : List Target) : (x.spoiled ts).settled = x.spoiled ts := by
  obtain ⟨hwatches, hidle, hfails⟩ := (settled_eq_iff x).mp h
  exact (settled_eq_iff _).mpr ⟨fun hc => by rw [Stream.spoiled, hwatches hc]; rfl, hidle, hfails⟩

theorem stream_spoil (s : State) (owner : Option StreamId) (ts : List Target) (n : StreamId) : (s.spoil owner ts).stream n =
    if owner = some n then s.stream n else ((s.stream n).spoiled ts).settled := by
  refine stream_foldl_all (P := fun _ => True)
    (F := fun n x => if owner = some n then x else (x.spoiled ts).settled) (fun _ _ _ => trivial)
    (fun x m _ => ?_) (fun x m k _ hk => ?_) trivial n
  · by_cases h : owner = some m
    · rw [if_pos h, if_pos h]
    · rw [if_neg h, if_neg h]
      exact stream_updStream_self x m _
  · by_cases h : owner = some m
    · rw [if_pos h]
    · rw [if_neg h]
      exact stream_updStream_ne x hk _

theorem onlyParts_spoil (s : State) (owner : Option StreamId) (ts : List Target) : OnlyParts s (s.spoil owner ts) [.streams] :=
  OnlyParts.foldl _ (fun x n => by
    split
    · exact OnlyParts.refl x _
    · exact onlyParts_updStream x n _) _ s

/-- What a unit's spoiling leaves of a stream, from a settled state. -/
theorem stream_spoil_settled {s : State} (hs : StreamsSettled s) (owner : Option StreamId) (ts : List Target) (n : StreamId) :
    (s.spoil owner ts).stream n = if owner = some n then s.stream n else (s.stream n).spoiled ts := by
  rw [stream_spoil, spoiled_settled (hs n)]

theorem spoil_settled {s : State} (hs : StreamsSettled s) (owner : Option StreamId) (ts : List Target) :
    StreamsSettled (s.spoil owner ts) := fun n => by
  rw [stream_spoil_settled hs]
  split
  · exact hs n
  · exact spoiled_settled (hs n) ts

/-! ## The batch ends with a header -/

/-- A stream's entry when a header has ended its batch. -/
def Stream.ended (x : Stream) (h : AnswerHeader) : Stream := ({ x.batchIdle with answer := h.state } : Stream).settled

theorem stream_endCurrent (s : State) (n : StreamId) (h : AnswerHeader) (m : StreamId) :
    (s.endCurrent n h).stream m = if m = n then (s.stream n).ended h else s.stream m :=
  stream_updStream _ m n _

theorem onlyParts_endCurrent (s : State) (n : StreamId) (h : AnswerHeader) :
    OnlyParts s (s.endCurrent n h) [.engine, .streams] :=
  ((onlyParts_engine s _).mono (by decide)).andThen (onlyParts_updStream _ n _)

theorem ended_watches {x : Stream} (hx : x.settled = x) (h : AnswerHeader) : (x.ended h).watches = x.watches := by
  show (if x.session.isClaimed then x.watches else []) = x.watches
  obtain ⟨hwatches, -, -⟩ := (settled_eq_iff x).mp hx
  split
  · rfl
  next hc => exact (hwatches (Bool.eq_false_iff.mpr hc)).symm

theorem ended_spec (x : Stream) (h : AnswerHeader) : BatchIsIdle (x.ended h) ∧ (x.ended h).answer = h.state ∧
    (x.ended h).session = x.session ∧ (x.ended h).guardHits = x.guardHits ∧
    (∀ p, x.session = .claimed p → (x.ended h).idleTimer = some 0) :=
  ⟨(batchIdle_settled_idle x).1, rfl, rfl, rfl, (batchIdle_settled_idle x).2⟩

/-! ## The end of a unit -/

/-- The engine is at a boundary and the unit's spoiling is done. -/
def State.unitCleared (s : State) (u : WorkUnit) : State := s.clearUnit.spoil u.owner u.spoil

theorem onlyParts_unitCleared (s : State) (u : WorkUnit) : OnlyParts s (s.unitCleared u) [.engine, .streams] :=
  ((onlyParts_clearUnit s).mono (by decide)).andThen (onlyParts_spoil _ _ _)

theorem unitCleared_engine (s : State) (u : WorkUnit) :
    (s.unitCleared u).engine = { s.engine with unit := none, inFlight := [] } := onlyParts_spoil s.clearUnit _ _ .engine (by decide)

theorem stream_unitCleared {s : State} (hs : StreamsSettled s) (u : WorkUnit) (n : StreamId) : (s.unitCleared u).stream n =
    if u.owner = some n then s.stream n else (s.stream n).spoiled u.spoil :=
  stream_spoil_settled (s := s.clearUnit) hs u.owner u.spoil n

theorem unitCleared_watches {s : State} (hs : StreamsSettled s) (u : WorkUnit) (n : StreamId) :
    ((s.unitCleared u).stream n).watches =
      if u.owner = some n then (s.stream n).watches
      else (s.stream n).watches.map (fun w =>
        if Target.record w.region w.index ∈ u.spoil then { w with condition := .spoiled } else w) := by
  rw [stream_unitCleared hs]
  split <;> rfl

/-- Only watches change. -/
theorem unitCleared_same {s : State} (hs : StreamsSettled s) (u : WorkUnit) (n : StreamId) :
    { (s.unitCleared u).stream n with watches := [] } = { s.stream n with watches := [] } := by
  rw [stream_unitCleared hs]
  split <;> rfl

theorem endUnit_header {s : State} {u : WorkUnit} {n : StreamId} {h : AnswerHeader} (hh : headerOf u.changes = some (n, h)) :
    s.endUnit u = ((s.unitCleared u).endCurrent n h).reportEnd u := by
  simp only [State.endUnit, hh]
  rfl

theorem endUnit_noHeader {s : State} {u : WorkUnit} (hh : headerOf u.changes = none) :
    s.endUnit u = (s.unitCleared u).reportEnd u := by
  simp only [State.endUnit, hh]
  rfl

theorem reportEnd_batch {s : State} {u : WorkUnit} (h : ∀ o, u.kind ≠ .sweep o) : s.reportEnd u = s := by
  unfold State.reportEnd
  split
  next o ho => exact absurd ho (h o)
  next => rfl

theorem reportEnd_sweep {s : State} {u : WorkUnit} {o : Offer} (h : u.kind = .sweep o) :
    s.reportEnd u = ({ s with sweep := if u.reported then s.sweep.past o else s.sweep.released } : State).sweepExamine := by
  have he : s.reportEnd u = s.sweepEnded o u.reported := by simp only [State.reportEnd, h]
  rw [he]
  cases u.reported
  · exact sweepEnded_unreported s o
  · exact sweepEnded_reported s o

/-- The first part of O36: a batch unit's end, from the state in which its clear has landed. -/
structure BatchUnitEnded (s t : State) (u : WorkUnit) : Prop where
  parts : OnlyParts s t [.engine, .streams]
  engine : t.engine.unit = none ∧ t.engine.inFlight = [] ∧ t.engine.running = s.engine.running ∧
    t.engine.lastTurn = s.engine.lastTurn
  watches : ∀ n, (t.stream n).watches =
    if u.owner = some n then (s.stream n).watches
    else (s.stream n).watches.map (fun w =>
      if Target.record w.region w.index ∈ u.spoil then { w with condition := .spoiled } else w)
  others : ∀ n, (∀ h, headerOf u.changes ≠ some (n, h)) →
    { t.stream n with watches := [] } = { s.stream n with watches := [] }
  batch : headerOf u.changes = none → t.engine.batch = s.engine.batch
  ended : ∀ n h, headerOf u.changes = some (n, h) → t.engine.batch = none ∧ BatchIsIdle (t.stream n) ∧
    (t.stream n).answer = h.state ∧ (t.stream n).session = (s.stream n).session ∧
    (t.stream n).guardHits = (s.stream n).guardHits ∧
    (∀ p, (s.stream n).session = .claimed p → (t.stream n).idleTimer = some 0)

theorem unitCleared_stands {s : State} (hs : StreamsSettled s) (u : WorkUnit) (n : StreamId) :
    ((s.unitCleared u).stream n).session = (s.stream n).session ∧
      ((s.unitCleared u).stream n).guardHits = (s.stream n).guardHits := by
  rw [stream_unitCleared hs]
  split <;> exact ⟨rfl, rfl⟩

theorem endUnit_batch {s : State} {u : WorkUnit} (hs : StreamsSettled s) (hk : ∀ o, u.kind ≠ .sweep o) :
    BatchUnitEnded s (s.endUnit u) u := by
  have hengine := unitCleared_engine s u
  cases hh : headerOf u.changes with
  | none =>
    rw [endUnit_noHeader hh, reportEnd_batch hk]
    refine ⟨onlyParts_unitCleared s u, by rw [hengine]; exact ⟨rfl, rfl, rfl, rfl⟩, unitCleared_watches hs u,
      fun n _ => unitCleared_same hs u n, fun _ => by rw [hengine], fun n h hn => ?_⟩
    rw [hh] at hn
    contradiction
  | some x =>
    obtain ⟨n, h⟩ := x
    have hsettled : StreamsSettled (s.unitCleared u) := spoil_settled (s := s.clearUnit) hs u.owner u.spoil
    rw [endUnit_header hh, reportEnd_batch hk]
    have hended : ((s.unitCleared u).endCurrent n h).engine = { (s.unitCleared u).engine with batch := none } := rfl
    refine ⟨(onlyParts_unitCleared s u).andThen (onlyParts_endCurrent _ n h), by rw [hended, hengine]; exact ⟨rfl, rfl, rfl, rfl⟩,
      fun m => ?_, fun m hm => ?_, fun hnone => ?_, fun m h' hm => ?_⟩
    · rw [← unitCleared_watches hs, stream_endCurrent]
      split
      next he => rw [he, ended_watches (hsettled n)]
      next => rfl
    · have hmn : m ≠ n := fun he => hm h (by rw [hh, he])
      rw [stream_endCurrent, if_neg hmn, unitCleared_same hs]
    · rw [hh] at hnone
      contradiction
    · obtain ⟨rfl, rfl⟩ : n = m ∧ h = h' := by simpa [hh] using hm
      obtain ⟨hidle, hanswer, hsession, hhits, htimer⟩ := ended_spec ((s.unitCleared u).stream n) h
      obtain ⟨hses, hguard⟩ := unitCleared_stands hs u n
      rw [stream_endCurrent, if_pos rfl]
      exact ⟨by rw [hended], hidle, hanswer, hsession.trans hses, hhits.trans hguard, fun p hp => htimer p (hses.trans hp)⟩

/-- Settles O36: the clear has landed; the spoiling, the header and the report follow. -/
theorem unitEnds : Obligations.UnitEnds := by
  unfold Obligations.UnitEnds
  intro s i u ls h hs
  obtain ⟨-, hrun, -⟩ := id h
  rw [exec_unitEnd, unitWrite_done h]
  generalize hv : s.landedAs (s.mem.writeLanes i.req.addr ls) i.req.serial = v
  have hparts : OnlyParts s v [.memory, .issued] := hv ▸ onlyParts_landedAs s _ _
  have hstream : ∀ n, v.stream n = s.stream n := fun n => hv ▸ rfl
  have hengine : v.engine = s.engine := hparts .engine (by decide)
  have hmem : v.mem = s.mem.writeLanes i.req.addr ls := hv ▸ rfl
  have hvs : StreamsSettled v := fun n => by rw [hstream]; exact hs n
  refine ⟨fun hk => ⟨_, rfl, ?_⟩, fun o hk hh => ?_⟩
  · obtain ⟨hp, ⟨hunit, hflight, hrunning, hlast⟩, hwatches, hothers, hbatch, hended⟩ := endUnit_batch (u := u) hvs hk
    simp only [hstream, hengine] at hrunning hlast hwatches hothers hbatch hended
    refine ⟨(hparts.mono (by decide)).andThen (hp.mono (qs := [.engine, .streams]) (by decide)), Eq.trans (hp .memory (by decide)) hmem,
      hunit, hflight, hrunning.trans hrun, hlast, hwatches, hothers, hbatch, fun n hd hn => ?_⟩
    obtain ⟨h1, h2, h3, h4, h5, h6⟩ := hended n hd hn
    exact ⟨h1, h2, h3, h4, h5, fun p hp _ => h6 p hp⟩
  · have hcleared := onlyParts_unitCleared v u
    refine ⟨_, by rw [endUnit_noHeader hh, reportEnd_sweep hk], ?_⟩
    have hsweep : (v.unitCleared u).sweep = s.sweep :=
      Eq.trans (hcleared .sweep (by decide)) (hparts .sweep (by decide))
    refine ⟨OnlyParts.andThen ((hparts.mono (by decide)).andThen hcleared) (onlyParts_sweep _ _),
      Eq.trans (hcleared .memory (by decide)) hmem, ?_, fun n => ?_, fun hr => ?_, fun hr => ?_⟩
    · exact (unitCleared_engine v u).trans (by rw [hengine])
    · have hw := unitCleared_watches hvs u n
      simp only [hstream] at hw
      exact hw
    · show (if u.reported then _ else _) = _
      rw [if_pos hr, hsweep]
    · show (if u.reported then _ else _) = _
      rw [hr, hsweep]
      rfl

end Sys2Proof.Machine
end


section
/-! Obligation O37: write errors of a unit, its redo, and the halt of the engine. -/

namespace Sys2Proof.Machine

/-! ## A halting engine answers a batch (R98) -/

theorem haltRecords_congr {s t : State} {n : StreamId} (h : t.stream n = s.stream n) (i : Nat) :
    t.haltRecords n i = s.haltRecords n i := by
  unfold State.haltRecords State.outcomeRec State.entryOf
  rw [h]

theorem header_congr {s t : State} {n : StreamId} (h : t.stream n = s.stream n) (r : BatchResult) (k : Nat) :
    t.header n r k = s.header n r k := by
  unfold State.header
  rw [h]

/-- A stream's entry when a halting engine has answered its batch. -/
structure HaltAnswered (before : Session) (y : Stream) : Prop where
  idle : BatchIsIdle y
  answer : y.answer = .fresh
  session : y.session = before
  timer : ∀ p, before = .claimed p → y.idleTimer = some 0

def Stream.halted (x : Stream) : Stream := { x.batchIdle with answer := .fresh }

/-- The outcome records of a halted batch, if it has any, by one write (log 30). -/
def State.haltOutcomes (s : State) (m : StreamId) (i : Nat) : State :=
  if (s.haltRecords m i).isEmpty then s
  else s.raiseWrite (.haltAnswer m) (deskAddr m (Config.outcomeOff + 16 * i)) ((s.haltRecords m i).map encodeOutcome).flatten

/-- The header of a halted batch, by another. -/
def State.haltHeader (s : State) (m : StreamId) (i : Nat) : State :=
  (s.haltOutcomes m i).raiseWrite (.haltAnswer m) (deskAddr m Config.answerOff)
    (encodeHeader (s.header m .halted (s.stream m).guardHits))

theorem haltAnswer_eq (s : State) (m : StreamId) (i : Nat) : s.haltAnswer m i =
    (s.haltHeader m i).updStream m Stream.halted := rfl

theorem grows_haltOutcomes (s : State) (m : StreamId) (i : Nat) : Grows s (s.haltOutcomes m i) [.raised, .streams] :=
  Grows.ite (Grows.refl s _) (grows_raise_answer s _ _ _ _)

theorem grows_haltHeader (s : State) (m : StreamId) (i : Nat) : Grows s (s.haltHeader m i) [.raised, .streams] :=
  (grows_haltOutcomes s m i).andThen (grows_raise_answer _ _ _ _ _)

theorem grows_haltAnswer (s : State) (m : StreamId) (i : Nat) : Grows s (s.haltAnswer m i) [.raised, .streams] :=
  (grows_haltHeader s m i).andThen (grows_updStream (s.haltHeader m i) m Stream.halted)

theorem awaits_haltAnswer (s : State) (m : StreamId) (i : Nat) :
    Awaits (s.haltAnswer m i) (.haltAnswer m) (deskAddr m Config.answerOff)
      (.write (lanesOf (encodeHeader (s.header m .halted (s.stream m).guardHits)))) ∧
    (s.haltRecords m i ≠ [] → Awaits (s.haltAnswer m i) (.haltAnswer m) (deskAddr m (Config.outcomeOff + 16 * i))
      (.write (lanesOf ((s.haltRecords m i).map encodeOutcome).flatten))) := by
  rw [haltAnswer_eq]
  refine ⟨Awaits.grows (awaits_raiseWrite (s.haltOutcomes m i) _ _ _ _) (grows_updStream (s.haltHeader m i) m _), fun h => ?_⟩
  have hrecords : s.haltOutcomes m i = s.raiseWrite (.haltAnswer m) (deskAddr m (Config.outcomeOff + 16 * i))
      ((s.haltRecords m i).map encodeOutcome).flatten := if_neg (by simpa using h)
  have hraised : Awaits (s.haltOutcomes m i) (.haltAnswer m) (deskAddr m (Config.outcomeOff + 16 * i))
      (.write (lanesOf ((s.haltRecords m i).map encodeOutcome).flatten)) := by
    rw [hrecords]
    exact awaits_raiseWrite _ _ _ _ _
  have hgrows : Grows (s.haltOutcomes m i) (s.haltHeader m i) [.raised, .streams] := grows_raise_answer _ _ _ _ _
  exact hraised.grows (hgrows.andThen (grows_updStream _ m _))

theorem session_haltHeader (s : State) (m : StreamId) (i : Nat) :
    ((s.haltHeader m i).stream m).session = (s.stream m).session := by
  refine (session_raise _ _ _ _ _ _).trans ?_
  unfold State.haltOutcomes
  split
  · rfl
  · exact session_raise _ _ _ _ _ _

theorem stream_haltHeader_ne (s : State) {m n : StreamId} (h : n ≠ m) (i : Nat) : (s.haltHeader m i).stream n = s.stream n := by
  have htag : (OwnTag.haltAnswer m).answerOf ≠ some n := fun he => h (Option.some.inj he).symm
  refine (stream_raise_ne htag _ _ _).trans ?_
  unfold State.haltOutcomes
  split
  · rfl
  · exact stream_raise_ne htag _ _ _

theorem haltAnswer_self (s : State) (m : StreamId) (i : Nat) :
    HaltAnswered (s.stream m).session ((s.haltAnswer m i).stream m) := by
  have hsession := session_haltHeader s m i
  rw [haltAnswer_eq, stream_updStream_self]
  obtain ⟨hidle, htimer⟩ := batchIdle_settled_idle ((s.haltHeader m i).stream m)
  exact ⟨hidle, rfl, hsession, fun p hp => htimer p (hsession.trans hp)⟩

theorem haltAnswer_other (s : State) {m n : StreamId} (h : n ≠ m) (i : Nat) : (s.haltAnswer m i).stream n = s.stream n := by
  rw [haltAnswer_eq, stream_updStream_ne _ h, stream_haltHeader_ne s h]

theorem session_haltAnswer (s : State) (m n : StreamId) (i : Nat) :
    ((s.haltAnswer m i).stream n).session = (s.stream n).session := by
  by_cases h : n = m
  · rw [h]; exact (haltAnswer_self s m i).session
  · rw [haltAnswer_other s h]

/-! ## Every batch of a queue answered -/

/-- The batches of a list of streams answered, each from its first entry. -/
def State.haltAll (s : State) (q : List StreamId) : State := q.foldl (fun x n => x.haltAnswer n 0) s

theorem haltAll_cons (s : State) (n : StreamId) (q : List StreamId) : s.haltAll (n :: q) = (s.haltAnswer n 0).haltAll q := rfl

theorem haltAll_append (s : State) (p q : List StreamId) : s.haltAll (p ++ q) = (s.haltAll p).haltAll q := List.foldl_append

theorem grows_haltAll (s : State) (q : List StreamId) : Grows s (s.haltAll q) [.raised, .streams] :=
  Grows.foldl _ (fun x n => grows_haltAnswer x n 0) q s

theorem haltAll_other {n : StreamId} : ∀ (q : List StreamId) (s : State), n ∉ q → (s.haltAll q).stream n = s.stream n
  | [], _, _ => rfl
  | m :: q, s, h => by
    obtain ⟨hm, hq⟩ := not_or.mp (fun he => h (List.mem_cons.mpr he))
    rw [haltAll_cons, haltAll_other q _ hq, haltAnswer_other s hm]

/-- A stream that is answered stays so while others, or it again, are answered. -/
theorem haltAll_answered {n : StreamId} {x : Session} : ∀ (q : List StreamId) (s : State), HaltAnswered x (s.stream n) →
    HaltAnswered x ((s.haltAll q).stream n)
  | [], _, h => h
  | m :: q, s, h => by
    refine haltAll_answered q _ ?_
    by_cases hn : n = m
    · subst hn
      rw [← h.session]
      exact haltAnswer_self s n 0
    · rw [haltAnswer_other s hn]
      exact h

theorem haltAll_mem {n : StreamId} : ∀ (q : List StreamId) (s : State), n ∈ q →
    HaltAnswered (s.stream n).session ((s.haltAll q).stream n)
  | [], _, h => absurd h List.not_mem_nil
  | m :: q, s, h => by
    rcases List.mem_cons.mp h with he | h
    · rw [he]
      exact haltAll_answered q (s.haltAnswer m 0) (haltAnswer_self s m 0)
    · rw [← session_haltAnswer s m n 0]
      exact haltAll_mem q (s.haltAnswer m 0) h

theorem awaits_haltAll {s : State} {n : StreamId} {pre post : List StreamId} (h : n ∉ pre) :
    Awaits (s.haltAll (pre ++ n :: post)) (.haltAnswer n) (deskAddr n Config.answerOff)
      (.write (lanesOf (encodeHeader (s.header n .halted (s.stream n).guardHits)))) ∧
    (s.haltRecords n 0 ≠ [] → Awaits (s.haltAll (pre ++ n :: post)) (.haltAnswer n) (deskAddr n Config.outcomeOff)
      (.write (lanesOf ((s.haltRecords n 0).map encodeOutcome).flatten))) := by
  have hstream := haltAll_other pre s h
  obtain ⟨hheader, hrecords⟩ := awaits_haltAnswer (s.haltAll pre) n 0
  rw [haltRecords_congr hstream] at hrecords
  rw [header_congr hstream, hstream] at hheader
  rw [haltAll_append, haltAll_cons]
  exact ⟨hheader.grows (grows_haltAll _ post), fun hne => (hrecords hne).grows (grows_haltAll _ post)⟩

/-! ## The halt -/

/-- The engine halted and the sweep stopped, before the batches are answered. -/
def State.haltBegun (s : State) (u : WorkUnit) : State :=
  ({ s with engine := { s.engine with running := false, unit := some { u with toWrite := [] } } } : State).sweepStop

/-- The current batch answered. -/
def State.haltCurrent (s : State) (u : WorkUnit) : State :=
  match s.engine.batch with
  | some b => { s.haltAnswer b.stream (haltFrom u b) with engine := { s.engine with batch := none } }
  | none => s

theorem halt_eq (s : State) (u : WorkUnit) : s.halt u =
    ({ (s.haltBegun u).haltCurrent u with queue := [] } : State).haltAll ((s.haltBegun u).haltCurrent u).queue := rfl

theorem haltCurrent_some {s : State} {b : CurrentBatch} (h : s.engine.batch = some b) (u : WorkUnit) : s.haltCurrent u =
    { s.haltAnswer b.stream (haltFrom u b) with engine := { s.engine with batch := none } } := by
  simp only [State.haltCurrent, h]

theorem haltCurrent_none {s : State} (h : s.engine.batch = none) (u : WorkUnit) : s.haltCurrent u = s := by
  simp only [State.haltCurrent, h]

theorem grows_haltBegun (s : State) (u : WorkUnit) : Grows s (s.haltBegun u) [.engine, .sweep] :=
  (onlyParts_engine s _).grows.mono.andThen (grows_sweepStop _)

theorem grows_haltCurrent (s : State) (u : WorkUnit) : Grows s (s.haltCurrent u) [.engine, .raised, .streams] := by
  cases h : s.engine.batch with
  | none => rw [haltCurrent_none h]; exact Grows.refl s _
  | some b =>
    rw [haltCurrent_some h]
    exact (grows_haltAnswer s _ _).mono.andThen (onlyParts_engine _ _).grows

theorem haltCurrent_engine (s : State) (u : WorkUnit) : (s.haltCurrent u).engine = { s.engine with batch := none } := by
  cases h : s.engine.batch with
  | none => rw [haltCurrent_none h, ← h]
  | some b => rw [haltCurrent_some h]

section
variable (s : State) (u : WorkUnit)

theorem haltCurrent_queue : ((s.haltBegun u).haltCurrent u).queue = s.queue :=
  Eq.trans ((grows_haltCurrent (s.haltBegun u) u).parts .commitQueue (by decide))
    ((grows_haltBegun s u).parts .commitQueue (by decide))

theorem halt_eq_haltAll : s.halt u = ({ (s.haltBegun u).haltCurrent u with queue := [] } : State).haltAll s.queue := by
  rw [halt_eq, haltCurrent_queue]

theorem grows_haltTail : Grows ((s.haltBegun u).haltCurrent u) (s.halt u) [.commitQueue, .raised, .streams] := by
  rw [halt_eq_haltAll]
  exact (onlyParts_queue _ []).grows.mono.andThen (grows_haltAll _ _)

theorem grows_halt : Grows s (s.halt u) [.engine, .sweep, .raised, .streams, .commitQueue] :=
  (((grows_haltBegun s u).mono : Grows s _ [.engine, .sweep, .raised, .streams, .commitQueue]).andThen
    (grows_haltCurrent _ u)).andThen (grows_haltTail s u)

theorem stream_haltBegun (n : StreamId) : (s.haltBegun u).stream n = s.stream n := rfl

theorem halt_engine : (s.halt u).engine =
    { s.engine with running := false, unit := some { u with toWrite := [] }, batch := none } :=
  Eq.trans ((grows_haltTail s u).parts .engine (by decide)) (haltCurrent_engine _ u)

theorem halt_queue : (s.halt u).queue = [] := by
  rw [halt_eq_haltAll]
  exact (grows_haltAll _ s.queue).parts .commitQueue (by decide)

theorem halt_sweep : (s.halt u).sweep = { s.sweep with stopped := true, offer := none, reading := none } :=
  Eq.trans ((grows_haltTail s u).parts .sweep (by decide))
    (Eq.trans ((grows_haltCurrent _ u).parts .sweep (by decide)) rfl)

/-- A stream's entry before the queue is answered. -/
theorem haltCurrent_other {n : StreamId} (h : ∀ b, s.engine.batch = some b → b.stream ≠ n) :
    ((s.haltBegun u).haltCurrent u).stream n = s.stream n := by
  cases hb : s.engine.batch with
  | none => rw [haltCurrent_none (s := s.haltBegun u) hb]; rfl
  | some b =>
    rw [haltCurrent_some (s := s.haltBegun u) hb]
    exact haltAnswer_other (s.haltBegun u) (fun he => h b hb he.symm) _

theorem session_haltCurrent (n : StreamId) :
    (((s.haltBegun u).haltCurrent u).stream n).session = (s.stream n).session := by
  cases hb : s.engine.batch with
  | none => rw [haltCurrent_none (s := s.haltBegun u) hb]; rfl
  | some b =>
    rw [haltCurrent_some (s := s.haltBegun u) hb]
    exact session_haltAnswer (s.haltBegun u) _ n _

theorem halt_answered {n : StreamId} (h : n ∈ s.queue ∨ ∃ b, s.engine.batch = some b ∧ b.stream = n) :
    HaltAnswered (s.stream n).session ((s.halt u).stream n) := by
  rw [halt_eq_haltAll]
  by_cases hq : n ∈ s.queue
  · rw [← session_haltCurrent s u n]
    exact haltAll_mem s.queue ({ (s.haltBegun u).haltCurrent u with queue := [] } : State) hq
  · obtain ⟨b, hb, rfl⟩ := h.resolve_left hq
    refine haltAll_answered s.queue ({ (s.haltBegun u).haltCurrent u with queue := [] } : State) ?_
    rw [haltCurrent_some (s := s.haltBegun u) hb]
    exact haltAnswer_self (s.haltBegun u) b.stream _

theorem halt_other {n : StreamId} (hq : n ∉ s.queue) (hb : ∀ b, s.engine.batch = some b → b.stream ≠ n) :
    (s.halt u).stream n = s.stream n := by
  rw [halt_eq_haltAll, haltAll_other _ _ hq]
  exact haltCurrent_other s u hb

theorem halt_current {b : CurrentBatch} (hb : s.engine.batch = some b) :
    Awaits (s.halt u) (.haltAnswer b.stream) (deskAddr b.stream Config.answerOff)
      (.write (lanesOf (encodeHeader (s.header b.stream .halted (s.stream b.stream).guardHits)))) ∧
    (s.haltRecords b.stream (haltFrom u b) ≠ [] →
      Awaits (s.halt u) (.haltAnswer b.stream) (deskAddr b.stream (Config.outcomeOff + 16 * haltFrom u b))
        (.write (lanesOf ((s.haltRecords b.stream (haltFrom u b)).map encodeOutcome).flatten))) := by
  obtain ⟨hheader, hrecords⟩ := awaits_haltAnswer (s.haltBegun u) b.stream (haltFrom u b)
  have hgrows : Grows ((s.haltBegun u).haltAnswer b.stream (haltFrom u b)) (s.halt u)
      [.engine, .commitQueue, .raised, .streams] := by
    have hcurrent : Grows ((s.haltBegun u).haltAnswer b.stream (haltFrom u b)) ((s.haltBegun u).haltCurrent u)
        [.engine, .commitQueue, .raised, .streams] := by
      rw [haltCurrent_some (s := s.haltBegun u) hb]
      exact (onlyParts_engine _ _).grows.mono
    exact hcurrent.andThen (grows_haltTail s u)
  exact ⟨hheader.grows hgrows, fun hne => (hrecords hne).grows hgrows⟩

theorem halt_queued {n : StreamId} {pre post : List StreamId} (hq : s.queue = pre ++ n :: post) (hn : n ∉ pre)
    (hb : ∀ b, s.engine.batch = some b → b.stream ≠ n) :
    Awaits (s.halt u) (.haltAnswer n) (deskAddr n Config.answerOff)
      (.write (lanesOf (encodeHeader (s.header n .halted (s.stream n).guardHits)))) ∧
    (s.haltRecords n 0 ≠ [] → Awaits (s.halt u) (.haltAnswer n) (deskAddr n Config.outcomeOff)
      (.write (lanesOf ((s.haltRecords n 0).map encodeOutcome).flatten))) := by
  have hstream : ({ (s.haltBegun u).haltCurrent u with queue := [] } : State).stream n = s.stream n := haltCurrent_other s u hb
  rw [halt_eq_haltAll, hq, ← header_congr hstream, ← haltRecords_congr hstream, ← hstream]
  exact awaits_haltAll hn
end

end Sys2Proof.Machine
end


section
/-! Obligation O37: the redo, the halt, and the obligation. -/

namespace Sys2Proof.Machine

/-! ## The write answered error -/

/-- The write has landed as far as it went, and its error is counted. -/
def State.writeLost (s : State) (m : Memory) (k : Nat) : State := (s.landedAs m k).storeFault

theorem onlyParts_writeLost (s : State) (m : Memory) (k : Nat) :
    OnlyParts s (s.writeLost m k) [.memory, .issued, .raised, .loader] := parts_of_landedAs (grows_storeFault _)

theorem statusShown_writeLost (s : State) (m : Memory) (k : Nat) : StatusShown s (s.writeLost m k) :=
  statusShown_storeFault (s.landedAs m k)

theorem writeLost_loader (s : State) (m : Memory) (k : Nat) : (s.writeLost m k).loader = oneMoreFault s.loader :=
  storeFault_loader _

theorem writeLost_mem (s : State) (m : Memory) (k : Nat) : (s.writeLost m k).mem = m := mem_of_landedAs (grows_storeFault _)

theorem writeLost_engine (s : State) (m : Memory) (k : Nat) : (s.writeLost m k).engine = s.engine :=
  onlyParts_writeLost s m k .engine (by decide)

theorem writeLost_stream (s : State) (m : Memory) (k : Nat) (n : StreamId) : (s.writeLost m k).stream n = s.stream n :=
  streams_of_grows (grows_storeFault (s.landedAs m k)) (by decide) n

theorem statusShown_of_grows {s t : State} {ps : List Part} (h : Grows s t ps) (hl : Part.loader ∉ ps := by decide) :
    StatusShown s t := by
  have hloader : t.loader = s.loader := h.parts .loader hl
  exact .inl ⟨by rw [hloader], by rw [hloader], by rw [hloader]⟩

/-- The four commands that answer a unit's write error. -/
theorem exec_writeError {s : State} {i : IssuedOwn} {u : WorkUnit} {ls : List Lane} {k : Nat} {c : Instr} {p : Phase}
    {want : OwnTag → Bool}
    (hc : (c, p, want) ∈ [(Instr.noteWriteDone (.error k), Phase.note, fun t : OwnTag => decide (t = .note)),
      (.applyWriteDone (.error k), .note, fun t : OwnTag => decide (t = .written)),
      (.applyWriteDone (.error k), .apply, isApplyTag),
      (.unitEnd (.error k), .clear, fun t : OwnTag => decide (t = .clear))])
    (h : UnitWrite s p want i u ls) : exec c s =
      .next ((s.landedAs (s.mem.land i.req.addr ls (.error k)) i.req.serial).writeError u
        (decide (i.req.tag = .note ∨ i.req.tag = .written))) := by
  simp only [List.mem_cons, Prod.mk.injEq, List.not_mem_nil, or_false] at hc
  rcases hc with ⟨rfl, rfl, rfl⟩ | ⟨rfl, rfl, rfl⟩ | ⟨rfl, rfl, rfl⟩ | ⟨rfl, rfl, rfl⟩
  · rw [exec_noteWriteDone, unitWrite_error h]
  · rw [exec_applyWriteDone_note h.2.2.1 h.2.2.2.1, unitWrite_error h]
  · rw [exec_applyWriteDone_apply h.2.2.1 h.2.2.2.1, unitWrite_error h]
  · rw [exec_unitEnd, unitWrite_error h]

section
variable (s : State) (m : Memory) (k : Nat) {u : WorkUnit}

theorem writeError_halts (h : u.redoUsed = true) (again : Bool) :
    (s.landedAs m k).writeError u again = (s.writeLost m k).halt u := if_pos h

theorem writeError_noteAgain (h : u.redoUsed = false) :
    (s.landedAs m k).writeError u true = (s.writeLost m k).writeNote { u with redoUsed := true } := by
  unfold State.writeError
  rw [if_neg (by rw [h]; decide), if_pos rfl]
  rfl

theorem writeError_imagesAgain (h : u.redoUsed = false) :
    (s.landedAs m k).writeError u false = (s.writeLost m k).writeImages { u with redoUsed := true } := by
  unfold State.writeError
  rw [if_neg (by rw [h]; decide), if_neg (by decide)]
  rfl
end

/-! ## The redo (R97) -/

/-- The note is written again from its first write, of the stream. -/
theorem writeNote_raises (s : State) (u : WorkUnit) :
    (s.writeNote u).engine = { s.engine with unit := some { u with phase := .note, toWrite := (noteWrites u).tail } } ∧
      Awaits (s.writeNote u) .note (Config.noteBase + 1) (.write (lanesOf (put1 (u.owner.map Fin.val)))) ∧
      Grows s (s.writeNote u) [.engine, .raised] := by
  have hnext : s.writeNote u = (s.setUnit { u with phase := .note, toWrite := (noteWrites u).tail }).raise .note
      (Config.noteBase + 1) (.write (lanesOf (put1 (u.owner.map Fin.val)))) :=
    raiseNext_cons (u := { u with phase := .note, toWrite := noteWrites u }) rfl
  rw [hnext]
  exact ⟨raise_engine _ _ _ _ _, awaits_raise _ _ _ _ _, (grows_setUnit s _).mono.andThen (grows_raise _ _ _ _ _)⟩

/-! ## The halt (R98) -/

theorem haltFrom_none {u : WorkUnit} (h : u.entry = none) (b : CurrentBatch) : haltFrom u b = b.next := by
  simp only [haltFrom, h]

theorem haltFrom_some {u : WorkUnit} {e : Nat} (h : u.entry = some e) (b : CurrentBatch) :
    haltFrom u b = if u.kind = .endBatch then b.next else e + 1 := by
  simp only [haltFrom, h]

theorem halts_writeLost (s : State) (m : Memory) (k : Nat) (u : WorkUnit) : Halts s ((s.writeLost m k).halt u) u := by
  have hparts := onlyParts_writeLost s m k
  have hstream := writeLost_stream s m k
  have hengine := writeLost_engine s m k
  have hqueue : (s.writeLost m k).queue = s.queue := hparts .commitQueue (by decide)
  have hsweep : (s.writeLost m k).sweep = s.sweep := hparts .sweep (by decide)
  have hheader : ∀ n, (s.writeLost m k).header n .halted ((s.writeLost m k).stream n).guardHits =
      s.header n .halted (s.stream n).guardHits := fun n => by rw [header_congr (hstream n), hstream n]
  have hrecords : ∀ n i, (s.writeLost m k).haltRecords n i = s.haltRecords n i := fun n => haltRecords_congr (hstream n)
  have hgrows := grows_halt (s.writeLost m k) u
  refine ⟨?_, halt_queue _ u, ?_, ?_, fun n hn => ?_, fun n hn hb => ?_, fun b hb => ?_, fun pre n post hq hn hb => ?_,
    (hparts.mono (by decide)).andThen hgrows.parts⟩
  · rw [halt_engine, hengine]
    exact ⟨rfl, rfl, rfl, rfl⟩
  · rw [halt_sweep, hsweep]
  · exact Eq.trans (hgrows.parts .loader (by decide)) (writeLost_loader s m k)
  · have ha := halt_answered (s.writeLost m k) u (n := n) (by rw [hqueue, hengine]; exact hn)
    rw [hstream] at ha
    exact ⟨ha.idle, ha.answer, ha.session, ha.timer⟩
  · rw [halt_other (s.writeLost m k) u (by rw [hqueue]; exact hn) (by rw [hengine]; exact hb), hstream]
  · have hcurrent := halt_current (s.writeLost m k) u (b := b) (by rw [hengine]; exact hb)
    rw [hheader, hrecords] at hcurrent
    exact hcurrent
  · have hqueued := halt_queued (s.writeLost m k) u (n := n) (pre := pre) (post := post) (by rw [hqueue]; exact hq) hn
      (by rw [hengine]; exact hb)
    rw [hheader, hrecords] at hqueued
    exact hqueued

/-- Settles O37: one equation for the four commands, then the redo or the halt. -/
theorem writeErrorsRedoOnceThenHalt : Obligations.WriteErrorsRedoOnceThenHalt := by
  unfold Obligations.WriteErrorsRedoOnceThenHalt
  intro s i u ls k c p want hc h
  have hexec := exec_writeError hc h
  have hparts := onlyParts_writeLost s (s.mem.land i.req.addr ls (.error k)) i.req.serial
  have hmem := writeLost_mem s (s.mem.land i.req.addr ls (.error k)) i.req.serial
  have hloader := writeLost_loader s (s.mem.land i.req.addr ls (.error k)) i.req.serial
  have hshown := statusShown_writeLost s (s.mem.land i.req.addr ls (.error k)) i.req.serial
  have hengine := writeLost_engine s (s.mem.land i.req.addr ls (.error k)) i.req.serial
  refine ⟨fun hredo htag => ⟨_, hexec, ?_⟩, fun g gs hredo hnote hwritten hg => ⟨_, hexec, ?_⟩, fun hredo => ⟨_, hexec, ?_⟩⟩
  · rw [decide_eq_true htag, writeError_noteAgain s _ _ hredo]
    obtain ⟨hunit, hraised, hgrows⟩ := writeNote_raises
      (s.writeLost (s.mem.land i.req.addr ls (.error k)) i.req.serial) { u with redoUsed := true }
    exact ⟨Eq.trans (hgrows.parts .memory (by decide)) hmem, Eq.trans (hgrows.parts .loader (by decide)) hloader,
      hshown.trans (statusShown_of_grows hgrows) hgrows, hunit.trans (by rw [hengine]; rfl), hraised,
      (hparts.mono (by decide)).andThen hgrows.parts⟩
  · have htag : ¬ (i.req.tag = .note ∨ i.req.tag = .written) := not_or.mpr ⟨hnote, hwritten⟩
    rw [decide_eq_false htag, writeError_imagesAgain s _ _ hredo]
    have hforce : (s.writeLost (s.mem.land i.req.addr ls (.error k)) i.req.serial).loader.inForce = s.loader.inForce := by
      rw [hloader]; rfl
    have hnext := writeImages_raises hforce (u := { u with redoUsed := true }) hg
    refine ⟨Eq.trans (hnext.grows.parts .memory (by decide)) hmem, Eq.trans (hnext.grows.parts .loader (by decide)) hloader,
      hshown.trans (statusShown_of_grows hnext.grows) hnext.grows, hnext.engine.trans (by rw [hengine]), hnext.raised,
      (hparts.mono (by decide)).andThen hnext.grows.parts, fun hs n => ?_⟩
    have hsame := hnext.streams (fun m => by rw [writeLost_stream]; exact hs m) n
    rw [writeLost_stream] at hsame
    exact hsame
  · rw [writeError_halts s _ _ hredo]
    have hgrows := grows_halt (s.writeLost (s.mem.land i.req.addr ls (.error k)) i.req.serial) u
    refine ⟨halts_writeLost s _ _ u, hshown.trans (statusShown_of_grows hgrows) hgrows,
      Eq.trans (hgrows.parts .memory (by decide)) hmem, fun b hb => ?_, fun n m => rfl⟩
    cases he : u.entry with
    | none => exact haltFrom_none he b
    | some e => exact haltFrom_some he b

end Sys2Proof.Machine
end


section
/-! Obligation O38: freshen, and the records a unit marks spoiling. -/

namespace Sys2Proof.Machine

/-! ## What freshen charges (R144) -/

theorem freshenDays_eq (T s due grace : Nat) :
    freshenDays T s due grace = if max s (due + grace) ≤ T then T - max s (due + grace) else 0 := by
  unfold freshenDays
  split <;> omega

theorem freshenCharge_eq (days rate cap accrued : Nat) :
    freshenCharge days rate cap accrued = min (days * rate) (if accrued ≤ cap then cap - accrued else 0) := by
  unfold freshenCharge
  split
  · rfl
  · rw [Nat.sub_eq_zero_of_le (by omega)]

/-- A unit's work with other contents as freshen alone left them. -/
def Work.withFresh (w : Work) (gs : List Image) : Work := { w with fresh := gs }

theorem withFresh_setItem (w : Work) (i : Nat) (c : Item) (gs : List Image) :
    (w.setItem i c).withFresh gs = (w.withFresh gs).setItem i c := by
  have hitem : (w.withFresh gs).item i = w.item i := rfl
  unfold Work.setItem
  rw [hitem]
  split <;> rfl

theorem withFresh_setPatron (w : Work) (i : Nat) (p : Patron) (gs : List Image) :
    (w.setPatron i p).withFresh gs = (w.withFresh gs).setPatron i p := by
  have hpatron : (w.withFresh gs).patron i = w.patron i := rfl
  unfold Work.setPatron
  rw [hpatron]
  split <;> rfl

theorem setPatron_same {w : Work} {i : Nat} {p : Patron} (h : p = w.patron i) : w.setPatron i p = w := if_pos h

theorem setSum_same {w : Work} {f : Summary → Summary} (h : f w.sum = w.sum) : w.setSum f = w := by
  unfold Work.setSum
  rw [h]

theorem freshItem_written {w : Work} {i : Nat} (h : (w.item i).state = .onLoan) (T x : Nat) : (w.freshItem T i x).written =
    { w.item i with accrued := (w.item i).accrued + x, charged := some T, aside := none } :=
  item_written_onLoan (c := w.freshItem T i x) h

/-- The summary with an amount charged. -/
def Summary.charges (m : Summary) (x : Nat) : Summary := { m with charged := (m.charged + x) % 281474976710656 }

/-- The records freshen leaves, by the amount it applied. -/
def Work.freshImages (w : Work) (T i b x : Nat) : List Image :=
  [.item i [] (w.freshItem T i x).written, .patron b [] (w.freshPatron b x)]

section
variable {w : Work} {T i s due b : Nat} (h : (w.item i).state = .onLoan) (hs : (w.item i).charged = some s)
  (hd : (w.item i).due = some due) (hb : w.ref .patrons (w.item i).borrower = some b) (hT : s < T)
include h hs hd hb hT

theorem freshen_steps : w.freshen T i =
    (((w.withFresh (w.freshImages T i b (w.freshenAmount T i s due b))).setItem i
      (w.freshItem T i (w.freshenAmount T i s due b))).setPatron b (w.freshPatron b (w.freshenAmount T i s due b))).setSum
        (fun m => m.charges (w.freshenAmount T i s due b)) := by
  rw [← withFresh_setItem, ← withFresh_setPatron]
  exact freshen_eq h hs hd hb hT

theorem freshen_item : (w.freshen T i).item i = { w.item i with
    accrued := (w.item i).accrued + w.freshenAmount T i s due b, charged := some T, aside := none } := by
  rw [freshen_steps h hs hd hb hT, ← freshItem_written h]
  simp

theorem freshen_patron : (w.freshen T i).patron b =
    { w.patron b with balance := (w.patron b).balance + w.freshenAmount T i s due b } := by
  rw [freshen_steps h hs hd hb hT]
  simp [Work.freshPatron]

theorem freshen_sum : (w.freshen T i).sum = w.sum.charges (w.freshenAmount T i s due b) := by
  rw [freshen_steps h hs hd hb hT]
  simp
  rfl

theorem freshen_fresh : (w.freshen T i).fresh =
    [.item i [] ((w.freshen T i).item i), .patron b [] ((w.freshen T i).patron b)] := by
  rw [freshen_item h hs hd hb hT, freshen_patron h hs hd hb hT, freshen_steps h hs hd hb hT, ← freshItem_written h]
  simp
  rfl

theorem onlyRecords_freshen : OnlyRecords (w.withFresh (w.freshen T i).fresh) (w.freshen T i)
    [.record .items i, .record .patrons b, .summary] := by
  have hfresh : (w.freshen T i).fresh = w.freshImages T i b (w.freshenAmount T i s due b) := by
    rw [freshen_steps h hs hd hb hT]
    simp
    rfl
  rw [hfresh, freshen_steps h hs hd hb hT]
  exact (((OnlyRecords.refl _ _).setItem _ (by simp)).setPatron _ (by simp)).setSum _ (by simp)

theorem onlyRecords_freshen_zero (hx : w.freshenAmount T i s due b = 0) (hc : w.sum.charged < 281474976710656) :
    OnlyRecords (w.withFresh (w.freshen T i).fresh) (w.freshen T i) [.record .items i] := by
  have hfresh : (w.freshen T i).fresh = w.freshImages T i b (w.freshenAmount T i s due b) := by
    rw [freshen_steps h hs hd hb hT]
    simp
    rfl
  rw [hfresh, freshen_steps h hs hd hb hT, hx, setPatron_same, setSum_same]
  · exact (OnlyRecords.refl _ _).setItem _ (by simp)
  · rw [setItem_sum]
    show w.sum.charges 0 = w.sum
    rw [Summary.charges, Nat.add_zero, Nat.mod_eq_of_lt hc]
  · rw [patron_setItem]
    rfl
end

/-! ## The records marked spoiling (R74) -/

theorem imageOf_some {gs : List Image} {t : Target} {g : Image} (h : imageOf gs t = some g) : g.target = t := by
  unfold imageOf at h
  simpa using List.find?_some h

/-- The image a list holds of a patron's record is a patron's. -/
theorem imageOf_patron {gs : List Image} {i : Nat} {g : Image} (h : imageOf gs (.record .patrons i) = some g) :
    ∃ raw q, g = .patron i raw q := by
  have ht := imageOf_some h
  cases g <;> simp_all [Image.target]

theorem imageOf_item {gs : List Image} {i : Nat} {g : Image} (h : imageOf gs (.record .items i) = some g) :
    ∃ raw d, g = .item i raw d := by
  have ht := imageOf_some h
  cases g <;> simp_all [Image.target]

theorem spoils_patron_iff (w : Work) (i : Nat) (raw : List Byte) (p : Patron) :
    w.spoils (.patron i raw p) = true ↔ (Image.patron i raw p).spoilsIn w := by
  unfold Work.spoils Image.spoilsIn
  cases hg : imageOf w.fresh (.record .patrons i) with
  | none =>
    have hraw : parsePatron (w.raw (.record .patrons i)) = w.gatheredPatron i := rfl
    simp [hg, hraw]
  | some g =>
    obtain ⟨raw', q, rfl⟩ := imageOf_patron hg
    simp [hg]

theorem spoils_item_iff (w : Work) (i : Nat) (raw : List Byte) (c : Item) :
    w.spoils (.item i raw c) = true ↔ (Image.item i raw c).spoilsIn w := by
  unfold Work.spoils Image.spoilsIn
  cases hg : imageOf w.fresh (.record .items i) with
  | none =>
    have hraw : parseItem (w.raw (.record .items i)) = w.gatheredItem i := rfl
    simp [hg, hraw]
  | some g =>
    obtain ⟨raw', d, rfl⟩ := imageOf_item hg
    simp [hg]

theorem spoils_iff (w : Work) (g : Image) : w.spoils g = true ↔ g.spoilsIn w := by
  cases g with
  | patron i raw p => exact spoils_patron_iff w i raw p
  | item i raw c => exact spoils_item_iff w i raw c
  | title i raw t => exact decide_eq_true_iff
  | hold i raw x => exact Bool.false_eq_true.to_iff
  | summary m => exact Bool.false_eq_true.to_iff
  | desk d => exact Bool.false_eq_true.to_iff

theorem mem_spoilList_iff (w : Work) (x : Target) : x ∈ w.spoilList ↔ ∃ g ∈ w.images, g.target = x ∧ g.spoilsIn w := by
  simp only [Work.spoilList, List.mem_map, List.mem_filter, spoils_iff, and_assoc, and_comm]

/-- Settles O38: freshen by its steps, the spoiling by the image. -/
theorem freshenChargesTheDays : Obligations.FreshenChargesTheDays := by
  unfold Obligations.FreshenChargesTheDays
  refine ⟨fun w T i => ⟨freshen_of_not_onLoan, fun s due b h hs hd hb => ⟨freshen_late h hs hd hb, ?_⟩⟩, mem_spoilList_iff,
    ref_eq_some_iff, fun x g => ⟨rfl, rfl, rfl, rfl, rfl⟩⟩
  rintro hT e days charge applied rfl hdays hcharge happlied
  obtain rfl : w.freshenAmount T i s due b = applied := by
    rw [happlied, hcharge, hdays, ← freshenDays_eq, ← freshenCharge_eq]
    rfl
  exact ⟨freshen_item h hs hd hb hT, freshen_patron h hs hd hb hT, freshen_sum h hs hd hb hT, freshen_fresh h hs hd hb hT,
    onlyRecords_freshen h hs hd hb hT, onlyRecords_freshen_zero h hs hd hb hT⟩

end Sys2Proof.Machine
end


section
/-! Obligations O39 and O41: a hold leaves its queue, is freed, or expires. -/

namespace Sys2Proof.Machine

/-! ## Walks (R30) -/

theorem predecessor_split {h p : Nat} {x y : Hold} {post : List (Nat × Hold)} (hp : p ≠ h) :
    ∀ pre : List (Nat × Hold), (∀ z ∈ pre, z.1 ≠ h) → predecessor h (pre ++ (p, x) :: (h, y) :: post) = some p
  | [], _ => by simp [predecessor]
  | [z], _ => by
    show predecessor h (z :: (p, x) :: (h, y) :: post) = some p
    rw [predecessor, if_neg hp, predecessor, if_pos rfl]
  | z :: z' :: pre, hall => by
    obtain ⟨-, hall⟩ := List.forall_mem_cons.mp hall
    show predecessor h (z :: z' :: (pre ++ (p, x) :: (h, y) :: post)) = some p
    rw [predecessor, if_neg (hall z' List.mem_cons_self)]
    exact predecessor_split hp (z' :: pre) hall

theorem walk_zero (w : Work) (h : Option Nat) : w.walk 0 h = [] := by unfold Work.walk; rfl

theorem walk_none (w : Work) (n : Nat) : w.walk n none = [] := by cases n <;> unfold Work.walk <;> rfl

theorem walk_inRange {w : Work} {h : Nat} (hh : h < w.count .holds) (n : Nat) :
    w.walk (n + 1) (some h) = (h, w.hold h) :: w.walk n (w.hold h).next := by
  rw [Work.walk, if_pos hh]

theorem walk_outOfRange {w : Work} {h : Nat} (hh : w.count .holds ≤ h) (n : Nat) : w.walk (n + 1) (some h) = [] := by
  rw [Work.walk, if_neg (Nat.not_lt.mpr hh)]

/-! ## A hold unlinked (R30) -/

theorem onlyRecords_linkPast (w : Work) (t h : Nat) : OnlyRecords w (w.linkPast t h) (holdTarget (w.inFront t h)) := by
  cases hp : w.inFront t h with
  | none => rw [linkPast_none hp]; exact OnlyRecords.refl w _
  | some p => rw [linkPast_some hp]; exact (OnlyRecords.refl w _).setHold _ (by simp [holdTarget])

theorem onlyRecords_unlink (w : Work) (t h : Nat) :
    OnlyRecords w (w.unlink t h) (.record .titles t :: holdTarget (w.inFront t h)) := by
  rw [unlink_eq]
  exact ((onlyRecords_linkPast w t h).mono (fun x hx => List.mem_cons_of_mem _ hx)).setTitle _ List.mem_cons_self

@[simp] theorem linkPast_sum (w : Work) (t h : Nat) : (w.linkPast t h).sum = w.sum := by
  unfold Work.linkPast
  split
  · exact setHold_sum w _ _
  · rfl

@[simp] theorem unlink_sum (w : Work) (t h : Nat) : (w.unlink t h).sum = w.sum := by rw [unlink_eq]; simp

theorem unlink_title (w : Work) (t h : Nat) : (w.unlink t h).title t =
    { w.title t with
      first := if (w.title t).first = some h then (w.hold h).next else (w.title t).first
      last := if (w.title t).last = some h then w.inFront t h else (w.title t).last
      queueLen := (w.title t).queueLen - 1 } := by
  rw [unlink_eq, title_setTitle, if_pos rfl]

theorem unlink_hold {w : Work} {t h p : Nat} (hp : w.inFront t h = some p) :
    (w.unlink t h).hold p = ({ w.hold p with next := (w.hold h).next } : Hold).written := by
  rw [unlink_eq, hold_setTitle, linkPast_some hp, hold_setHold, if_pos rfl]

/-! ## A hold freed (R33) -/

theorem onlyRecords_free (w : Work) (h : Nat) : OnlyRecords w (w.free h) [.record .holds h, .summary] :=
  ((OnlyRecords.refl w _).setHold _ (by simp)).setSum _ (by simp)

@[simp] theorem free_sum (w : Work) (h : Nat) :
    (w.free h).sum = { w.sum with freeHead := some h, freeCount := w.sum.freeCount + 1 } := by simp [Work.free]

theorem free_hold (w : Work) (h : Nat) : (w.free h).hold h = Hold.freeForm w.sum.freeHead := by simp [Work.free]

/-- Settles O39: the unlinking by its two changes, the walks by their recursion. -/
theorem holdLeavesItsQueueAndIsFreed : Obligations.HoldLeavesItsQueueAndIsFreed := by
  unfold Obligations.HoldLeavesItsQueueAndIsFreed
  refine ⟨?_, fun h p x y pre post hall hp => predecessor_split hp pre hall,
    fun w n h => ⟨walk_zero w _, walk_none w n, fun hh => walk_inRange hh n, fun hh => walk_outOfRange hh n⟩,
    fun w t => rfl, fun w h => ⟨free_hold w h, free_sum w h, onlyRecords_free w h⟩⟩
  rintro w t h pred rfl
  exact ⟨unlink_title w t h, fun p hp => unlink_hold hp, unlink_sum w t h, onlyRecords_unlink w t h⟩

/-! ## Expiry (R129, R130) -/

theorem lapsed_iff (T : Nat) (x : Hold) : lapsed x T = true ↔ (x.state = .onShelf ∧ ∃ d, x.deadline = some d ∧ d < T) := by
  simp [lapsed, dayBefore, Option.any_eq_true]

@[simp] theorem unlink_patron (w : Work) (t h p : Nat) : (w.unlink t h).patron p = w.patron p :=
  (onlyRecords_unlink w t h).patrons p (by cases w.inFront t h <;> simp [holdTarget])

@[simp] theorem free_patron (w : Work) (h p : Nat) : (w.free h).patron p = w.patron p := by simp [Work.free]

theorem expired_counts {u : Limits} {p : Patron} (h : u.noShowLimit = 0 ∨ min (p.noShow + 1) 15 < u.noShowLimit) (T : Nat) :
    p.expired u T = { p with activeHolds := p.activeHolds - 1, noShow := min (p.noShow + 1) 15 } := by
  have hneg : ¬ (u.noShowLimit ≠ 0 ∧ u.noShowLimit ≤ min (p.noShow + 1) 15) := by omega
  exact if_neg hneg

theorem expired_bans {u : Limits} {p : Patron} (h : u.noShowLimit ≠ 0) (hl : u.noShowLimit ≤ min (p.noShow + 1) 15) (T : Nat) :
    p.expired u T =
      { p with activeHolds := p.activeHolds - 1, noShow := 0, ban := some (min (T + u.banLength) 65535) } :=
  if_pos ⟨h, hl⟩

theorem expire_eq_offer {w : Work} {t h : Nat} (ht : w.ref .titles (w.hold h).title = some t) (T c : Nat) :
    w.expire T h c = (w.expireHold T h).offer T c t := by
  simp only [Work.expire, ht]

section
variable {w : Work} {t h p : Nat} (ht : w.ref .titles (w.hold h).title = some t)
  (hp : w.ref .patrons (w.hold h).patron = some p)
include ht hp

theorem onlyRecords_expireHold (T : Nat) :
    OnlyRecords ((w.unlink t h).free h) (w.expireHold T h) [.record .patrons p, .summary] := by
  rw [expireHold_patron ht hp]
  exact ((OnlyRecords.refl _ _).setPatron _ (by simp)).setSum _ (by simp)

theorem expireHold_sum (T : Nat) : (w.expireHold T h).sum =
    { ((w.unlink t h).free h).sum with expired := (w.sum.expired + 1) % 4294967296 } := by
  rw [expireHold_patron ht hp]
  simp [countSucc]

theorem expireHold_holder (T : Nat) : (w.expireHold T h).patron p = (w.patron p).expired w.setup.limits T := by
  rw [expireHold_patron ht hp]
  simp
end

theorem lapsedHold_some {w : Work} {T i h : Nat} (hs : (w.item i).state = .setAside)
    (href : w.ref .holds (w.item i).aside = some h) : w.lapsedHold T i = if lapsed (w.hold h) T then some h else none := by
  simp only [Work.lapsedHold, hs, href]

theorem lapsedHold_none {w : Work} {T i : Nat} (h : (w.item i).state ≠ .setAside ∨ w.ref .holds (w.item i).aside = none) :
    w.lapsedHold T i = none := by
  unfold Work.lapsedHold
  split
  next hs href => exact absurd href (by simp [h.resolve_left (not_not_intro hs)])
  next => rfl

theorem expireOnTouch_some {w : Work} {T i h : Nat} (hl : w.lapsedHold T i = some h) :
    w.expireOnTouch T i = (w.expire T h i).1 := by simp only [Work.expireOnTouch, hl]

theorem expireOnTouch_none {w : Work} {T i : Nat} (hl : w.lapsedHold T i = none) : w.expireOnTouch T i = w := by
  simp only [Work.expireOnTouch, hl]

/-- Settles O41: the expiry by its changes, the touch by whether the set-aside hold has lapsed. -/
theorem expiryFreesTheHoldAndPassesOn : Obligations.ExpiryFreesTheHoldAndPassesOn := by
  unfold Obligations.ExpiryFreesTheHoldAndPassesOn
  refine ⟨fun w T h c t p ht hp => ⟨w.expireHold T h, expire_eq_offer ht T c, onlyRecords_expireHold ht hp T,
    expireHold_sum ht hp T, fun hn => ?_, fun hn hl => ?_⟩, lapsed_iff,
    fun w T i => ⟨fun h hs href hl => ?_, fun hno => expireOnTouch_none ?_, rfl⟩⟩
  · rw [expireHold_holder ht hp, expired_counts hn]
  · rw [expireHold_holder ht hp, expired_bans hn hl]
  · exact expireOnTouch_some ((lapsedHold_some hs href).trans (if_pos hl))
  · rcases hno with hs | hnone | ⟨h, ha, hl⟩
    · exact lapsedHold_none (.inl hs)
    · exact lapsedHold_none (.inr hnone)
    · by_cases hs : (w.item i).state = .setAside
      · cases href : w.ref .holds (w.item i).aside with
        | none => exact lapsedHold_none (.inr href)
        | some j =>
          obtain ⟨hj, -⟩ := (ref_eq_some_iff _ _ _ _).mp href
          obtain rfl : h = j := Option.some.inj (ha.symm.trans hj)
          rw [lapsedHold_some hs href, hl]
          rfl
      · exact lapsedHold_none (.inl hs)

end Sys2Proof.Machine
end


section
/-! Obligations O42 and O43: the entries that act on the Session Table. -/

namespace Sys2Proof.Machine

/-! ## Who holds a patron (R38, R41) -/

theorem claimant_none {s : State} {p : Nat} (h : ∀ m, (s.stream m).session ≠ .claimed p) : s.claimant p = none := by
  rw [State.claimant, List.find?_eq_none]
  exact fun m _ hm => h m (of_decide_eq_true hm)

theorem claimant_of_claimed {s : State} {p : Nat} {v : StreamId} (hu : ClaimsUnique s) (h : (s.stream v).session = .claimed p) :
    s.claimant p = some v := by
  cases hc : s.claimant p with
  | none => exact absurd (decide_eq_true h) (List.find?_eq_none.mp hc v (List.mem_finRange v))
  | some m =>
    rw [hu m v p (claimant_some hc) h]

theorem mayTakeOver_iff (a b : Option Grade) : mayTakeOver a b = true ↔ (a = some .desk ∨ a = some .supervisor) ∧ b = some .kiosk := by
  simp [mayTakeOver]

section
variable {s : State} {n : StreamId} {p : Nat}

theorem claimRequest_free (h : s.claimant p = none) : s.claimRequest n p = (s.makeClaimed n p, true) := by
  simp only [State.claimRequest, h]

theorem claimRequest_takes {v : StreamId} (h : s.claimant p = some v) (ht : mayTakeOver (s.grade n) (s.grade v) = true) :
    s.claimRequest n p = (((s.makeVacant v).makeClaimed n p).endVictim v, true) := by
  simp only [State.claimRequest, h, ht, if_true]

theorem claimRequest_inUse {v : StreamId} (h : s.claimant p = some v) (ht : mayTakeOver (s.grade n) (s.grade v) = false) :
    s.claimRequest n p = (s, false) := by
  simp only [State.claimRequest, h, ht, Bool.false_eq_true, if_false]
end

/-! ## A claim granted (R42) -/

theorem stream_makeClaimed (s : State) (n : StreamId) (p : Nat) :
    (s.makeClaimed n p).stream n = ({ s.stream n with session := .claimed p } : Stream).settled := by
  rw [State.makeClaimed, stream_changeSession, stream_updStream_self]

theorem makeClaimed_raised {s : State} {n : StreamId} (h : (s.stream n).session = .vacant) (p : Nat) :
    SessionWordRaised (s.makeClaimed n p) n := changeSession_raised (by rw [h]; exact session_code_vacant.symm)

theorem makeVacant_raised {s : State} {n : StreamId} {p : Nat} (h : (s.stream n).session = .claimed p) :
    SessionWordRaised (s.makeVacant n) n := changeSession_raised (by rw [h]; exact session_code_vacant)

/-! ## A takeover (R43, R44) -/

/-- The victim's batch, ended where it stands. -/
def State.victimBatchEnded (s : State) (v : StreamId) : State :=
  match (s.stream v).batch with
  | .collecting => s.endBatch v
  | .queued => (s.leaveQueue v).endBatch v
  | .idle => s
  | .settling => s

theorem endVictim_eq (s : State) (v : StreamId) : s.endVictim v = (s.victimBatchEnded v).answerFresh v .claimTaken 0 := rfl

section
variable {s : State} {v : StreamId}

theorem victimBatchEnded_collecting (h : (s.stream v).batch = .collecting) : s.victimBatchEnded v = s.endBatch v := by
  simp only [State.victimBatchEnded, h]

theorem victimBatchEnded_queued (h : (s.stream v).batch = .queued) : s.victimBatchEnded v = (s.leaveQueue v).endBatch v := by
  simp only [State.victimBatchEnded, h]

theorem victimBatchEnded_stands (h : (s.stream v).batch = .idle ∨ (s.stream v).batch = .settling) :
    s.victimBatchEnded v = s := by
  rcases h with h | h <;> simp only [State.victimBatchEnded, h]
end

/-- Ending the victim's batch changes the victim's entry, and the queue when it stood there. -/
structure VictimEnded (s t : State) (v : StreamId) : Prop where
  grows : Grows s t [.streams, .commitQueue]
  others : OnlyStreams s t [v]
  stands : (t.stream v).session = (s.stream v).session ∧ (t.stream v).guardHits = (s.stream v).guardHits
  fails : (s.stream v).session ≠ .off → (t.stream v).checkFails = (s.stream v).checkFails
  settled : (s.stream v).settled = s.stream v → (t.stream v).settled = t.stream v
  idle : ((s.stream v).batch = .collecting ∨ (s.stream v).batch = .queued) → BatchIsIdle (t.stream v)
  left : (s.stream v).batch = .queued → t.queue = s.queue.filter (fun m => decide (m ≠ v))
  stays : (s.stream v).batch ≠ .queued → t.queue = s.queue

theorem stream_endBatch (s : State) (v : StreamId) : (s.endBatch v).stream v = (s.stream v).batchIdle.settled :=
  stream_updStream_self s v _

theorem endBatch_stands (s : State) (v : StreamId) : ((s.endBatch v).stream v).session = (s.stream v).session ∧
    ((s.endBatch v).stream v).guardHits = (s.stream v).guardHits := by rw [stream_endBatch]; exact ⟨rfl, rfl⟩

theorem endBatch_fails (s : State) (v : StreamId) (h : (s.stream v).session ≠ .off) :
    ((s.endBatch v).stream v).checkFails = (s.stream v).checkFails := by
  rw [stream_endBatch]
  exact if_neg h

theorem endBatch_settled (s : State) (v : StreamId) : ((s.endBatch v).stream v).settled = (s.endBatch v).stream v := by
  rw [stream_endBatch, settled_settled]

theorem endBatch_idle (s : State) (v : StreamId) : BatchIsIdle ((s.endBatch v).stream v) := by
  rw [stream_endBatch]; exact (batchIdle_settled_idle _).1

theorem victimBatchEnded_ended (s : State) (v : StreamId) : VictimEnded s (s.victimBatchEnded v) v := by
  rcases batch_open_or_closed (s.stream v).batch with (h | h) | (h | h)
  · rw [victimBatchEnded_stands (.inl h)]
    exact ⟨Grows.refl s _, fun _ _ => rfl, ⟨rfl, rfl⟩, fun _ => rfl, id, fun hb => by simp [h] at hb, fun hb => by simp [h] at hb, fun _ => rfl⟩
  · rw [victimBatchEnded_collecting h]
    exact ⟨(grows_updStream s v _).mono, onlyStreams_updStream s v _, endBatch_stands s v, endBatch_fails s v, fun _ => endBatch_settled s v,
      fun _ => endBatch_idle s v, fun hb => by simp [h] at hb, fun _ => rfl⟩
  · rw [victimBatchEnded_queued h]
    exact ⟨(onlyParts_queue s _).grows.mono.andThen (grows_updStream _ v _), onlyStreams_updStream (s.leaveQueue v) v _,
      endBatch_stands (s.leaveQueue v) v, endBatch_fails (s.leaveQueue v) v, fun _ => endBatch_settled _ v, fun _ => endBatch_idle _ v, fun _ => rfl,
      fun hb => absurd h hb⟩
  · rw [victimBatchEnded_stands (.inr h)]
    exact ⟨Grows.refl s _, fun _ _ => rfl, ⟨rfl, rfl⟩, fun _ => rfl, id, fun hb => by simp [h] at hb, fun hb => by simp [h] at hb, fun _ => rfl⟩

/-- The two sessions of a takeover, before the victim's batch is ended. -/
def State.takenOver (s : State) (v n : StreamId) (p : Nat) : State := (s.makeVacant v).makeClaimed n p

theorem grows_takenOver (s : State) (v n : StreamId) (p : Nat) : Grows s (s.takenOver v n p) [.raised, .streams] :=
  (grows_changeSession s v _ _).andThen (grows_changeSession _ n _ _)

section
variable {s : State} {v n : StreamId} {p : Nat} (hv : (s.stream v).session = .claimed p) (hn : (s.stream n).session = .vacant)
include hv hn

theorem victim_ne_claimant : v ≠ n := fun he => by
  rw [he, hn] at hv
  contradiction

theorem takenOver_victim : (s.takenOver v n p).stream v = ({ s.stream v with session := .vacant } : Stream).settled := by
  rw [State.takenOver, State.makeClaimed, stream_changeSession, stream_updStream_ne _ (victim_ne_claimant hv hn),
    stream_makeVacant]

theorem takenOver_claimant : (s.takenOver v n p).stream n = ({ s.stream n with session := .claimed p } : Stream).settled := by
  rw [State.takenOver, stream_makeClaimed]
  have hsame : (s.makeVacant v).stream n = s.stream n :=
    onlyStreams_changeSession s v _ _ n (by simpa using (victim_ne_claimant hv hn).symm)
  rw [hsame]

theorem takenOver_raised : SessionWordRaised (s.takenOver v n p) v ∧ SessionWordRaised (s.takenOver v n p) n := by
  have hsame : (s.makeVacant v).stream n = s.stream n :=
    onlyStreams_changeSession s v _ _ n (by simpa using (victim_ne_claimant hv hn).symm)
  refine ⟨(makeVacant_raised hv).grows (grows_changeSession _ n _ _) ?_, makeClaimed_raised (by rw [hsame]; exact hn) p⟩
  show ((s.takenOver v n p).stream v).session = _
  rw [takenOver_victim hv hn, stream_makeVacant]
end

/-- What a takeover leaves (R43, R44). -/
structure TakesOver (s t : State) (v n : StreamId) (p : Nat) : Prop where
  parts : OnlyParts s t [.streams, .raised, .commitQueue]
  others : OnlyStreams s t [n, v]
  claimant : (t.stream n).session = .claimed p
  victim : (t.stream v).session = .vacant ∧ (t.stream v).watches = [] ∧ (t.stream v).idleTimer = none ∧
    (t.stream v).checkFails = (s.stream v).checkFails
  idle : ((s.stream v).batch = .collecting ∨ (s.stream v).batch = .queued) → BatchIsIdle (t.stream v)
  left : (s.stream v).batch = .queued → t.queue = s.queue.filter (fun m => decide (m ≠ v))
  stays : (s.stream v).batch ≠ .queued → t.queue = s.queue
  words : SessionWordRaised t v ∧ SessionWordRaised t n
  fresh : AnswersFresh t v .claimTaken (s.stream v).guardHits

theorem vacated_checkFails (x : Stream) : ({ x with session := .vacant } : Stream).settled.checkFails = x.checkFails := by
  simp [Stream.settled]

theorem endVictim_takes {s : State} {v n : StreamId} {p : Nat} (hv : (s.stream v).session = .claimed p)
    (hn : (s.stream n).session = .vacant) : TakesOver s ((s.takenOver v n p).endVictim v) v n p := by
  have hne := victim_ne_claimant hv hn
  have hvictim := takenOver_victim hv hn
  have htaken := grows_takenOver s v n p
  have hqueue : (s.takenOver v n p).queue = s.queue := htaken.parts .commitQueue (by decide)
  obtain ⟨hgrows, hothers, ⟨hsession, hhits⟩, hfails, hsettled, hidle, hleft, hstays⟩ :=
    victimBatchEnded_ended (s.takenOver v n p) v
  have hbatch : ((s.takenOver v n p).stream v).batch = (s.stream v).batch := by rw [hvictim]; rfl
  have hvacant : ((s.takenOver v n p).stream v).session = .vacant := by rw [hvictim]; rfl
  rw [hbatch] at hidle hleft hstays
  have hy := hsettled (by rw [hvictim]; exact settled_settled _)
  obtain ⟨hwatches, htimer, -⟩ := (settled_eq_iff _).mp hy
  have hunclaimed : (((s.takenOver v n p).victimBatchEnded v).stream v).session.isClaimed = false := by
    rw [hsession, hvacant]; rfl
  have hstopped : (((s.takenOver v n p).victimBatchEnded v).stream v).idleTimer = none :=
    Option.not_isSome_iff_eq_none.mp (fun hs => by simp [hunclaimed] at htimer; simp [htimer] at hs)
  have hnotOff : ((s.takenOver v n p).stream v).session ≠ .off := by rw [hvacant]; nofun
  have hchecks : (((s.takenOver v n p).victimBatchEnded v).stream v).checkFails = (s.stream v).checkFails := by
    rw [hfails hnotOff, hvictim, vacated_checkFails]
  have hfresh := grows_answerFresh ((s.takenOver v n p).victimBatchEnded v) v .claimTaken 0 none
  have hentry : ((s.takenOver v n p).endVictim v).stream v = { ((s.takenOver v n p).victimBatchEnded v).stream v with
      answer := .fresh, answersRaised := (((s.takenOver v n p).victimBatchEnded v).stream v).answersRaised + 1 } := by
    rw [endVictim_eq, stream_answerFresh, if_pos rfl, answers_settled hy]
  have hclaimant : ((s.takenOver v n p).endVictim v).stream n = (s.takenOver v n p).stream n := by
    rw [endVictim_eq, stream_answerFresh, if_neg (Ne.symm hne)]
    exact hothers n (by simpa using Ne.symm hne)
  have hend : Grows (s.takenOver v n p) ((s.takenOver v n p).endVictim v) [.streams, .commitQueue, .raised] :=
    hgrows.mono.andThen hfresh
  have hq : ((s.takenOver v n p).endVictim v).queue = ((s.takenOver v n p).victimBatchEnded v).queue :=
    hfresh.parts .commitQueue (by decide)
  obtain ⟨hwordv, hwordn⟩ := takenOver_raised hv hn
  have hans := answersFresh_answerFresh ((s.takenOver v n p).victimBatchEnded v) v .claimTaken none
  rw [hhits, hvictim, settled_guardHits] at hans
  have hwatched := hwatches hunclaimed
  have hgone := hsession.trans hvacant
  generalize ((s.takenOver v n p).victimBatchEnded v).stream v = y at hentry hgone hwatched hstopped hchecks hidle hsession
  refine ⟨(htaken.parts.mono (by decide)).andThen hend.parts, fun m hm => ?_, ?_, ?_, fun hb => ?_, fun hb => ?_, fun hb => ?_,
    ⟨hwordv.grows hend (by rw [hentry, ← hsession]), hwordn.grows hend (by rw [hclaimant])⟩, ?_⟩
  · obtain ⟨hmn, hmv⟩ : m ≠ n ∧ m ≠ v := by simpa using hm
    rw [endVictim_eq, stream_answerFresh, if_neg hmv, hothers m (by simpa using hmv)]
    exact Eq.trans (onlyStreams_changeSession (s.makeVacant v) n _ _ m (by simpa using hmn))
      (onlyStreams_changeSession s v _ _ m (by simpa using hmv))
  · rw [hclaimant, takenOver_claimant hv hn]
    rfl
  · rw [hentry]
    exact ⟨hgone, hwatched, hstopped, hchecks⟩
  · rw [hentry]
    exact hidle hb
  · rw [hq, hleft hb, hqueue]
  · rw [hq, hstays hb, hqueue]
  · exact hans

end Sys2Proof.Machine
end


section
/-! Obligations O42 and O43: the decides of CLAIM, RELEASE and STREAM_REOPEN. -/

namespace Sys2Proof.Machine

/-! ## CLAIM's judgment of the card (R41) -/

section
variable {k : Ctx} {w : Work} {card : Card} (hcard : card = parseCard (w.raw (.record .cards k.entry.target)))
include hcard

theorem claimJudge_unknown (h : w.count .patrons ≤ card.patron) : claimJudge k w = .error .cardUnknown := by
  subst hcard
  simp only [claimJudge, cardPatron_none h]

section
variable (h : card.patron < w.count .patrons)
include h

theorem claimJudge_lost (hs : card.state = .lost) : claimJudge k w = .error .cardLost := by
  subst hcard
  simp only [claimJudge, cardPatron_some h, hs]

theorem claimJudge_withdrawn (hs : card.state = .withdrawn) : claimJudge k w = .error .cardUnknown := by
  subst hcard
  simp only [claimJudge, cardPatron_some h, hs]

theorem claimJudge_active (hs : card.state = .active) : claimJudge k w = .ok card.patron := by
  subst hcard
  simp only [claimJudge, cardPatron_some h, hs]
end
end

/-! ## CLAIM's decide -/

/-- The sub-units a granted claim goes on with: the freshen of each item on loan (R146). -/
def claimSub (p : Nat) (loans : List Nat) : SubUnits := if loans = [] then .none else .claim p loans

section
variable {s : State} {u : WorkUnit} {b : CurrentBatch} {x : Setup} (h : AtDecide s (.entry .claim) u b x)
include h

theorem exec_claim_refused {c : OutcomeCode} (hj : claimJudge (s.ctx x u) (Work.start x u.gathered) = .error c) :
    exec .claim s = .next (s.conclude u b (Work.start x u.gathered) (plain c) .none) := by
  show Host.Outcome.next s.decideClaim = _
  simp only [State.decideClaim, deciding_of_atDecide h, hj]

theorem exec_claim_inUse {p : Nat} (hj : claimJudge (s.ctx x u) (Work.start x u.gathered) = .ok p)
    (hr : s.claimRequest b.stream p = (s, false)) :
    exec .claim s = .next (s.conclude u b (Work.start x u.gathered) (plain .inUse) .none) := by
  show Host.Outcome.next s.decideClaim = _
  simp only [State.decideClaim, deciding_of_atDecide h, hj, hr, Bool.false_eq_true, if_false]

theorem exec_claim_granted {p : Nat} {s1 : State} (hj : claimJudge (s.ctx x u) (Work.start x u.gathered) = .ok p)
    (hr : s.claimRequest b.stream p = (s1, true)) : exec .claim s =
      .next (s1.conclude u b (Work.start x u.gathered) ⟨.done, p, ((Work.start x u.gathered).patron p).balance⟩
        (claimSub p ((Work.start x u.gathered).patron p).loans)) := by
  show Host.Outcome.next s.decideClaim = _
  simp only [State.decideClaim, deciding_of_atDecide h, hj, hr, if_true, claimSub, List.isEmpty_iff]
end

/-- An unclaimed patron is claimed (R42). -/
theorem makeClaimed_spec {s : State} {n : StreamId} (h : (s.stream n).session = .vacant) (p : Nat) :
    OnlyParts s (s.makeClaimed n p) [.streams, .raised] ∧ OnlyStreams s (s.makeClaimed n p) [n] ∧
      ((s.makeClaimed n p).stream n).session = .claimed p ∧ SessionWordRaised (s.makeClaimed n p) n :=
  ⟨(grows_changeSession s n _ _).parts.mono (by decide), onlyStreams_changeSession s n _ _,
    by rw [stream_makeClaimed]; rfl, makeClaimed_raised h p⟩

theorem mayTakeOver_false {a b : Option Grade} (h : (a ≠ some .desk ∧ a ≠ some .supervisor) ∨ b ≠ some .kiosk) :
    mayTakeOver a b = false := by
  refine Bool.eq_false_iff.mpr (fun ht => ?_)
  obtain ⟨ha, hb⟩ := (mayTakeOver_iff a b).mp ht
  rcases h with ⟨h1, h2⟩ | h3
  · exact ha.elim h1 h2
  · exact h3 hb

/-- Settles O42: the card's judgment, then who holds its patron. -/
theorem claimIsDecided : Obligations.ClaimIsDecided := by
  unfold Obligations.ClaimIsDecided
  rintro s u b x w card h rfl hcard
  refine ⟨fun hp => ⟨_, exec_claim_refused h (claimJudge_unknown (k := s.ctx x u) hcard hp), concludes_conclude ..⟩,
    fun hp => ⟨fun hs => ⟨_, exec_claim_refused h (claimJudge_lost (k := s.ctx x u) hcard hp hs), concludes_conclude ..⟩,
      fun hs => ⟨_, exec_claim_refused h (claimJudge_withdrawn (k := s.ctx x u) hcard hp hs), concludes_conclude ..⟩,
      fun hs => ?_⟩⟩
  have hj := claimJudge_active (k := s.ctx x u) hcard hp hs
  refine ⟨fun hfree hvacant => ?_, fun v hu hv hgrade hkiosk hvacant => ?_, fun v hu hv hno => ?_⟩
  · obtain ⟨hparts, hothers, hclaimed, hraised⟩ := makeClaimed_spec hvacant card.patron
    exact ⟨_, _, exec_claim_granted h hj (claimRequest_free (claimant_none hfree)), hparts, hothers, hclaimed, hraised,
      concludes_conclude ..⟩
  · have htakes := endVictim_takes hv hvacant
    have hmay := (mayTakeOver_iff (s.grade b.stream) (s.grade v)).mpr ⟨hgrade, hkiosk⟩
    obtain ⟨hses, hwatch, htimer, hfails⟩ := htakes.victim
    exact ⟨_, _, exec_claim_granted h hj (claimRequest_takes (claimant_of_claimed hu hv) hmay), htakes.parts, htakes.others,
      htakes.claimant, hses, hwatch, htimer, hfails, htakes.idle, htakes.left, htakes.stays, htakes.words.1, htakes.words.2,
      htakes.fresh, concludes_conclude ..⟩
  · exact ⟨_, exec_claim_inUse h hj (claimRequest_inUse (claimant_of_claimed hu hv) (mayTakeOver_false hno)),
      concludes_conclude ..⟩

/-! ## RELEASE and STREAM_REOPEN (R45, R50) -/

theorem makeVacant_spec {s : State} {n : StreamId} {p : Nat} (h : (s.stream n).session = .claimed p) :
    OnlyParts s (s.makeVacant n) [.streams, .raised] ∧ OnlyStreams s (s.makeVacant n) [n] ∧
      ((s.makeVacant n).stream n).session = .vacant ∧ ((s.makeVacant n).stream n).watches = [] ∧
      ((s.makeVacant n).stream n).idleTimer = none ∧ SessionWordRaised (s.makeVacant n) n := by
  refine ⟨(grows_changeSession s n _ _).parts.mono (by decide), onlyStreams_changeSession s n _ _, ?_, ?_, ?_, makeVacant_raised h⟩
  all_goals rw [stream_makeVacant]; rfl

theorem stream_reopen (s : State) (n : StreamId) :
    (s.reopen n).stream n = ({ s.stream n with session := .vacant, checkFails := 0 } : Stream).settled := by
  rw [State.reopen, stream_changeSession, stream_updStream_self]

theorem session_code_reopened : BitVec.ofNat 8 Session.vacant.code ≠ BitVec.ofNat 8 Session.barred.code := by decide

theorem reopen_spec {s : State} {n : StreamId} (h : (s.stream n).session = .barred) :
    OnlyParts s (s.reopen n) [.streams, .raised] ∧ OnlyStreams s (s.reopen n) [n] ∧
      ((s.reopen n).stream n).session = .vacant ∧ ((s.reopen n).stream n).checkFails = 0 ∧
      ((s.reopen n).stream n).batch = (s.stream n).batch ∧ ((s.reopen n).stream n).answer = (s.stream n).answer ∧
      SessionWordRaised (s.reopen n) n := by
  refine ⟨(grows_changeSession s n _ _).parts.mono (by decide), onlyStreams_changeSession s n _ _, ?_, ?_, ?_, ?_,
    changeSession_raised (by rw [h]; exact session_code_reopened)⟩
  all_goals rw [stream_reopen]; rfl

theorem exec_release {s : State} {u : WorkUnit} {b : CurrentBatch} {x : Setup} {p : Nat}
    (h : AtDecide s (.entry .release) u b x) (hp : (s.stream b.stream).session = .claimed p) : exec .release s =
      .next ((s.makeVacant b.stream).conclude u b (Work.start x u.gathered) ⟨.done, p, 0⟩ .none) := by
  show Host.Outcome.next s.decideRelease = _
  simp only [State.decideRelease, deciding_of_atDecide h, hp, Session.patron, Option.getD_some]

section
variable {s : State} {u : WorkUnit} {b : CurrentBatch} {x : Setup} (h : AtDecide s (.entry .streamReopen) u b x)
include h

/-- A reopen that gives anything but DONE changes no stream. -/
theorem exec_streamReopen_refused {o : Outcome} (ho : s.reopenOutcome b.stream (s.unitEntry u).target = o) (hd : o.code ≠ .done) :
    exec .streamReopen s = .next (s.conclude u b (Work.start x u.gathered) o .none) := by
  subst ho
  show Host.Outcome.next s.decideReopen = _
  simp only [State.decideReopen, deciding_of_atDecide h, if_neg hd, dite_eq_ite, ite_self]

theorem exec_streamReopen_done {n : StreamId} {f : Nat} (hn : (s.unitEntry u).target = n.val)
    (ho : s.reopenOutcome b.stream n.val = ⟨.done, n.val, f⟩) : exec .streamReopen s =
      .next ((s.reopen n).conclude u b (Work.start x u.gathered) ⟨.done, n.val, f⟩ .none) := by
  show Host.Outcome.next s.decideReopen = _
  simp only [State.decideReopen, deciding_of_atDecide h, hn, ho, if_true, dif_pos n.isLt]
end

theorem reopenOutcome_badStream {s : State} {m : StreamId} {n : Nat} (h : 31 < n ∨ n = m.val) :
    s.reopenOutcome m n = plain .badStream := by
  unfold State.reopenOutcome
  by_cases hn : n < 32
  · rw [dif_pos hn, if_pos (h.resolve_left (by omega))]
  · rw [dif_neg hn]

theorem reopenOutcome_notBarred {s : State} {m n : StreamId} (hne : n ≠ m) (h : (s.stream n).session ≠ .barred) :
    s.reopenOutcome m n.val = plain .notBarred := by
  unfold State.reopenOutcome
  rw [dif_pos n.isLt, if_neg (fun he => hne (Fin.ext he)), if_neg h]

theorem reopenOutcome_done {s : State} {m n : StreamId} (hne : n ≠ m) (h : (s.stream n).session = .barred) :
    s.reopenOutcome m n.val = ⟨.done, n.val, (s.stream n).checkFails⟩ := by
  unfold State.reopenOutcome
  rw [dif_pos n.isLt, if_neg (fun he => hne (Fin.ext he)), if_pos h]

/-- Settles O43: the release by the session's change, the reopen by its outcome. -/
theorem releaseAndReopenAreDecided : Obligations.ReleaseAndReopenAreDecided := by
  unfold Obligations.ReleaseAndReopenAreDecided
  refine ⟨fun s u b x p h hp => ?_, fun s u b x h => ⟨fun hbad => ?_, fun n hn hne => ⟨fun hb => ?_, fun hb => ?_⟩⟩⟩
  · obtain ⟨hparts, hothers, hses, hwatch, htimer, hraised⟩ := makeVacant_spec hp
    exact ⟨_, _, exec_release h hp, hparts, hothers, hses, hwatch, htimer, hraised, concludes_conclude ..⟩
  · exact ⟨_, exec_streamReopen_refused h (reopenOutcome_badStream hbad) (by decide), concludes_conclude ..⟩
  · exact ⟨_, exec_streamReopen_refused h (by rw [hn]; exact reopenOutcome_notBarred hne hb) (by decide), concludes_conclude ..⟩
  · obtain ⟨hparts, hothers, hses, hfails, hbatch, hanswer, hraised⟩ := reopen_spec hb
    exact ⟨_, _, exec_streamReopen_done h hn (reopenOutcome_done hne hb), hparts, hothers, hses, hfails, hbatch, hanswer,
      hraised, concludes_conclude ..⟩

end Sys2Proof.Machine
end


section
/-! Obligations O45 and O46: LEND and RETURN. -/

namespace Sys2Proof.Machine

/-! ## The setup a unit works with stays -/

section
variable (w : Work)

@[simp] theorem unlink_setup (t h : Nat) : (w.unlink t h).setup = w.setup := (onlyRecords_unlink w t h).setup

@[simp] theorem free_setup (h : Nat) : (w.free h).setup = w.setup := (onlyRecords_free w h).setup

@[simp] theorem offer_setup (T c t : Nat) : (w.offer T c t).1.setup = w.setup := by
  cases hx : w.chosenHold T c t with
  | none => rw [offer_of_chosenHold_none hx]; exact setItem_setup w c _
  | some x => rw [offer_of_chosenHold_some hx]; exact (onlyRecords_trap w T c x.1).setup

@[simp] theorem expireFrom_setup (T : Nat) (t : Option Nat) (h : Nat) : (w.expireFrom T t h).setup = w.setup := by
  unfold Work.expireFrom
  cases t <;> cases w.ref .patrons (w.hold h).patron <;> simp

@[simp] theorem expire_setup (T h c : Nat) : (w.expire T h c).1.setup = w.setup := by
  unfold Work.expire
  cases w.ref .titles (w.hold h).title <;> simp [Work.expireHold]

@[simp] theorem expireOnTouch_setup (T i : Nat) : (w.expireOnTouch T i).setup = w.setup := by
  cases hl : w.lapsedHold T i with
  | none => rw [expireOnTouch_none hl]
  | some h => rw [expireOnTouch_some hl, expire_setup]

@[simp] theorem freshen_setup (T i : Nat) : (w.freshen T i).setup = w.setup := by
  rcases freshen_cases w T i with he | ⟨s, due, b, h, hs, hd, hb, hT⟩
  · rw [he]
  · rw [freshen_steps h hs hd hb hT]
    simp
    rfl

@[simp] theorem touch_setup (T i : Nat) : (w.touch T i).setup = w.setup := by
  rw [Work.touch, expireOnTouch_setup, freshen_setup]
end

/-! ## A collection (R109) -/

theorem collect_freed {w : Work} {t h : Nat} (ht : w.ref .titles (w.hold h).title = some t) (p : Nat) :
    OnlyRecords ((w.unlink t h).free h) (w.collect p h) [.record .patrons p, .summary] ∧
      (w.collect p h).patron p = { w.patron p with activeHolds := (w.patron p).activeHolds - 1 } ∧
      (w.collect p h).sum = { ((w.unlink t h).free h).sum with collected := (w.sum.collected + 1) % 4294967296 } := by
  rw [collect_eq ht]
  refine ⟨((OnlyRecords.refl _ _).setPatron _ (by simp)).setSum _ (by simp), ?_, ?_⟩
  · simp [Patron.dropHold]
  · simp [countSucc]

@[simp] theorem unlink_item (w : Work) (t h i : Nat) : (w.unlink t h).item i = w.item i :=
  (onlyRecords_unlink w t h).items i (by cases w.inFront t h <;> simp [holdTarget])

@[simp] theorem free_item (w : Work) (h i : Nat) : (w.free h).item i = w.item i := by simp [Work.free]

@[simp] theorem collect_item (w : Work) (p h i : Nat) : (w.collect p h).item i = w.item i := by
  unfold Work.collect
  cases w.ref .titles (w.hold h).title <;> simp

/-! ## LEND (R107 to R110) -/

section
variable {k : Ctx} {w : Work}

/-- The item as LEND's check 6 finds it. -/
theorem lendState_available (h : (w.item k.entry.target).state = .available) : lendState k w = .admits := by
  simp only [lendState, h]

theorem lendState_yours (h : (w.item k.entry.target).state = .onLoan) (hb : (w.item k.entry.target).borrower = some k.patron) :
    lendState k w = .refused ⟨.alreadyYours, (w.item k.entry.target).due.getD 0, 0⟩ := by
  simp only [lendState, h, if_pos hb]

theorem lendState_onLoan (h : (w.item k.entry.target).state = .onLoan) (hb : (w.item k.entry.target).borrower ≠ some k.patron) :
    lendState k w = .refused ⟨.onLoan, (w.item k.entry.target).due.getD 0, 0⟩ := by
  simp only [lendState, h, if_neg hb]

theorem lendState_noHold (h : (w.item k.entry.target).state = .setAside)
    (href : w.ref .holds (w.item k.entry.target).aside = none) : lendState k w = .refused (plain .reserved) := by
  simp only [lendState, h, href]

section
variable {j : Nat} (h : (w.item k.entry.target).state = .setAside) (href : w.ref .holds (w.item k.entry.target).aside = some j)
include h href

theorem lendState_collects (hc : (w.hold j).state = .onShelf ∧ (w.hold j).patron = some k.patron ∧ (w.hold j).pickup = k.branch) :
    lendState k w = .collects j := by
  simp only [lendState, h, href, if_pos hc]

theorem lendState_reserved
    (hc : ¬ ((w.hold j).state = .onShelf ∧ (w.hold j).patron = some k.patron ∧ (w.hold j).pickup = k.branch)) :
    lendState k w = .refused ⟨.reserved, (w.hold j).pickup, if (w.hold j).state = .onShelf then 2 else 1⟩ := by
  simp only [lendState, h, href, if_neg hc]
end
end

section
variable {k : Ctx} {w0 w : Work} (hw : w = w0.touch k.day k.entry.target)
include hw

theorem decideLend_checked {o : Outcome} (h : lendChecks k w = some o) : decideLend k w0 = (w, o) := by
  subst hw
  simp only [decideLend, h]

theorem decideLend_refused (h : lendChecks k w = none) {o : Outcome} (hs : lendState k w = .refused o) :
    decideLend k w0 = (w, o) := by
  subst hw
  simp only [decideLend, h, hs]

theorem decideLend_collects (h : lendChecks k w = none) {j : Nat} (hs : lendState k w = .collects j) :
    decideLend k w0 = (w.collect k.patron j).lend k k.entry.target k.patron := by
  subst hw
  simp only [decideLend, h, hs]

theorem decideLend_admits (h : lendChecks k w = none) (hs : lendState k w = .admits) :
    decideLend k w0 = w.lend k k.entry.target k.patron := by
  subst hw
  simp only [decideLend, h, hs]
end

/-- The due day of a loan that starts on the unit's day (R110). -/
def Ctx.loanDue (k : Ctx) (c : Item) : Nat := min (k.day + (k.setup.classOf c.cls).loanPeriod) 65535

/-- The item of a loan made (R110). -/
def Item.lentTo (c : Item) (k : Ctx) (p : Nat) : Item :=
  { c with
    state := .onLoan, borrower := some p, due := some (k.loanDue c), renewals := 0, accrued := 0
    charged := some k.day, aside := none }

theorem lentTo_written (c : Item) (k : Ctx) (p : Nat) : (c.lentTo k p).written = c.lentTo k p := rfl

/-- The patron's list with an item added (R110). -/
def Patron.borrows (q : Patron) (i : Nat) : Patron := { q with loans := q.loans ++ [i] }

theorem lend_eq (v : Work) (k : Ctx) (i p : Nat) : v.lend k i p =
    (((v.setItem i ((v.item i).lentTo k p)).setPatron p ((v.patron p).borrows i)).setSum
        (fun m => { m with lent := countSucc m.lent }),
      ⟨.done, k.loanDue (v.item i), (v.patron p).loans.length + 1⟩) := by
  simp only [Work.lend, patron_setItem]
  rfl

/-- A loan made: the item, the patron's list and the count. -/
theorem lend_spec (v : Work) (k : Ctx) (i p : Nat) :
    OnlyRecords v (v.lend k i p).1 [.record .items i, .record .patrons p, .summary] ∧
      (v.lend k i p).1.item i = (v.item i).lentTo k p ∧
      (v.lend k i p).1.patron p = { v.patron p with loans := (v.patron p).loans ++ [i] } ∧
      (v.lend k i p).1.sum = { v.sum with lent := (v.sum.lent + 1) % 4294967296 } ∧
      (v.lend k i p).2 = ⟨.done, k.loanDue (v.item i), (v.patron p).loans.length + 1⟩ := by
  rw [lend_eq]
  dsimp only
  exact ⟨(((OnlyRecords.refl v _).setItem _ (by simp)).setPatron _ (by simp)).setSum _ (by simp), by simp [lentTo_written],
    by simp [Patron.borrows], by simp [countSucc], rfl⟩

/-- Settles O45: the checks, the item's state, then the loan. -/
theorem lendIsDecided : Obligations.LendIsDecided := by
  unfold Obligations.LendIsDecided
  rintro s u b x k w c h rfl hw rfl
  have hconcludes : ∀ d, decideLend (s.ctx x u) (Work.start x u.gathered) = d →
      ∃ t : State, exec .lend s = .next t ∧ Concludes s t u b d.1 d.2 .none := fun d hd => by
    subst hd
    exact ⟨_, rfl, decideEntry_concludes decideLend h⟩
  refine ⟨fun o ho => hconcludes _ (decideLend_checked hw ho), fun hno => ⟨fun hs hb => ?_, fun hs hb => ?_, fun hs href => ?_,
    fun j hs href hc => ?_, fun v hv => ?_⟩, fun j tt ht z hz => hz ▸ collect_freed ht _⟩
  · exact hconcludes _ (decideLend_refused hw hno (lendState_yours hs hb))
  · exact hconcludes _ (decideLend_refused hw hno (lendState_onLoan hs hb))
  · exact hconcludes _ (decideLend_refused hw hno (lendState_noHold hs href))
  · exact hconcludes _ (decideLend_refused hw hno (lendState_reserved hs href hc))
  · obtain ⟨hdecide, hitem⟩ : decideLend (s.ctx x u) (Work.start x u.gathered) =
        v.lend (s.ctx x u) (s.ctx x u).entry.target (s.ctx x u).patron ∧
        v.item (s.ctx x u).entry.target = w.item (s.ctx x u).entry.target := by
      rcases hv with ⟨hs, rfl⟩ | ⟨hs, j, href, h1, h2, h3, rfl⟩
      · exact ⟨decideLend_admits hw hno (lendState_available hs), rfl⟩
      · exact ⟨decideLend_collects hw hno (lendState_collects hs href ⟨h1, h2, h3⟩), collect_item w _ j _⟩
    obtain ⟨hrecords, hlent, hloans, hsum, hout⟩ := lend_spec v (s.ctx x u) (s.ctx x u).entry.target (s.ctx x u).patron
    obtain ⟨t, hexec, hc⟩ := hconcludes _ hdecide
    rw [hitem] at hlent hout
    rw [hout] at hc
    exact ⟨t, _, _, hexec, rfl, hrecords, hlent, hloans, hsum, hc⟩

/-! ## RETURN (R111, R112) -/

theorem endLoan_nobody {w : Work} {i : Nat} (h : w.ref .patrons (w.item i).borrower = none) (branch : Nat) :
    w.endLoan i branch = w.setItem i { (w.item i).leftAvailable with loc := some branch } := by
  simp only [Work.endLoan, h]

theorem endLoan_borrower {w : Work} {i p : Nat} (h : w.ref .patrons (w.item i).borrower = some p) (branch : Nat) :
    w.endLoan i branch = (w.setItem i { (w.item i).leftAvailable with loc := some branch }).setPatron p
      { w.patron p with loans := (w.patron p).loans.filter (fun j => decide (j ≠ i)) } := by
  simp only [Work.endLoan, h, patron_setItem]

/-- The item and its borrower as the end of a loan leaves them. -/
theorem endLoan_spec (w : Work) (i branch : Nat) :
    OnlyRecords w (w.endLoan i branch) (.record .items i :: w.targets .patrons (w.item i).borrower) ∧
      (w.endLoan i branch).sum = w.sum ∧
      (w.endLoan i branch).item i = { (w.item i).leftAvailable with loc := some branch } ∧
      ∀ p, w.ref .patrons (w.item i).borrower = some p → (w.endLoan i branch).patron p =
        { w.patron p with loans := (w.patron p).loans.filter (fun j => decide (j ≠ i)) } := by
  have hwritten : ({ (w.item i).leftAvailable with loc := some branch } : Item).written =
    { (w.item i).leftAvailable with loc := some branch } := rfl
  cases hb : w.ref .patrons (w.item i).borrower with
  | none =>
    rw [endLoan_nobody hb]
    exact ⟨(OnlyRecords.refl w _).setItem _ List.mem_cons_self, setItem_sum w _ _, by simp [hwritten], fun p hp => by simp at hp⟩
  | some q =>
    rw [endLoan_borrower hb, targets_of_ref hb]
    refine ⟨((OnlyRecords.refl w _).setItem _ List.mem_cons_self).setPatron _ (by simp), by simp, by simp [hwritten],
      fun p hp => ?_⟩
    obtain rfl := Option.some.inj hp
    simp

/-- The item returned is offered to the title it names, if that is in range (R112). -/
def Work.offerReturned (w : Work) (T i : Nat) : Work × Nat :=
  match w.titleOf i with
  | some t => w.offer T i t
  | none => (w, 0)

theorem offerReturned_inRange {w : Work} {i : Nat} (h : (w.item i).title < w.count .titles) (T : Nat) :
    w.offerReturned T i = w.offer T i (w.item i).title := by
  simp only [Work.offerReturned, titleOf_of_lt h]

theorem offerReturned_outOfRange {w : Work} {i : Nat} (h : ¬ (w.item i).title < w.count .titles) (T : Nat) :
    w.offerReturned T i = (w, 0) := by
  simp only [Work.offerReturned, titleOf_of_not_lt h]

section
variable {k : Ctx} {w0 w : Work} (hw : w = w0.touch k.day k.entry.target)
include hw

theorem decideReturn_notOnLoan (h : (w.item k.entry.target).state ≠ .onLoan) : decideReturn k w0 = (w, plain .notOnLoan) := by
  subst hw
  simp only [decideReturn, if_neg h]

theorem decideReturn_onLoan (h : (w.item k.entry.target).state = .onLoan) : decideReturn k w0 =
    (((w.endLoan k.entry.target k.branch).offerReturned k.day k.entry.target).1.setSum
        (fun m => { m with returned := countSucc m.returned }),
      ⟨.done, (w.item k.entry.target).accrued,
        ((w.endLoan k.entry.target k.branch).offerReturned k.day k.entry.target).2⟩) := by
  subst hw
  simp only [decideReturn, if_pos h]
  rfl
end

/-- Settles O46: the end of the loan, the offer, and the count. -/
theorem returnIsDecided : Obligations.ReturnIsDecided := by
  unfold Obligations.ReturnIsDecided
  rintro s u b x k w c h rfl hw rfl
  have hconcludes : ∀ d, decideReturn (s.ctx x u) (Work.start x u.gathered) = d →
      ∃ t : State, exec .returnItem s = .next t ∧ Concludes s t u b d.1 d.2 .none := fun d hd => by
    subst hd
    exact ⟨_, rfl, decideEntry_concludes decideReturn h⟩
  refine ⟨fun hs => hconcludes _ (decideReturn_notOnLoan hw hs), fun hs => ?_⟩
  obtain ⟨t, hexec, hc⟩ := hconcludes _ (decideReturn_onLoan hw hs)
  obtain ⟨hrecords, hsum, hitem, hpatron⟩ := endLoan_spec w (s.ctx x u).entry.target (s.ctx x u).branch
  have htitle : ((w.endLoan (s.ctx x u).entry.target (s.ctx x u).branch).item (s.ctx x u).entry.target).title =
      (w.item (s.ctx x u).entry.target).title := by rw [hitem]; rfl
  have hcount : (w.endLoan (s.ctx x u).entry.target (s.ctx x u).branch).count .titles = x.regions.titles.count := by
    unfold Work.count
    rw [hrecords.setup, hw, touch_setup]
    rfl
  refine ⟨t, _, _, hexec, hrecords, hsum, hitem, hpatron, fun hlt => ?_, fun hle => ?_, hc⟩
  · rw [offerReturned_inRange (by rw [htitle, hcount]; exact hlt), htitle]
  · exact offerReturned_outOfRange (by rw [htitle, hcount]; exact Nat.not_lt.mpr hle) _

end Sys2Proof.Machine
end


section
/-! Obligations O47 and O48: RENEW, RENEW_SET and their units. -/

namespace Sys2Proof.Machine

/-! ## The watch check of a KIOSK stream (R77) -/

section
variable {k : Ctx} {r : Region} {i : Nat}

theorem watchCheck_notKiosk (h : k.grade ≠ some .kiosk) : watchCheck k r i = none := if_neg h

theorem watchCheck_notShown (h : k.grade = some .kiosk) (hw : findWatch k.watches r i = none) :
    watchCheck k r i = some ⟨.notShown, i, 0⟩ := by
  simp only [watchCheck, if_pos h, hw]

theorem watchCheck_spoiled (h : k.grade = some .kiosk) {v : Watch} (hw : findWatch k.watches r i = some v)
    (hv : v.condition = .spoiled) : watchCheck k r i = some ⟨.changed, i, 0⟩ := by
  simp only [watchCheck, if_pos h, hw, if_pos hv]

theorem watchCheck_unspoiled {v : Watch} (hw : findWatch k.watches r i = some v) (hv : v.condition = .unspoiled) :
    watchCheck k r i = none := by
  unfold watchCheck
  split
  · simp only [hw, hv, reduceCtorEq, if_false]
  · rfl

theorem watchCheck_passes (h : k.grade ≠ some .kiosk ∨ ∃ v, findWatch k.watches r i = some v ∧ v.condition = .unspoiled) :
    watchCheck k r i = none := by
  rcases h with h | ⟨v, hw, hv⟩
  · exact watchCheck_notKiosk h
  · exact watchCheck_unspoiled hw hv
end

theorem findWatch_none {ws : List Watch} {r : Region} {k : Nat} (h : ∀ v ∈ ws, ¬(v.region = r ∧ v.index = k)) :
    findWatch ws r k = none := by
  rw [← Option.not_isSome_iff_eq_none, findWatch_some_iff]
  rintro ⟨v, hv, he⟩
  exact h v hv he

/-! ## RENEW's checks on the item (R113) -/

theorem orElseCheck_of_none {a : Option Outcome} (h : a = none) (b : Option Outcome) : orElseCheck a b = b := by rw [h]; rfl

theorem orElseCheck_of_some {a : Option Outcome} {o : Outcome} (h : a = some o) (b : Option Outcome) :
    orElseCheck a b = some o := by rw [h]; rfl

section
variable {k : Ctx} {w : Work} {i : Nat}

theorem renewChecks_standing {o : Outcome} (h : standing k (w.patron k.patron) = some o) : renewChecks k w i = some o :=
  orElseCheck_of_some h _

section
variable (h : standing k (w.patron k.patron) = none)
include h

theorem renewChecks_limit (hl : (k.setup.classOf (w.item i).cls).renewalLimit ≤ (w.item i).renewals) : renewChecks k w i =
    some ⟨.renewLimit, (w.item i).renewals, (k.setup.classOf (w.item i).cls).renewalLimit⟩ :=
  (orElseCheck_of_none h _).trans (if_pos hl)

section
variable (hl : (w.item i).renewals < (k.setup.classOf (w.item i).cls).renewalLimit)
include hl

theorem renewChecks_waiting {pos j : Nat} {y : Hold} (ht : (w.item i).title < w.count .titles)
    (hq : firstAt (fun z => readyHold k.day z.2) 1 (w.queue (w.item i).title) = some (pos, j, y)) :
    renewChecks k w i = some ⟨.holdsWaiting, pos, (w.title (w.item i).title).queueLen⟩ := by
  refine (orElseCheck_of_none h _).trans ((if_neg (Nat.not_le.mpr hl)).trans ?_)
  simp only [titleOf_of_lt ht, hq]

theorem renewChecks_passes (hq : w.count .titles ≤ (w.item i).title ∨
    ∀ z ∈ w.queue (w.item i).title, readyHold k.day z.2 = false) : renewChecks k w i = none := by
  refine (orElseCheck_of_none h _).trans ((if_neg (Nat.not_le.mpr hl)).trans ?_)
  by_cases ht : (w.item i).title < w.count .titles
  · have hfirst : firstAt (fun z => readyHold k.day z.2) 1 (w.queue (w.item i).title) = none :=
      (firstAt_eq_none _ 1).mpr (hq.resolve_left (Nat.not_le.mpr ht))
    simp only [titleOf_of_lt ht, hfirst]
  · simp only [titleOf_of_not_lt ht]
end
end

/-- The item as an extension of its loan leaves it (R114). -/
theorem extend_spec (w : Work) (k : Ctx) {i old : Nat} (hs : (w.item i).state = .onLoan) (ho : (w.item i).due = some old) :
    (w.extend k i).2 =
        ⟨.done, min (max k.day old + (k.setup.classOf (w.item i).cls).loanPeriod) 65535, (w.item i).renewals + 1⟩ ∧
      OnlyRecords w (w.extend k i).1 [.record .items i, .summary] ∧
      (w.extend k i).1.item i =
        { w.item i with
          due := some (min (max k.day old + (k.setup.classOf (w.item i).cls).loanPeriod) 65535)
          renewals := (w.item i).renewals + 1, aside := none } ∧
      (w.extend k i).1.sum = { w.sum with renewed := (w.sum.renewed + 1) % 4294967296 } := by
  have hextend : w.extend k i = ((w.setItem i { w.item i with
        due := some (min (max k.day old + (k.setup.classOf (w.item i).cls).loanPeriod) 65535)
        renewals := (w.item i).renewals + 1 }).setSum (fun m => { m with renewed := countSucc m.renewed }),
      ⟨.done, min (max k.day old + (k.setup.classOf (w.item i).cls).loanPeriod) 65535, (w.item i).renewals + 1⟩) := by
    have hold : (w.item i).due.getD 0 = old := by rw [ho]; rfl
    rw [← hold]
    rfl
  have hwritten : ({ w.item i with
      due := some (min (max k.day old + (k.setup.classOf (w.item i).cls).loanPeriod) 65535)
      renewals := (w.item i).renewals + 1 } : Item).written = { w.item i with
        due := some (min (max k.day old + (k.setup.classOf (w.item i).cls).loanPeriod) 65535)
        renewals := (w.item i).renewals + 1, aside := none } := item_written_onLoan hs
  rw [hextend]
  dsimp only
  refine ⟨rfl, ((OnlyRecords.refl w _).setItem _ (by simp)).setSum _ (by simp), ?_, by simp [countSucc]⟩
  rw [item_setSum, item_setItem, if_pos rfl, hwritten]
end

/-! ## The rules on an item (R113, R117) -/

section
variable {k : Ctx} {w0 w : Work} {i : Nat} {ask : Bool} (hw : w = w0.touch k.day i)
include hw

theorem renewItem_notYours (h : ¬((w.item i).state = .onLoan ∧ (w.item i).borrower = some k.patron)) :
    renewItem k w0 i ask = (w, plain .notYours) := by
  subst hw
  simp only [renewItem, if_neg h]

section
variable (h : (w.item i).state = .onLoan ∧ (w.item i).borrower = some k.patron)
include h

theorem renewItem_refused {o : Outcome}
    (hc : orElseCheck (if ask then watchCheck k .items i else none) (renewChecks k w i) = some o) :
    renewItem k w0 i ask = (w, o) := by
  subst hw
  simp only [renewItem, if_pos h, hc]

theorem renewItem_extends
    (hc : orElseCheck (if ask then watchCheck k .items i else none) (renewChecks k w i) = none) :
    renewItem k w0 i ask = w.extend k i := by
  subst hw
  simp only [renewItem, if_pos h, hc]
end
end

/-- The watch is asked of a KIOSK stream's RENEW alone. -/
theorem askedWatch_none {k : Ctx} {i : Nat} {ask : Bool}
    (h : ask = false ∨ k.grade ≠ some .kiosk ∨ ∃ v, findWatch k.watches .items i = some v ∧ v.condition = .unspoiled) :
    (if ask then watchCheck k .items i else none) = none := by
  rcases h with h | h
  · rw [h]; rfl
  · rw [watchCheck_passes h, ite_self]

/-- A renewal that asks no watch is that of a stream with none to ask. -/
theorem renewItem_noWatch (k : Ctx) (w : Work) (i : Nat) :
    renewItem k w i false = renewItem { k with grade := some .desk } w i true := by
  have hwatch : watchCheck { k with grade := some .desk } .items i = none := watchCheck_notKiosk nofun
  unfold renewItem
  simp only [hwatch, if_true, Bool.false_eq_true, if_false]
  rfl

/-- Settles O47: the checks in their order, then the extension. -/
theorem renewIsDecided : Obligations.RenewIsDecided := by
  unfold Obligations.RenewIsDecided
  refine ⟨?_, fun k w0 w i ask hw => ⟨fun h => renewItem_notYours hw h, fun hs hb => ⟨fun hask hk hno => ?_,
    fun v hask hk hv hc => ?_, fun hpass => ⟨fun o ho => ?_, fun hstand => ⟨fun hl => ?_, fun hl => ⟨fun pos j y ht hq => ?_,
    ?_⟩⟩⟩⟩⟩, renewItem_noWatch⟩
  · rintro s u b x k d h rfl rfl
    exact ⟨_, rfl, decideEntry_concludes decideRenew h⟩
  · refine renewItem_refused hw ⟨hs, hb⟩ (orElseCheck_of_some ?_ _)
    rw [hask, if_pos rfl]
    exact watchCheck_notShown hk (findWatch_none hno)
  · refine renewItem_refused hw ⟨hs, hb⟩ (orElseCheck_of_some ?_ _)
    rw [hask, if_pos rfl]
    exact watchCheck_spoiled hk hv hc
  · exact renewItem_refused hw ⟨hs, hb⟩ ((orElseCheck_of_none (askedWatch_none hpass) _).trans (renewChecks_standing ho))
  · exact renewItem_refused hw ⟨hs, hb⟩ ((orElseCheck_of_none (askedWatch_none hpass) _).trans (renewChecks_limit hstand hl))
  · exact renewItem_refused hw ⟨hs, hb⟩
      ((orElseCheck_of_none (askedWatch_none hpass) _).trans (renewChecks_waiting hstand hl ht hq))
  · rintro due old hq ho rfl
    rw [renewItem_extends hw ⟨hs, hb⟩
      ((orElseCheck_of_none (askedWatch_none hpass) _).trans (renewChecks_passes hstand hl hq))]
    exact extend_spec w k hs ho

/-! ## The selection of a RENEW_SET (R116) -/

theorem mem_selectFrom_iff (e : Entry) (pos i : Nat) : ∀ (is : List Nat) (p : Nat), (pos, i) ∈ selectFrom e p is ↔
    p ≤ pos ∧ e.first ≤ pos ∧ pos ≤ e.last ∧ pos ∉ e.excluded ∧ is[pos - p]? = some i
  | [], p => by simp [selectFrom]
  | j :: is, p => by
    have hrest := mem_selectFrom_iff e pos i is (p + 1)
    rw [selectFrom]
    by_cases hp : pos = p
    · subst hp
      have hnot : (pos, i) ∉ selectFrom e (pos + 1) is := fun hm => by
        have := (hrest.mp hm).1
        omega
      split
      next hsel => simp [hnot, hsel, eq_comm]
      next hsel =>
        constructor
        · intro hm
          exact absurd hm hnot
        · rintro ⟨-, h1, h2, h3, -⟩
          exact absurd ⟨h1, h2, h3⟩ hsel
    · have hcons : p ≤ pos → (j :: is)[pos - p]? = is[pos - (p + 1)]? := fun hle => by
        obtain ⟨d, rfl⟩ : ∃ d, pos = p + 1 + d := ⟨pos - (p + 1), by omega⟩
        rw [show p + 1 + d - p = d + 1 by omega, show p + 1 + d - (p + 1) = d by omega, List.getElem?_cons_succ]
      have hmem : ((pos, i) ∈ if e.first ≤ p ∧ p ≤ e.last ∧ p ∉ e.excluded then (p, j) :: selectFrom e (p + 1) is
          else selectFrom e (p + 1) is) ↔ (pos, i) ∈ selectFrom e (p + 1) is := by
        split
        · simp [hp]
        · rfl
      rw [hmem, hrest]
      constructor
      · rintro ⟨h1, h2, h3, h4, h5⟩
        exact ⟨by omega, h2, h3, h4, (hcons (by omega)).trans h5⟩
      · rintro ⟨h1, h2, h3, h4, h5⟩
        exact ⟨by omega, h2, h3, h4, (hcons h1).symm.trans h5⟩

theorem selectFrom_pairwise (e : Entry) : ∀ (is : List Nat) (p : Nat), (selectFrom e p is).Pairwise (fun x y => x.1 < y.1)
  | [], p => List.Pairwise.nil
  | j :: is, p => by
    have hrest := selectFrom_pairwise e is (p + 1)
    rw [selectFrom]
    split
    · refine List.Pairwise.cons (fun y hy => ?_) hrest
      have hle := ((mem_selectFrom_iff e y.1 y.2 is (p + 1)).mp hy).1
      show p < y.1
      omega
    · exact hrest

/-! ## The units of a RENEW_SET (R116 to R118) -/

theorem renewSetChecks_badTarget {k : Ctx} (h : ¬ rangeValid k.entry = true) : renewSetChecks k = some (plain .badTarget) :=
  if_neg h

theorem renewSetChecks_valid {k : Ctx} (h : rangeValid k.entry = true) :
    renewSetChecks k = watchCheck k .patrons k.patron := if_pos h

section
variable {s : State} {u : WorkUnit} {b : CurrentBatch} {x : Setup} (h : AtDecide s (.entry .renewSet) u b x)
include h

theorem exec_renewSet_refused {o : Outcome} (hc : renewSetChecks (s.ctx x u) = some o) :
    exec .renewSet s = .next (s.conclude u b (Work.start x u.gathered) o .none) := by
  show Host.Outcome.next s.decideRenewSet = _
  simp only [State.decideRenewSet, deciding_of_atDecide h, hc]

theorem exec_renewSet_empty (hc : renewSetChecks (s.ctx x u) = none)
    (hs : selection (s.ctx x u) (Work.start x u.gathered) = []) : exec .renewSet s =
      .next (s.conclude { u with kind := .closing, code := 18 } b (Work.start x u.gathered) (plain .done) .none) := by
  show Host.Outcome.next s.decideRenewSet = _
  simp only [State.decideRenewSet, deciding_of_atDecide h, hc, hs, List.isEmpty_nil, if_true]
  rfl

theorem exec_renewSet_first (hc : renewSetChecks (s.ctx x u) = none) {l : List (Nat × Nat)}
    (hs : selection (s.ctx x u) (Work.start x u.gathered) = l) (hl : l ≠ []) : exec .renewSet s =
      .next (s.concludeRenewal { u with kind := .renewalSub, code := 17 } b x ⟨l, 0, 0, none⟩) := by
  subst hs
  show Host.Outcome.next s.decideRenewSet = _
  simp only [State.decideRenewSet, deciding_of_atDecide h, hc, List.isEmpty_iff, if_neg hl]
  rfl
end

/-- A renewal sub-unit: the renewal of the first remaining position, and the progress after it. -/
theorem concludeRenewal_eq (s : State) (u : WorkUnit) (b : CurrentBatch) (x : Setup) {r : RenewProgress} {pos i : Nat}
    {rest : List (Nat × Nat)} (hr : r.remaining = (pos, i) :: rest) {d : Work × Outcome}
    (hd : d = renewItem (s.ctx x u) (Work.start x u.gathered) i false) : s.concludeRenewal u b x r =
      s.conclude u b d.1 ⟨.cut, (r.tally pos d.2).renewed, 0⟩ (.renew (r.tally pos d.2)) := by
  subst hd
  simp only [State.concludeRenewal, renewStep, hr]

theorem tally_done {r : RenewProgress} {pos i : Nat} {rest : List (Nat × Nat)} (hr : r.remaining = (pos, i) :: rest)
    {o : Outcome} (ho : o.code = .done) : r.tally pos o = ⟨rest, r.renewed + 1, r.refused, r.firstRefusal⟩ := by
  simp only [RenewProgress.tally, if_pos ho, hr, List.tail_cons]

theorem tally_refused {r : RenewProgress} {pos i : Nat} {rest : List (Nat × Nat)} (hr : r.remaining = (pos, i) :: rest)
    {o : Outcome} (ho : o.code ≠ .done) :
    r.tally pos o = ⟨rest, r.renewed, r.refused + 1, some (r.firstRefusal.getD (pos, o.code))⟩ := by
  simp only [RenewProgress.tally, if_neg ho, hr, List.tail_cons]
  cases r.firstRefusal <;> rfl

/-- Both ends of a renewal sub-unit. -/
theorem concludeRenewal_concludes (s : State) (u : WorkUnit) (b : CurrentBatch) (x : Setup) {r : RenewProgress} {pos i : Nat}
    {rest : List (Nat × Nat)} (hr : r.remaining = (pos, i) :: rest) {d : Work × Outcome}
    (hd : d = renewItem (s.ctx x u) (Work.start x u.gathered) i false) :
    (d.2.code = .done → Concludes s (s.concludeRenewal u b x r) u b d.1 ⟨.cut, r.renewed + 1, 0⟩
      (.renew ⟨rest, r.renewed + 1, r.refused, r.firstRefusal⟩)) ∧
    (d.2.code ≠ .done → Concludes s (s.concludeRenewal u b x r) u b d.1 ⟨.cut, r.renewed, 0⟩
      (.renew ⟨rest, r.renewed, r.refused + 1, some (r.firstRefusal.getD (pos, d.2.code))⟩)) := by
  rw [concludeRenewal_eq s u b x hr hd]
  refine ⟨fun ho => ?_, fun ho => ?_⟩
  · rw [tally_done hr ho]
    exact concludes_conclude ..
  · rw [tally_refused hr ho]
    exact concludes_conclude ..

theorem exec_renewalSubUnit {s : State} {u : WorkUnit} {b : CurrentBatch} {x : Setup} {r : RenewProgress}
    (h : AtDecide s .renewalSub u b x) (hb : b.sub = .renew r) :
    exec .renewalSubUnit s = .next (s.concludeRenewal u b x r) := by
  show Host.Outcome.next s.decideRenewalSub = _
  simp only [State.decideRenewalSub, deciding_of_atDecide h, hb]

theorem exec_closingUnit {s : State} {u : WorkUnit} {b : CurrentBatch} {x : Setup} {r : RenewProgress}
    (h : AtDecide s .closing u b x) (hb : b.sub = .renew r) :
    exec .closingUnit s = .next (s.conclude u b (Work.start x []) r.outcome .none) := by
  show Host.Outcome.next s.decideClosing = _
  simp only [State.decideClosing, deciding_of_atDecide h, hb]

section
variable {r : RenewProgress}

theorem outcome_allDone (h : r.firstRefusal = none) : r.outcome = ⟨.done, r.renewed, r.refused * 256⟩ := by
  simp only [RenewProgress.outcome, h, Option.map_none, Option.getD_none, Nat.add_zero]

theorem outcome_someDone {pos : Nat} {c : OutcomeCode} (h : r.firstRefusal = some (pos, c)) (hr : 0 < r.renewed) :
    r.outcome = ⟨.partially, r.renewed, r.refused * 256 + pos⟩ := by
  simp only [RenewProgress.outcome, h, Option.map_some, Option.getD_some, if_neg (Nat.ne_of_gt hr)]

theorem outcome_noneDone {pos : Nat} {c : OutcomeCode} (h : r.firstRefusal = some (pos, c)) (hr : r.renewed = 0) :
    r.outcome = ⟨c, 0, r.refused * 256 + pos⟩ := by
  simp only [RenewProgress.outcome, h, Option.map_some, Option.getD_some, if_pos hr]
end

/-- Settles O48: the selection by its recursion, each unit by its equation. -/
theorem renewSetIsDecided : Obligations.RenewSetIsDecided := by
  unfold Obligations.RenewSetIsDecided
  refine ⟨fun k w pos i => mem_selectFrom_iff k.entry pos i _ 1, fun k w => selectFrom_pairwise k.entry _ 1, ?_,
    fun s u b x r pos i rest d h hb hr hd => ?_, fun s u b x r h hb => ⟨fun hf => ?_, fun pos code hf => ⟨fun hr => ?_, fun hr => ?_⟩⟩⟩
  · rintro s u b x k w h rfl rfl
    refine ⟨fun hbad => ?_, fun h1 h2 h3 => ?_⟩
    · exact ⟨_, exec_renewSet_refused h (renewSetChecks_badTarget (fun hv => hbad ((rangeValid_iff _).mp hv))),
        concludes_conclude ..⟩
    have hchecks := renewSetChecks_valid ((rangeValid_iff (s.ctx x u).entry).mpr ⟨h1, h2, h3⟩)
    refine ⟨fun hk hw => ?_, fun v hk hw hv => ?_, fun hpass => ?_⟩
    · exact ⟨_, exec_renewSet_refused h (hchecks.trans (watchCheck_notShown hk hw)), concludes_conclude ..⟩
    · exact ⟨_, exec_renewSet_refused h (hchecks.trans (watchCheck_spoiled hk hw hv)), concludes_conclude ..⟩
    have hnone := hchecks.trans (watchCheck_passes hpass)
    refine ⟨fun hs => ⟨_, exec_renewSet_empty h hnone hs, concludes_conclude ..⟩, fun pos i rest d hs hd => ?_⟩
    have hexec := exec_renewSet_first h hnone hs nofun
    obtain ⟨hdone, hrefused⟩ := concludeRenewal_concludes s { u with kind := .renewalSub, code := 17 } b x
      (r := ⟨(pos, i) :: rest, 0, 0, none⟩) rfl hd
    exact ⟨fun ho => ⟨_, hexec, hdone ho⟩, fun ho => ⟨_, hexec, hrefused ho⟩⟩
  · obtain ⟨hdone, hrefused⟩ := concludeRenewal_concludes s u b x hr hd
    exact ⟨fun ho => ⟨_, exec_renewalSubUnit h hb, hdone ho⟩, fun ho => ⟨_, exec_renewalSubUnit h hb, hrefused ho⟩⟩
  · rw [← outcome_allDone hf]
    exact ⟨_, exec_closingUnit h hb, concludes_conclude ..⟩
  · rw [← outcome_someDone hf hr]
    exact ⟨_, exec_closingUnit h hb, concludes_conclude ..⟩
  · rw [← outcome_noneDone hf hr]
    exact ⟨_, exec_closingUnit h hb, concludes_conclude ..⟩

end Sys2Proof.Machine
end


section
/-! Obligation O49: HOLD_PLACE. -/

namespace Sys2Proof.Machine

/-! ## The thirteen checks (R133) -/

theorem ite_some_eq_orElse {c : Prop} [Decidable c] (o : Outcome) (b : Option Outcome) :
    (if c then some o else b) = orElseCheck (if c then some o else none) b := by split <;> rfl

theorem orElseCheck_map_none {α : Type} {a : Option α} (h : a = none) (f : α → Outcome) (b : Option Outcome) :
    orElseCheck (a.map f) b = b := by rw [h]; rfl

theorem orElseCheck_map_some {α : Type} {a : Option α} {y : α} (h : a = some y) (f : α → Outcome) (b : Option Outcome) :
    orElseCheck (a.map f) b = some (f y) := by rw [h]; rfl

/-- The copies of a title that the patron has on loan. -/
def Work.lentCopy (w : Work) (t p c : Nat) : Bool :=
  w.copyOf t c && decide ((w.item c).state = .onLoan) && decide ((w.item c).borrower = some p)

/-- The idle copies of a title that stand at a branch. -/
def Work.copyAt (w : Work) (t branch c : Nat) : Bool := w.idleCopy t c && decide ((w.item c).place = branch)

/-- The checks that ask after the hold and its copies. -/
def holdChecks (k : Ctx) (w : Work) : Option Outcome :=
  orElseCheck ((firstAt (fun x => decide (x.2.patron = some k.patron)) 1 (w.queue k.entry.target)).map
      (fun x => ⟨.holdExists, x.1, 0⟩)) <|
    orElseCheck (((w.title k.entry.target).copies.find? (w.lentCopy k.entry.target k.patron)).map
        (fun c => ⟨.haveCopy, c, 0⟩)) <|
      orElseCheck (if k.setup.limits.holdLimit ≤ (w.patron k.patron).activeHolds then
          some ⟨.holdLimit, (w.patron k.patron).activeHolds, k.setup.limits.holdLimit⟩ else none) <|
        orElseCheck (if 255 ≤ (w.title k.entry.target).queueLen then
            some ⟨.queueFull, (w.title k.entry.target).queueLen, 0⟩ else none) <|
          orElseCheck (if w.sum.freeCount = 0 then some (plain .poolFull) else none)
            (((w.title k.entry.target).copies.find? (w.copyAt k.entry.target k.entry.pickup)).map
              (fun c => ⟨.copyHere, c, 0⟩))

/-- The checks in their order, one after the other. -/
theorem holdPlaceChecks_eq (k : Ctx) (w : Work) : holdPlaceChecks k w =
    orElseCheck (if 63 < k.entry.pickup then some ⟨.badTarget, k.entry.pickup, 0⟩ else none)
      (orElseCheck (standing k (w.patron k.patron))
        (orElseCheck (if (w.patron k.patron).ban.any (fun d => decide (k.day < d)) then
            some ⟨.holdBan, (w.patron k.patron).ban.getD 0, 0⟩ else none)
          (orElseCheck (watchCheck k .titles k.entry.target)
            (orElseCheck (if k.entry.until.any (fun d => decide (d ≤ k.day ∨ Config.lastDay < d)) then
                some ⟨.badDay, k.entry.day, 0⟩ else none) (holdChecks k w))))) := by
  rw [← ite_some_eq_orElse, ← ite_some_eq_orElse, ← ite_some_eq_orElse]
  unfold holdPlaceChecks holdChecks Work.lentCopy Work.copyAt
  dsimp only
  cases hfirst : firstAt (fun x => decide (x.2.patron = some k.patron)) 1 (w.queue k.entry.target) with
  | some x => rfl
  | none =>
    cases hlent : (w.title k.entry.target).copies.find? (fun c => w.copyOf k.entry.target c &&
        decide ((w.item c).state = .onLoan) && decide ((w.item c).borrower = some k.patron)) with
    | some c => rfl
    | none =>
      rw [orElseCheck_map_none rfl, orElseCheck_map_none rfl, ← ite_some_eq_orElse, ← ite_some_eq_orElse, ← ite_some_eq_orElse]
      cases hhere : (w.title k.entry.target).copies.find? (fun c => w.idleCopy k.entry.target c &&
          decide ((w.item c).place = k.entry.pickup)) <;> rfl

/-- A check of an optional day, as the day it refuses. -/
theorem ite_any_eq_map (a : Option Nat) (p : Nat → Bool) (c : OutcomeCode) {v : Nat} (hv : ∀ d, a = some d → v = d) :
    (if a.any p then some (⟨c, v, 0⟩ : Outcome) else none) = (a.filter p).map (fun d => ⟨c, d, 0⟩) := by
  cases a with
  | none => rfl
  | some d =>
    rw [hv d rfl]
    cases hp : p d <;> simp [Option.filter, hp]

theorem until_some {e : Entry} {d : Nat} (h : e.until = some d) : e.day = d := by
  rw [until_eq] at h
  split at h
  · contradiction
  · exact Option.some.inj h

/-- The watch check of a KIOSK stream as its two refusals. -/
theorem watchCheck_eq (k : Ctx) (r : Region) (i : Nat) : watchCheck k r i =
    orElseCheck (if k.grade = some .kiosk ∧ findWatch k.watches r i = none then some ⟨.notShown, i, 0⟩ else none)
      (if k.grade = some .kiosk ∧ (findWatch k.watches r i).any (fun v => decide (v.condition = .spoiled)) then
        some ⟨.changed, i, 0⟩ else none) := by
  by_cases hk : k.grade = some .kiosk
  · cases hw : findWatch k.watches r i with
    | none => simp [watchCheck, hk, hw, orElseCheck]
    | some v => simp [watchCheck, hk, hw, orElseCheck]
  · simp [watchCheck, hk, orElseCheck]

theorem lentCopy_eq {w : Work} {x : Setup} (hx : w.setup = x) (t p : Nat) : w.lentCopy t p =
    fun c => decide (c < x.regions.items.count ∧ (w.item c).title = t ∧ (w.item c).state = .onLoan ∧
      (w.item c).borrower = some p) := by
  subst hx
  funext c
  simp only [Work.lentCopy, Work.copyOf, Work.count, Bool.decide_and, Bool.and_assoc]
  rfl

theorem copyAt_eq {w : Work} {x : Setup} (hx : w.setup = x) (t branch : Nat) : w.copyAt t branch =
    fun c => decide (c < x.regions.items.count ∧ (w.item c).title = t ∧ (w.item c).state = .available ∧
      (w.item c).circulates = true ∧ (w.item c).loc.getD (w.item c).home = branch) := by
  subst hx
  funext c
  simp only [Work.copyAt, Work.idleCopy, Work.copyOf, Work.count, Item.place, Bool.decide_and, Bool.and_assoc,
    Bool.decide_eq_true]
  rfl

theorem holdPlaceChecks_list {k : Ctx} {w : Work} (hx : w.setup = k.setup) : holdPlaceChecks k w =
    [if 63 < k.entry.pickup then some ⟨.badTarget, k.entry.pickup, 0⟩ else none,
      if (w.patron k.patron).bar then some ⟨.patronBarred, 0, 0⟩ else none,
      if (w.patron k.patron).expiry < k.day then some ⟨.patronExpired, (w.patron k.patron).expiry, 0⟩ else none,
      if k.setup.limits.blockThreshold ≤ (w.patron k.patron).balance then
        some ⟨.fineBlock, (w.patron k.patron).balance, k.setup.limits.blockThreshold⟩ else none,
      ((w.patron k.patron).ban.filter (fun d => decide (k.day < d))).map (fun d => ⟨.holdBan, d, 0⟩),
      if k.grade = some .kiosk ∧ findWatch k.watches .titles k.entry.target = none then
        some ⟨.notShown, k.entry.target, 0⟩ else none,
      if k.grade = some .kiosk ∧ (findWatch k.watches .titles k.entry.target).any
          (fun v => decide (v.condition = .spoiled)) then some ⟨.changed, k.entry.target, 0⟩ else none,
      (k.entry.until.filter (fun d => decide (d ≤ k.day ∨ 65535 < d))).map (fun d => ⟨.badDay, d, 0⟩),
      (firstAt (fun x => decide (x.2.patron = some k.patron)) 1 (w.queue k.entry.target)).map
        (fun x => ⟨.holdExists, x.1, 0⟩),
      ((w.title k.entry.target).copies.find? (fun c => decide (c < k.setup.regions.items.count ∧
          (w.item c).title = k.entry.target ∧ (w.item c).state = .onLoan ∧
          (w.item c).borrower = some k.patron))).map (fun c => ⟨.haveCopy, c, 0⟩),
      if k.setup.limits.holdLimit ≤ (w.patron k.patron).activeHolds then
        some ⟨.holdLimit, (w.patron k.patron).activeHolds, k.setup.limits.holdLimit⟩ else none,
      if 255 ≤ (w.title k.entry.target).queueLen then some ⟨.queueFull, (w.title k.entry.target).queueLen, 0⟩ else none,
      if w.sum.freeCount = 0 then some ⟨.poolFull, 0, 0⟩ else none,
      ((w.title k.entry.target).copies.find? (fun c => decide (c < k.setup.regions.items.count ∧
          (w.item c).title = k.entry.target ∧ (w.item c).state = .available ∧ (w.item c).circulates = true ∧
          (w.item c).loc.getD (w.item c).home = k.entry.pickup))).map
        (fun c => ⟨.copyHere, c, 0⟩)].findSome? id := by
  simp only [findSome_id_cons, List.findSome?_nil, orElseCheck_none]
  rw [holdPlaceChecks_eq, standing_eq, watchCheck_eq, holdChecks, lentCopy_eq hx, copyAt_eq hx,
    ite_any_eq_map _ _ _ (fun d hd => by rw [hd]; rfl), ite_any_eq_map _ _ _ (fun d hd => until_some hd)]
  simp only [orElseCheck_assoc]
  rfl

/-! ## The placement (R134) -/

theorem placedForm_eq (k : Ctx) (t : Nat) : placedForm k t =
    { state := if k.entry.until = none then .waiting else .suspended, pickup := k.entry.pickup
      patron := some k.patron, title := some t, placed := k.day, suspend := k.entry.until
      copy := none, deadline := none, next := none } := by
  unfold placedForm
  cases k.entry.until <;> rfl

theorem placedForm_written (k : Ctx) (t : Nat) : (placedForm k t).written = placedForm k t := by
  unfold placedForm
  cases k.entry.until <;> rfl

theorem placed_first (tt : Title) (h : Nat) :
    tt.placed h = { tt with first := some (tt.first.getD h), last := some h, queueLen := tt.queueLen + 1 } := by
  unfold Title.placed
  cases tt.first <;> rfl

section
variable (w : Work) (last : Option Nat) (h : Nat)

@[simp] theorem linkOn_sum : (w.linkOn last h).sum = w.sum := by
  cases last <;> simp [Work.linkOn]

@[simp] theorem linkOn_patron (p : Nat) : (w.linkOn last h).patron p = w.patron p := by
  cases last <;> simp [Work.linkOn]
end

theorem linkOn_hold_other {w : Work} {last : Option Nat} {h j : Nat} (hj : last ≠ some j) : (w.linkOn last h).hold j = w.hold j := by
  cases last with
  | none => rfl
  | some l => simp [Work.linkOn, show l ≠ j from fun he => hj (he ▸ rfl)]

theorem linkOn_hold_last (w : Work) (l h : Nat) :
    (w.linkOn (some l) h).hold l = ({ w.hold l with next := some h } : Hold).written := by simp [Work.linkOn]

theorem onlyRecords_linkOn {w v : Work} {ts : List Target} (hv : OnlyRecords v w ts) (h : Nat) {i last : Option Nat}
    (hl : v.ref .holds i = last) (hts : ∀ x ∈ v.targets .holds i, x ∈ ts) : OnlyRecords v (w.linkOn last h) ts := by
  cases last with
  | none => exact hv
  | some l => exact hv.setHold _ (hts _ (by rw [targets_of_ref hl]; exact List.mem_cons_self))

section
variable {w : Work} {k : Ctx} {t h : Nat}

theorem onlyRecords_placeHold : OnlyRecords w (w.placeHold k t h)
    ([.record .holds h, .record .titles t, .record .patrons k.patron, .summary] ++ w.targets .holds (w.title t).last) := by
  rw [placeHold_eq]
  have htaken := ((OnlyRecords.refl w ([.record .holds h, .record .titles t, .record .patrons k.patron, .summary] ++
    w.targets .holds (w.title t).last)).setSum (fun m =>
      { m with freeHead := (w.hold h).next, freeCount := m.freeCount - 1, placed := countSucc m.placed })
      (by simp)).setHold (i := h) (placedForm k t) (by simp)
  exact ((onlyRecords_linkOn htaken h rfl (fun x hx => List.mem_append_right _ hx)).setTitle _ (by simp)).setPatron _ (by simp)

theorem placeHold_sum : (w.placeHold k t h).sum =
    { w.sum with
      freeHead := (w.hold h).next, freeCount := w.sum.freeCount - 1, placed := (w.sum.placed + 1) % 4294967296 } := by
  rw [placeHold_eq]
  simp [Work.placeLinked, countSucc]

theorem placeHold_title : (w.placeHold k t h).title t = (w.title t).placed h := by
  rw [placeHold_eq]
  simp

theorem placeHold_patron : (w.placeHold k t h).patron k.patron =
    { w.patron k.patron with activeHolds := (w.patron k.patron).activeHolds + 1 } := by
  rw [placeHold_eq]
  simp [Work.placeLinked]

theorem ref_ne {r : Region} {i : Option Nat} {j : Nat} (h : i ≠ some j) : w.ref r i ≠ some j :=
  fun hr => h ((ref_eq_some_iff w r i j).mp hr).1

section
variable (hlast : (w.title t).last ≠ some h)
include hlast

theorem placeHold_hold : (w.placeHold k t h).hold h = placedForm k t := by
  rw [placeHold_eq, hold_setPatron, hold_setTitle, Work.placeLinked, linkOn_hold_other (ref_ne hlast), hold_setHold, if_pos rfl,
    placedForm_written]

theorem placeHold_last {l : Nat} (hl : w.ref .holds (w.title t).last = some l) :
    (w.placeHold k t h).hold l = ({ w.hold l with next := some h } : Hold).written := by
  have hne : h ≠ l := fun he => ref_ne hlast (he ▸ hl)
  rw [placeHold_eq, hold_setPatron, hold_setTitle, Work.placeLinked, hl, linkOn_hold_last, hold_setHold, if_neg hne, hold_setSum]
end
end

/-! ## The decide -/

section
variable {k : Ctx} {w : Work}

theorem decideHoldPlace_checked {o : Outcome} (h : holdPlaceChecks k w = some o) : decideHoldPlace k w = (w, o) := by
  simp only [decideHoldPlace, h]

theorem decideHoldPlace_noHold (h : holdPlaceChecks k w = none) (hf : w.ref .holds w.sum.freeHead = none) :
    decideHoldPlace k w = (w, plain .poolFull) := by
  simp only [decideHoldPlace, h, hf]

theorem decideHoldPlace_places (h : holdPlaceChecks k w = none) {j : Nat} (hf : w.ref .holds w.sum.freeHead = some j) :
    decideHoldPlace k w = (((w.placeHold k k.entry.target j).seek k.day k.entry.target).1,
      ⟨.done, (w.title k.entry.target).queueLen + 1, (w.title k.entry.target).queueLen + 1⟩) := by
  have hlen : ((w.placeHold k k.entry.target j).title k.entry.target).queueLen = (w.title k.entry.target).queueLen + 1 := by
    rw [placeHold_title]; rfl
  simp only [decideHoldPlace, h, hf, hlen]
end

/-- Settles O49: the checks as one list, the placement by its changes. -/
theorem holdPlaceIsDecided : Obligations.HoldPlaceIsDecided := by
  unfold Obligations.HoldPlaceIsDecided
  refine ⟨?_, ?_⟩
  · rintro k w p t hx rfl rfl
    exact holdPlaceChecks_list hx
  · rintro s u b x k w h rfl rfl
    have hconcludes : ∀ d, decideHoldPlace (s.ctx x u) (Work.start x u.gathered) = d →
        ∃ t : State, exec .holdPlace s = .next t ∧ Concludes s t u b d.1 d.2 .none := fun d hd => by
      subst hd
      exact ⟨_, rfl, decideEntry_concludes decideHoldPlace h⟩
    refine ⟨fun o ho => hconcludes _ (decideHoldPlace_checked ho), fun hno hf => hconcludes _ (decideHoldPlace_noHold hno hf),
      fun j hno hf hlast => ?_⟩
    obtain ⟨t, hexec, hc⟩ := hconcludes _ (decideHoldPlace_places hno hf)
    refine ⟨t, _, hexec, onlyRecords_placeHold, ?_, fun l hl => placeHold_last hlast hl, ?_, placeHold_patron, placeHold_sum, hc⟩
    · rw [placeHold_hold hlast, placedForm_eq]
    · rw [placeHold_title, placed_first]

end Sys2Proof.Machine
end


section
/-! Obligation O50: HOLD_CANCEL and HOLD_PAUSE. -/

namespace Sys2Proof.Machine

/-! ## The patron's own hold in a queue -/

theorem firstAt_eq_some_iff (p : Nat × Hold → Bool) (j h : Nat) (y : Hold) : ∀ (l : List (Nat × Hold)) (n : Nat),
    firstAt p n l = some (j, h, y) ↔
      n ≤ j ∧ l[j - n]? = some (h, y) ∧ p (h, y) = true ∧ ∀ z ∈ l.take (j - n), p z = false
  | [], n => by simp [firstAt]
  | x :: xs, n => by
    have hrest := firstAt_eq_some_iff p j h y xs (n + 1)
    rw [firstAt]
    cases hx : p x with
    | true =>
      rw [if_pos rfl]
      constructor
      · intro he
        obtain ⟨rfl, rfl⟩ : n = j ∧ x = (h, y) := by simpa using he
        simp [hx]
      · rintro ⟨hn, hget, hp, hall⟩
        rcases Nat.eq_or_lt_of_le hn with rfl | hlt
        · obtain rfl : x = (h, y) := by simpa using hget
          rfl
        · have hfirst := hall x (by
            rw [show j - n = (j - n - 1) + 1 by omega, List.take_succ_cons]
            exact List.mem_cons_self)
          rw [hx] at hfirst
          contradiction
    | false =>
      rw [if_neg (by decide), hrest]
      constructor
      · rintro ⟨hn, hget, hp, hall⟩
        have hj : j - n = (j - (n + 1)) + 1 := by omega
        refine ⟨by omega, by rw [hj, List.getElem?_cons_succ]; exact hget, hp, fun z hz => ?_⟩
        rw [hj, List.take_succ_cons] at hz
        rcases List.mem_cons.mp hz with rfl | hz
        · exact hx
        · exact hall z hz
      · rintro ⟨hn, hget, hp, hall⟩
        rcases Nat.eq_or_lt_of_le hn with rfl | hlt
        · obtain rfl : x = (h, y) := by simpa using hget
          rw [hx] at hp
          contradiction
        · have hj : j - n = (j - (n + 1)) + 1 := by omega
          rw [hj, List.getElem?_cons_succ] at hget
          exact ⟨hlt, hget, hp, fun z hz => hall z (by rw [hj, List.take_succ_cons]; exact List.mem_cons_of_mem _ hz)⟩

/-- A walk shows each hold as the unit has it. -/
theorem mem_walk (w : Work) (z : Nat × Hold) : ∀ (n : Nat) (i : Option Nat), z ∈ w.walk n i → z.2 = w.hold z.1
  | 0, i, h => by rw [walk_zero] at h; exact absurd h List.not_mem_nil
  | n + 1, none, h => by rw [walk_none] at h; exact absurd h List.not_mem_nil
  | n + 1, some j, h => by
    by_cases hj : j < w.count .holds
    · rw [walk_inRange hj] at h
      rcases List.mem_cons.mp h with rfl | h
      · rfl
      · exact mem_walk w z n _ h
    · rw [walk_outOfRange (Nat.not_lt.mp hj)] at h
      exact absurd h List.not_mem_nil

/-- The patron's own hold, as a record and as its walk shows it. -/
theorem ownHold_spec {w : Work} {t p j h : Nat} {y : Hold} (hown : w.ownHold t p = some (j, h, y)) :
    w.hold h = y ∧ y.patron = some p := by
  obtain ⟨-, hget, hp, -⟩ := (firstAt_eq_some_iff _ j h y (w.queue t) 1).mp hown
  exact ⟨(mem_walk w (h, y) _ _ (List.mem_of_getElem? hget)).symm, of_decide_eq_true hp⟩

theorem ownHold_none {w : Work} {t p : Nat} (h : ∀ z ∈ w.queue t, z.2.patron ≠ some p) : w.ownHold t p = none :=
  (firstAt_eq_none _ 1).mpr (fun z hz => decide_eq_false (h z hz))

/-! ## The touch step on the patron's own hold (R136) -/

section
variable {k : Ctx} {w : Work}

theorem touchOwn_noHold (h : w.ownHold k.entry.target k.patron = none) : w.touchOwn k = none := by
  simp only [Work.touchOwn, h]

section
variable {j h : Nat} {y : Hold} (hown : w.ownHold k.entry.target k.patron = some (j, h, y))
include hown

theorem touchOwn_stands (hl : lapsed y k.day = false) : w.touchOwn k = none := by
  simp only [Work.touchOwn, hown, hl, Bool.false_eq_true, if_false]

theorem touchOwn_passesOn (hl : lapsed y k.day = true) {i : Nat} (hi : w.ref .items y.copy = some i) :
    w.touchOwn k = some ((w.expireFrom k.day (some k.entry.target) h).offer k.day i k.entry.target).1 := by
  simp only [Work.touchOwn, hown, hl, if_true, hi]

theorem touchOwn_noCopy (hl : lapsed y k.day = true) (hi : w.ref .items y.copy = none) :
    w.touchOwn k = some (w.expireFrom k.day (some k.entry.target) h) := by
  simp only [Work.touchOwn, hown, hl, if_true, hi]
end
end

section
variable {w : Work} {t h : Nat}

theorem expireFrom_patron {p : Nat} (hp : w.ref .patrons (w.hold h).patron = some p) (T : Nat) : w.expireFrom T (some t) h =
    (((w.unlink t h).free h).setPatron p ((((w.unlink t h).free h).patron p).expired w.setup.limits T)).setSum
      (fun m => { m with expired := countSucc m.expired }) := by
  simp only [Work.expireFrom, hp]

theorem expireFrom_nobody (hp : w.ref .patrons (w.hold h).patron = none) (T : Nat) : w.expireFrom T (some t) h =
    ((w.unlink t h).free h).setSum (fun m => { m with expired := countSucc m.expired }) := by
  simp only [Work.expireFrom, hp]

/-- The expiry of the patron's own hold (R129, R136). -/
theorem expireFrom_spec {p : Nat} (hp : (w.hold h).patron = some p) (T : Nat) :
    OnlyRecords ((w.unlink t h).free h) (w.expireFrom T (some t) h) [.record .patrons p, .summary] ∧
      (w.expireFrom T (some t) h).sum = { ((w.unlink t h).free h).sum with expired := (w.sum.expired + 1) % 4294967296 } ∧
      (p < w.count .patrons → (w.expireFrom T (some t) h).patron p = (w.patron p).expired w.setup.limits T) := by
  by_cases hlt : p < w.count .patrons
  · have href : w.ref .patrons (w.hold h).patron = some p := by rw [hp]; exact ref_some_of_lt hlt
    rw [expireFrom_patron href]
    exact ⟨((OnlyRecords.refl _ _).setPatron _ (by simp)).setSum _ (by simp), by simp [countSucc], fun _ => by simp⟩
  · have href : w.ref .patrons (w.hold h).patron = none := by rw [hp]; exact ref_some_of_le (Nat.not_lt.mp hlt)
    rw [expireFrom_nobody href]
    exact ⟨(OnlyRecords.refl _ _).setSum _ (by simp), by simp [countSucc], fun h => absurd h hlt⟩
end

/-! ## The two decides -/

section
variable {k : Ctx} {w : Work}

theorem decideHoldCancel_lapsed {v : Work} (h : w.touchOwn k = some v) : decideHoldCancel k w = (v, ⟨.noHold, 0, 1⟩) := by
  simp only [decideHoldCancel, h]

theorem decideHoldPause_lapsed {v : Work} (h : w.touchOwn k = some v) : decideHoldPause k w = (v, ⟨.noHold, 0, 1⟩) := by
  simp only [decideHoldPause, h]

theorem decideHoldCancel_noHold (h : w.ownHold k.entry.target k.patron = none) : decideHoldCancel k w = (w, plain .noHold) := by
  simp only [decideHoldCancel, touchOwn_noHold h, h]

theorem decideHoldPause_noHold (h : w.ownHold k.entry.target k.patron = none) : decideHoldPause k w = (w, plain .noHold) := by
  simp only [decideHoldPause, touchOwn_noHold h, h]

section
variable {j h : Nat} {y : Hold} (hown : w.ownHold k.entry.target k.patron = some (j, h, y)) (hl : lapsed y k.day = false)
include hown hl

theorem decideHoldCancel_cancels : decideHoldCancel k w =
    ((w.cancelHold k.day k.entry.target h k.patron).1, ⟨.done, j, (w.cancelHold k.day k.entry.target h k.patron).2⟩) := by
  simp only [decideHoldCancel, touchOwn_stands hown hl, hown]

theorem decideHoldPause_inTransit (hy : y.state = .inTransit) : decideHoldPause k w = (w, ⟨.holdBusy, 1, 0⟩) := by
  simp only [decideHoldPause, touchOwn_stands hown hl, hown, hy]

theorem decideHoldPause_onShelf (hy : y.state = .onShelf) : decideHoldPause k w = (w, ⟨.holdBusy, 2, 0⟩) := by
  simp only [decideHoldPause, touchOwn_stands hown hl, hown, hy]

section
variable (hy : y.state = .waiting ∨ y.state = .suspended)
include hy

theorem decideHoldPause_badDay {o : Outcome} (hd : badPauseDay k = some o) : decideHoldPause k w = (w, o) := by
  rcases hy with hy | hy <;> simp only [decideHoldPause, touchOwn_stands hown hl, hown, hy, hd]

theorem decideHoldPause_pauses (hd : badPauseDay k = none) : decideHoldPause k w = w.pauseHold k h y := by
  rcases hy with hy | hy <;> simp only [decideHoldPause, touchOwn_stands hown hl, hown, hy, hd]
end
end
end

/-! ## A hold cancelled (R137) -/

/-- The hold out of its queue and freed, and its patron's count and the summary's changed. -/
def Work.cancelled (w : Work) (t h p : Nat) : Work :=
  (((w.unlink t h).free h).setPatron p (((w.unlink t h).free h).patron p).dropHold).setSum
    (fun m => { m with cancelled := countSucc m.cancelled })

theorem cancelled_spec (w : Work) (t h p : Nat) :
    OnlyRecords ((w.unlink t h).free h) (w.cancelled t h p) [.record .patrons p, .summary] ∧
      (w.cancelled t h p).patron p = { w.patron p with activeHolds := (w.patron p).activeHolds - 1 } ∧
      (w.cancelled t h p).sum = { ((w.unlink t h).free h).sum with cancelled := (w.sum.cancelled + 1) % 4294967296 } := by
  refine ⟨((OnlyRecords.refl _ _).setPatron _ (by simp)).setSum _ (by simp), ?_, ?_⟩
  · simp [Work.cancelled, Patron.dropHold]
  · simp [Work.cancelled, countSucc]

section
variable {w : Work} {T t h p : Nat}

theorem cancelHold_offers {i : Nat} (hs : (w.hold h).state = .inTransit ∨ (w.hold h).state = .onShelf)
    (hi : w.ref .items (w.hold h).copy = some i) : w.cancelHold T t h p = (w.cancelled t h p).offer T i t := by
  rcases hs with hs | hs <;> simp only [Work.cancelHold, hs, hi] <;> rfl

theorem cancelHold_noCopy
    (hs : (w.hold h).state = .waiting ∨ (w.hold h).state = .suspended ∨ w.ref .items (w.hold h).copy = none) :
    w.cancelHold T t h p = (w.cancelled t h p, 0) := by
  unfold Work.cancelHold
  dsimp only
  split
  next i hs' hi => simp [hs', hi] at hs
  next i hs' hi => simp [hs', hi] at hs
  next => rfl
end

/-! ## A hold paused or resumed (R138, R139) -/

section
variable {k : Ctx}

theorem badPauseDay_absent (h : k.entry.until = none) : badPauseDay k = some ⟨.badDay, 0, 0⟩ := by
  simp only [badPauseDay, h]

theorem badPauseDay_bad {d : Nat} (h : k.entry.until = some d) (hd : (1 ≤ d ∧ d ≤ k.day) ∨ 65535 < d) :
    badPauseDay k = some ⟨.badDay, d, 0⟩ := by
  simp only [badPauseDay, h]
  exact if_pos hd

theorem badPauseDay_good {d : Nat} (h : k.entry.until = some d) (hd : ¬((1 ≤ d ∧ d ≤ k.day) ∨ 65535 < d)) :
    badPauseDay k = none := by
  simp only [badPauseDay, h]
  exact if_neg hd

section
variable {w : Work} {h : Nat} {y : Hold}

theorem pauseHold_stands (hd : k.entry.until = some 0) (hy : y.state = .waiting) : w.pauseHold k h y = (w, ⟨.done, 0, 0⟩) := by
  simp only [Work.pauseHold, if_pos (until_some hd), hy, reduceCtorEq, if_false]
  rfl

theorem pauseHold_resumes (hd : k.entry.until = some 0) (hy : y.state = .suspended) : w.pauseHold k h y =
    (((w.setHold h y.resumed).seek k.day k.entry.target).1,
      ⟨.done, 0, ((w.setHold h y.resumed).seek k.day k.entry.target).2⟩) := by
  simp only [Work.pauseHold, if_pos (until_some hd), if_pos hy]

theorem pauseHold_suspends {d : Nat} (hd : k.entry.until = some d) (hpos : 0 < d) : w.pauseHold k h y =
    (w.setHold h { y with state := .suspended, suspend := some d }, ⟨.done, d, 0⟩) := by
  have hday := until_some hd
  subst hday
  simp only [Work.pauseHold, if_neg (Nat.ne_of_gt hpos)]
end
end

/-- A hold of a unit's work changed in place. -/
theorem setHold_spec (w : Work) (h : Nat) (x : Hold) : OnlyRecords w (w.setHold h x) [.record .holds h] ∧
    (w.setHold h x).sum = w.sum ∧ (w.setHold h x).hold h = x.written :=
  ⟨(OnlyRecords.refl w _).setHold _ List.mem_cons_self, setHold_sum w h x, by simp⟩

theorem exec_holdUnit {s : State} {u : WorkUnit} {b : CurrentBatch} {x : Setup} {c : Instr} {e : EntryKind}
    {f : Ctx → Work → Work × Outcome} (hc : exec c s = .next (s.decideEntry e f)) (h : AtDecide s (.entry e) u b x)
    {d : Work × Outcome} (hd : f (s.ctx x u) (Work.start x u.gathered) = d) :
    ∃ t : State, exec c s = .next t ∧ Concludes s t u b d.1 d.2 .none := by
  subst hd
  exact ⟨_, hc, decideEntry_concludes f h⟩

/-- What both kinds make of no hold and of a lapsed one. -/
theorem ownHold_decided {s : State} {u : WorkUnit} {b : CurrentBatch} {x : Setup} {c : Instr} {e : EntryKind}
    (hce : (c, e) ∈ [(Instr.holdCancel, EntryKind.holdCancel), (.holdPause, .holdPause)]) (h : AtDecide s (.entry e) u b x) :
    ((Work.start x u.gathered).ownHold (s.ctx x u).entry.target (s.ctx x u).patron = none →
      ∃ t : State, exec c s = .next t ∧ Concludes s t u b (Work.start x u.gathered) ⟨.noHold, 0, 0⟩ .none) ∧
    (∀ v, (Work.start x u.gathered).touchOwn (s.ctx x u) = some v →
      ∃ t : State, exec c s = .next t ∧ Concludes s t u b v ⟨.noHold, 0, 1⟩ .none) := by
  simp only [List.mem_cons, Prod.mk.injEq, List.not_mem_nil, or_false] at hce
  rcases hce with ⟨rfl, rfl⟩ | ⟨rfl, rfl⟩
  · exact ⟨fun hno => exec_holdUnit rfl h (decideHoldCancel_noHold hno), fun v hv => exec_holdUnit rfl h (decideHoldCancel_lapsed hv)⟩
  · exact ⟨fun hno => exec_holdUnit rfl h (decideHoldPause_noHold hno), fun v hv => exec_holdUnit rfl h (decideHoldPause_lapsed hv)⟩

/-- Settles O50: the hold by its walk, each end by its equation. -/
theorem holdCancelAndPauseAreDecided : Obligations.HoldCancelAndPauseAreDecided := by
  unfold Obligations.HoldCancelAndPauseAreDecided
  refine ⟨fun p l j h y => firstAt_eq_some_iff p j h y l 1, ?_, ?_, ?_⟩
  · rintro s u b x k w c e hce h rfl rfl
    obtain ⟨hno, hlapsed⟩ := ownHold_decided hce h
    refine ⟨fun hnone => hno (ownHold_none hnone), ?_⟩
    rintro j i y v hown hl rfl
    obtain ⟨hhold, hpatron⟩ := ownHold_spec hown
    obtain ⟨hrecords, hsum, hholder⟩ := expireFrom_spec (t := (s.ctx x u).entry.target) (by rw [hhold]; exact hpatron) (s.ctx x u).day
    refine ⟨fun c hc => hlapsed _ (touchOwn_passesOn hown hl hc), fun hc => hlapsed _ (touchOwn_noCopy hown hl hc), hrecords,
      hsum, hholder, fun ht c => ?_⟩
    rw [expire_eq_offer ht, Work.expireHold, ht]
  · rintro s u b x k w v j i y h rfl rfl hown hl rfl
    obtain ⟨hhold, -⟩ := ownHold_spec hown
    obtain ⟨t, hexec, hc⟩ := exec_holdUnit (c := .holdCancel) rfl h (decideHoldCancel_cancels hown hl)
    obtain ⟨hrecords, hpatron, hsum⟩ := cancelled_spec (Work.start x u.gathered) (s.ctx x u).entry.target i (s.ctx x u).patron
    refine ⟨t, _, _, hexec, hrecords, hpatron, hsum, fun c hs hcopy => ?_, fun hs => ?_, hc⟩
    · exact cancelHold_offers (by rw [hhold]; exact hs) (by rw [hhold]; exact hcopy)
    · exact cancelHold_noCopy (by rw [hhold]; exact hs)
  · rintro s u b x k w j i y h rfl rfl hown hl
    obtain ⟨hhold, -⟩ := ownHold_spec hown
    have hconcludes : ∀ {d}, decideHoldPause (s.ctx x u) (Work.start x u.gathered) = d →
        ∃ t : State, exec .holdPause s = .next t ∧ Concludes s t u b d.1 d.2 .none := exec_holdUnit rfl h
    refine ⟨fun hy => hconcludes (decideHoldPause_inTransit hown hl hy), fun hy => hconcludes (decideHoldPause_onShelf hown hl hy),
      fun hy => ⟨fun hd => hconcludes (decideHoldPause_badDay hown hl hy (badPauseDay_absent hd)), fun d hd hbad =>
        hconcludes (decideHoldPause_badDay hown hl hy (badPauseDay_bad hd hbad)), fun hd hw => ?_, fun hd hsus => ?_,
        fun d hd hlt hle => ?_⟩⟩
    · exact hconcludes ((decideHoldPause_pauses hown hl hy (badPauseDay_good hd (by omega))).trans (pauseHold_stands hd hw))
    · obtain ⟨t, hexec, hc⟩ := hconcludes
        ((decideHoldPause_pauses hown hl hy (badPauseDay_good hd (by omega))).trans (pauseHold_resumes hd hsus))
      obtain ⟨hrecords, hsum, hres⟩ := setHold_spec (Work.start x u.gathered) i y.resumed
      refine ⟨t, _, hexec, hrecords, hsum, ?_, hc⟩
      rw [hres, hhold]
      rfl
    · obtain ⟨t, hexec, hc⟩ := hconcludes
        ((decideHoldPause_pauses hown hl hy (badPauseDay_good hd (by omega))).trans (pauseHold_suspends hd (by omega)))
      obtain ⟨hrecords, hsum, hsus⟩ := setHold_spec (Work.start x u.gathered) i { y with state := .suspended, suspend := some d }
      refine ⟨t, _, hexec, hrecords, hsum, ?_, hc⟩
      rw [hsus, hhold]
      rfl

end Sys2Proof.Machine
end


section
/-! Obligation O51: PAY, WAIVE, ARRIVE and PATRON_BAR. -/

namespace Sys2Proof.Machine

/-! ## Money (R148, R149) -/

theorem badAmount_bad {k : Ctx} (h : k.entry.amount = 0 ∨ 9999999 < k.entry.amount) :
    badAmount k = some ⟨.badAmount, k.entry.amount, 0⟩ := if_pos h

theorem badAmount_good {k : Ctx} (h1 : 1 ≤ k.entry.amount) (h2 : k.entry.amount ≤ 9999999) : badAmount k = none :=
  if_neg (by have : Config.balanceCeiling = 9999999 := rfl; omega)

theorem overWaive_over {k : Ctx} (hg : k.grade = some .desk) (h : k.setup.limits.waiveLimit < k.entry.amount) :
    overWaive k = some ⟨.overWaiveLimit, k.entry.amount, k.setup.limits.waiveLimit⟩ := if_pos ⟨hg, h⟩

theorem overWaive_within {k : Ctx} (h : k.grade ≠ some .desk ∨ k.entry.amount ≤ k.setup.limits.waiveLimit) : overWaive k = none :=
  if_neg (fun hn => h.elim (fun hg => hg hn.1) (fun hl => Nat.not_lt.mpr hl hn.2))

theorem overBalance_over {k : Ctx} {w : Work} (h : (w.patron k.patron).balance < k.entry.amount) :
    overBalance k w = some ⟨.overBalance, (w.patron k.patron).balance, k.entry.amount⟩ := if_pos h

theorem overBalance_within {k : Ctx} {w : Work} (h : k.entry.amount ≤ (w.patron k.patron).balance) : overBalance k w = none :=
  if_neg (Nat.not_lt.mpr h)

/-- The decide of PAY or of WAIVE. -/
def moneyDecide (e : EntryKind) : Ctx → Work → Work × Outcome := if e = .pay then decidePay else decideWaive

/-- The checks of PAY or of WAIVE, in their order. -/
def moneyChecks (e : EntryKind) (k : Ctx) (w : Work) : Option Outcome :=
  orElseCheck (badAmount k) (orElseCheck (if e = .pay then none else overWaive k) (overBalance k w))

/-- The summary with the money taken. -/
def moneyTaken (e : EntryKind) (a : Nat) (m : Summary) : Summary :=
  if e = .pay then { m with paid := (m.paid + a) % 281474976710656 } else { m with waived := (m.waived + a) % 281474976710656 }

section
variable {e : EntryKind} {k : Ctx} {w : Work} (he : e = .pay ∨ e = .waive)
include he

theorem moneyDecide_refused {o : Outcome} (h : moneyChecks e k w = some o) : moneyDecide e k w = (w, o) := by
  rcases he with rfl | rfl
  · have h' : orElseCheck (badAmount k) (overBalance k w) = some o := h
    show decidePay k w = _
    simp only [decidePay, h']
  · have h' : orElseCheck (badAmount k) (orElseCheck (overWaive k) (overBalance k w)) = some o := h
    show decideWaive k w = _
    simp only [decideWaive, h']

theorem moneyDecide_takes (h : moneyChecks e k w = none) : moneyDecide e k w =
    ((w.lowerBalance k).setSum (moneyTaken e k.entry.amount),
      ⟨.done, (w.patron k.patron).balance - k.entry.amount, if e = .pay then k.entry.amount else k.entry.reason⟩) := by
  rcases he with rfl | rfl
  · have h' : orElseCheck (badAmount k) (overBalance k w) = none := h
    show decidePay k w = _
    simp only [decidePay, h']
    rfl
  · have h' : orElseCheck (badAmount k) (orElseCheck (overWaive k) (overBalance k w)) = none := h
    show decideWaive k w = _
    simp only [decideWaive, h']
    rfl
end

theorem moneyChecks_waived {e : EntryKind} {k : Ctx}
    (h : e = .pay ∨ k.grade ≠ some .desk ∨ k.entry.amount ≤ k.setup.limits.waiveLimit) :
    (if e = .pay then none else overWaive k) = none := by
  rcases h with he | h
  · exact if_pos he
  · rw [overWaive_within h, ite_self]

/-- The balance lowered, and the money counted. -/
theorem lowerBalance_spec (w : Work) (k : Ctx) (f : Summary → Summary) :
    OnlyRecords w ((w.lowerBalance k).setSum f) [.record .patrons k.patron, .summary] ∧
      ((w.lowerBalance k).setSum f).patron k.patron =
        { w.patron k.patron with balance := (w.patron k.patron).balance - k.entry.amount } ∧
      ((w.lowerBalance k).setSum f).sum = f w.sum := by
  unfold Work.lowerBalance
  exact ⟨((OnlyRecords.refl w _).setPatron _ (by simp)).setSum _ (by simp), by simp, by simp⟩

theorem exec_money {s : State} {u : WorkUnit} {b : CurrentBatch} {x : Setup} {c : Instr} {e : EntryKind}
    (hce : (c, e) ∈ [(Instr.pay, EntryKind.pay), (.waive, .waive)]) (h : AtDecide s (.entry e) u b x) :
    (e = .pay ∨ e = .waive) ∧ ∀ {d}, moneyDecide e (s.ctx x u) (Work.start x u.gathered) = d →
      ∃ t : State, exec c s = .next t ∧ Concludes s t u b d.1 d.2 .none := by
  simp only [List.mem_cons, Prod.mk.injEq, List.not_mem_nil, or_false] at hce
  rcases hce with ⟨rfl, rfl⟩ | ⟨rfl, rfl⟩
  · exact ⟨.inl rfl, exec_holdUnit rfl h⟩
  · exact ⟨.inr rfl, exec_holdUnit rfl h⟩

/-! ## ARRIVE (R140) -/

section
variable {w : Work} {i : Nat}

theorem transitHold_some {h : Nat} (hs : (w.item i).state = .setAside) (href : w.ref .holds (w.item i).aside = some h) :
    w.transitHold i = if (w.hold h).state = .inTransit then some h else none := by
  simp only [Work.transitHold, hs, href]

theorem transitHold_none (h : (w.item i).state ≠ .setAside ∨ w.ref .holds (w.item i).aside = none ∨
    ∃ h, (w.item i).aside = some h ∧ (w.hold h).state ≠ .inTransit) : w.transitHold i = none := by
  unfold Work.transitHold
  split
  next j hs href =>
    rcases h with hn | hn | ⟨h, ha, hstate⟩
    · exact absurd hs hn
    · rw [hn] at href
      contradiction
    · obtain rfl : h = j := Option.some.inj (ha.symm.trans ((ref_eq_some_iff _ _ _ _).mp href).1)
      exact if_neg hstate
  next => rfl
end

/-- The hold and the item as an arrival leaves them. -/
def Work.arrived (w : Work) (h i branch deadline : Nat) : Work :=
  (w.setHold h { w.hold h with state := .onShelf, deadline := some deadline }).setItem i { w.item i with loc := some branch }

theorem arrived_spec {w : Work} {i : Nat} (hs : (w.item i).state = .setAside) (h branch deadline : Nat) :
    OnlyRecords w (w.arrived h i branch deadline) [.record .holds h, .record .items i] ∧
      (w.arrived h i branch deadline).sum = w.sum ∧
      (w.arrived h i branch deadline).hold h =
        { w.hold h with state := .onShelf, deadline := some deadline, suspend := none } ∧
      (w.arrived h i branch deadline).item i =
        { w.item i with loc := some branch, borrower := none, due := none, charged := none } := by
  have hitem : ({ w.item i with loc := some branch } : Item).written =
    { w.item i with loc := some branch, borrower := none, due := none, charged := none } := item_written_setAside hs
  have hhold : ({ w.hold h with state := .onShelf, deadline := some deadline } : Hold).written =
    { w.hold h with state := .onShelf, deadline := some deadline, suspend := none } := rfl
  unfold Work.arrived
  refine ⟨((OnlyRecords.refl w _).setHold _ (by simp)).setItem _ (by simp), by simp, ?_, ?_⟩
  · rw [hold_setItem, hold_setHold, if_pos rfl, hhold]
  · rw [item_setItem, if_pos rfl, hitem]

section
variable {k : Ctx} {w0 w : Work} (hw : w = w0.expireOnTouch k.day k.entry.target)
include hw

theorem decideArrive_notInTransit (h : w.transitHold k.entry.target = none) : decideArrive k w0 = (w, plain .notInTransit) := by
  subst hw
  simp only [decideArrive, h]

section
variable {h : Nat} (ht : w.transitHold k.entry.target = some h)
include ht

theorem decideArrive_wrongBranch (hp : (w.hold h).pickup ≠ k.branch) :
    decideArrive k w0 = (w, ⟨.wrongBranch, (w.hold h).pickup, 0⟩) := by
  subst hw
  simp only [decideArrive, ht, if_neg hp]

theorem decideArrive_arrives (hp : (w.hold h).pickup = k.branch) : decideArrive k w0 =
    (w.arrived h k.entry.target k.branch (min (k.day + k.setup.limits.shelfDays) 65535),
      ⟨.done, min (k.day + k.setup.limits.shelfDays) 65535, (w.hold h).patron.getD 0⟩) := by
  subst hw
  simp only [decideArrive, ht, if_pos hp, Work.arrived]
  rfl
end
end

/-! ## PATRON_BAR (R154) -/

/-- A patron barred, or unbarred with its ban and no-shows cleared. -/
def Patron.barredAs (p : Patron) (bar : Bool) : Patron :=
  if bar then { p with bar := true } else { p with bar := false, ban := none, noShow := 0 }

theorem decideBar_eq (k : Ctx) (w : Work) : decideBar k w =
    (w.setPatron k.entry.target ((w.patron k.entry.target).barredAs k.entry.bar),
      ⟨.done, if (w.patron k.entry.target).bar then 1 else 0, (w.patron k.entry.target).noShow⟩) := rfl

theorem setPatron_spec (w : Work) (i : Nat) (p : Patron) : OnlyRecords w (w.setPatron i p) [.record .patrons i] ∧
    (w.setPatron i p).sum = w.sum ∧ (w.setPatron i p).patron i = p :=
  ⟨(OnlyRecords.refl w _).setPatron _ List.mem_cons_self, setPatron_sum w i p, by simp⟩

/-- Settles O51: the checks in their order, then what each kind changes. -/
theorem payWaiveArriveBarAreDecided : Obligations.PayWaiveArriveBarAreDecided := by
  unfold Obligations.PayWaiveArriveBarAreDecided
  refine ⟨?_, ?_, ?_⟩
  · rintro s u b x k w c e hce h rfl rfl
    obtain ⟨he, hconcludes⟩ := exec_money hce h
    refine ⟨fun hbad => ?_, fun h1 h2 => ⟨fun hwaive hg hl => ?_, fun hpass => ⟨fun hover => ?_, fun hle => ?_⟩⟩⟩
    · exact hconcludes (moneyDecide_refused he (orElseCheck_of_some (badAmount_bad hbad) _))
    · refine hconcludes (moneyDecide_refused he ((orElseCheck_of_none (badAmount_good h1 h2) _).trans (orElseCheck_of_some ?_ _)))
      rw [hwaive, if_neg (by decide)]
      exact overWaive_over hg hl
    · exact hconcludes (moneyDecide_refused he ((orElseCheck_of_none (badAmount_good h1 h2) _).trans
        ((orElseCheck_of_none (moneyChecks_waived hpass) _).trans (overBalance_over hover))))
    · obtain ⟨t, hexec, hc⟩ := hconcludes (moneyDecide_takes he ((orElseCheck_of_none (badAmount_good h1 h2) _).trans
        ((orElseCheck_of_none (moneyChecks_waived hpass) _).trans (overBalance_within hle))))
      obtain ⟨hrecords, hpatron, hsum⟩ := lowerBalance_spec (Work.start x u.gathered) (s.ctx x u)
        (moneyTaken e (s.ctx x u).entry.amount)
      exact ⟨t, _, hexec, hrecords, hpatron, hsum, hc⟩
  · rintro s u b x k w c h rfl hw rfl
    have hconcludes : ∀ {d}, decideArrive (s.ctx x u) (Work.start x u.gathered) = d →
        ∃ t : State, exec .arrive s = .next t ∧ Concludes s t u b d.1 d.2 .none := exec_holdUnit rfl h
    refine ⟨fun hno => hconcludes (decideArrive_notInTransit hw (transitHold_none hno)), fun j hs href hstate => ?_⟩
    have ht : w.transitHold (s.ctx x u).entry.target = some j := (transitHold_some hs href).trans (if_pos hstate)
    refine ⟨fun hp => hconcludes (decideArrive_wrongBranch hw ht hp), fun hp => ?_⟩
    obtain ⟨t, hexec, hc⟩ := hconcludes (decideArrive_arrives hw ht hp)
    obtain ⟨hrecords, hsum, hhold, hitem⟩ := arrived_spec hs j (s.ctx x u).branch
      (min ((s.ctx x u).day + (s.ctx x u).setup.limits.shelfDays) 65535)
    exact ⟨t, _, _, hexec, rfl, hrecords, hsum, hhold, hitem, hc⟩
  · rintro s u b x k w p h rfl rfl rfl
    obtain ⟨t, hexec, hc⟩ := exec_holdUnit (c := .patronBar) rfl h (decideBar_eq (s.ctx x u) (Work.start x u.gathered))
    obtain ⟨hrecords, hsum, hpatron⟩ := setPatron_spec (Work.start x u.gathered) (s.ctx x u).entry.target
      (((Work.start x u.gathered).patron (s.ctx x u).entry.target).barredAs (s.ctx x u).entry.bar)
    exact ⟨t, _, hexec, hrecords, hsum, hpatron, hc⟩

end Sys2Proof.Machine
end


section
/-! Obligation O52: the other batch units. -/

namespace Sys2Proof.Machine

/-! ## Desk images and the batch after a unit (R86, R90) -/

section
variable (s : State) (b : CurrentBatch) (o : OutcomeRec)

theorem deskImage_record {f : Bool} (h : f = false ∨ b.next + 1 ≠ (s.stream b.stream).closedCount) :
    s.deskImage b o f = ⟨b.stream, none, b.next, [o]⟩ := by
  unfold State.deskImage
  refine if_neg (fun hn => ?_)
  rw [Bool.and_eq_true, decide_eq_true_eq] at hn
  rcases h with h | h
  · rw [h] at hn
    exact absurd hn.1 (by decide)
  · exact h hn.2

theorem deskImage_header (h : b.next + 1 = (s.stream b.stream).closedCount) : s.deskImage b o true =
    ⟨b.stream, some ⟨.fresh, .complete, (s.stream b.stream).closedCount, (s.stream b.stream).guardHits⟩, 0,
      putOutcome b.outcomes o⟩ := by
  unfold State.deskImage
  exact if_pos (by rw [decide_eq_true h]; rfl)
end

theorem after_finished (b : CurrentBatch) (o : OutcomeRec) : b.after o .none =
    { b with
      next := b.next + 1, prevDone := decide (o.code = .done), sub := .none
      outcomes := putOutcome b.outcomes o } := if_pos rfl

theorem after_standing (b : CurrentBatch) (o : OutcomeRec) {sub : SubUnits} (h : sub ≠ .none) :
    b.after o sub = { b with sub := sub, outcomes := putOutcome b.outcomes o } := if_neg h

/-! ## Outcome records kept on chip (R90) -/

/-- The entries of a list of outcome records. -/
def entriesOf (os : List OutcomeRec) : List Nat := os.map (fun x => x.entry)

/-- The record of an entry. -/
def outcomeOf (os : List OutcomeRec) (i : Nat) : Option OutcomeRec := os.find? (fun o => decide (o.entry = i))

section
variable {os : List OutcomeRec} {o : OutcomeRec}

theorem any_entry_iff : (os.any (fun x => decide (x.entry = o.entry)) = true) ↔ o.entry ∈ entriesOf os := by
  simp [entriesOf, List.any_eq_true, List.mem_map]

theorem putOutcome_held (h : o.entry ∈ entriesOf os) :
    putOutcome os o = os.map (fun x => if x.entry = o.entry then o else x) := if_pos (any_entry_iff.mpr h)

theorem putOutcome_new (h : o.entry ∉ entriesOf os) : putOutcome os o = os ++ [o] := if_neg (fun hn => h (any_entry_iff.mp hn))

theorem entriesOf_putOutcome_held (h : o.entry ∈ entriesOf os) : entriesOf (putOutcome os o) = entriesOf os := by
  rw [putOutcome_held h, entriesOf, List.map_map]
  refine List.map_congr_left (fun x _ => ?_)
  by_cases hx : x.entry = o.entry <;> simp [hx]

theorem entriesOf_putOutcome_new (h : o.entry ∉ entriesOf os) : entriesOf (putOutcome os o) = entriesOf os ++ [o.entry] := by
  rw [putOutcome_new h, entriesOf, List.map_append]
  rfl

theorem outcomeOf_none_iff {i : Nat} : outcomeOf os i = none ↔ i ∉ entriesOf os := by
  simp [outcomeOf, entriesOf, List.find?_eq_none]

theorem outcomeOf_putOutcome (os : List OutcomeRec) (o : OutcomeRec) (i : Nat) :
    outcomeOf (putOutcome os o) i = if o.entry = i then some o else outcomeOf os i := by
  by_cases h : o.entry ∈ entriesOf os
  · have hpred : (fun x : OutcomeRec => decide (x.entry = i)) ∘ (fun x => if x.entry = o.entry then o else x) =
        fun x => decide (x.entry = i) := by
      funext x
      by_cases hx : x.entry = o.entry <;> simp [hx]
    rw [putOutcome_held h, outcomeOf, List.find?_map, hpred]
    cases hfind : os.find? (fun x => decide (x.entry = i)) with
    | none =>
      have hi : o.entry ≠ i := fun he => outcomeOf_none_iff.mp hfind (he ▸ h)
      rw [if_neg hi, outcomeOf, hfind]
      rfl
    | some y =>
      have hy : y.entry = i := by simpa using List.find?_some hfind
      rw [Option.map_some, hy, outcomeOf, hfind]
      by_cases hi : o.entry = i
      · rw [if_pos hi.symm, if_pos hi]
      · rw [if_neg (fun he => hi he.symm), if_neg hi]
  · rw [putOutcome_new h, outcomeOf, List.find?_append]
    by_cases hi : o.entry = i
    · subst hi
      have hnone : os.find? (fun x => decide (x.entry = o.entry)) = none := outcomeOf_none_iff.mpr h
      rw [hnone, if_pos rfl]
      simp
    · rw [if_neg hi]
      simp [hi, outcomeOf]
end

/-- The records of a list of entries put, one after the other. -/
def putAll (mk : Nat → OutcomeRec) (l : List Nat) (os : List OutcomeRec) : List OutcomeRec :=
  l.foldl (fun os i => putOutcome os (mk i)) os

section
variable {mk : Nat → OutcomeRec} (hmk : ∀ i, (mk i).entry = i)
include hmk

theorem outcomeOf_putAll (i : Nat) : ∀ (l : List Nat) (os : List OutcomeRec),
    outcomeOf (putAll mk l os) i = if i ∈ l then some (mk i) else outcomeOf os i
  | [], os => rfl
  | j :: l, os => by
    show outcomeOf (putAll mk l (putOutcome os (mk j))) i = _
    rw [outcomeOf_putAll i l, outcomeOf_putOutcome, hmk]
    by_cases hl : i ∈ l
    · simp [hl]
    · by_cases hj : j = i
      · subst hj
        simp [hl]
      · simp [hl, hj, Ne.symm hj]

theorem entriesOf_putAll_range' : ∀ (n k : Nat) (os : List OutcomeRec), entriesOf os = List.range k →
    entriesOf (putAll mk (List.range' k n) os) = List.range (k + n)
  | 0, k, os, h => h
  | n + 1, k, os, h => by
    have hnew : (mk k).entry ∉ entriesOf os := by rw [hmk, h]; simp
    show entriesOf (putAll mk (List.range' (k + 1) n) (putOutcome os (mk k))) = _
    rw [entriesOf_putAll_range' n (k + 1) _ (by rw [entriesOf_putOutcome_new hnew, h, hmk, List.range_succ])]
    congr 1
    omega

/-- A list that holds the first entry already. -/
theorem entriesOf_putAll_held {n k : Nat} {os : List OutcomeRec} (h : entriesOf os = List.range (k + 1)) :
    entriesOf (putAll mk (List.range' k (n + 1)) os) = List.range (k + (n + 1)) := by
  have hheld : (mk k).entry ∈ entriesOf os := by rw [hmk, h]; simp
  show entriesOf (putAll mk (List.range' (k + 1) n) (putOutcome os (mk k))) = _
  rw [entriesOf_putAll_range' hmk n (k + 1) _ (by rw [entriesOf_putOutcome_held hheld, h])]
  congr 1
  omega
end

theorem range_filter_from {k n : Nat} (h : k ≤ n) : (List.range n).filter (fun i => decide (k ≤ i)) = List.range' k (n - k) := by
  have hsplit : List.range n = List.range k ++ List.range' k (n - k) := by
    rw [List.range_eq_range', List.range_eq_range']
    have happend := List.range'_append (s := 0) (m := k) (n := n - k) (step := 1)
    rw [Nat.zero_add, Nat.one_mul, Nat.add_sub_cancel' h] at happend
    exact happend.symm
  rw [hsplit, List.filter_append, List.filter_eq_nil_iff.mpr (fun i hi => by simpa using hi),
    List.filter_eq_self.mpr (fun i hi => by simp at hi; simp; omega), List.nil_append]

/-! ## The end unit (R94, R95) -/

theorem endRecords_eq (s : State) (b : CurrentBatch) : s.endRecords b =
    putAll (fun i => s.outcomeRec b.stream i (endOutcome b i))
      ((List.range (s.stream b.stream).closedCount).filter (fun i => decide (b.next ≤ i))) b.outcomes := rfl

theorem endRecords_entries {s : State} {b : CurrentBatch} (h : b.next < (s.stream b.stream).closedCount)
    (ho : entriesOf b.outcomes = List.range b.next ∨ entriesOf b.outcomes = List.range (b.next + 1)) :
    entriesOf (s.endRecords b) = List.range (s.stream b.stream).closedCount := by
  obtain ⟨n, hn⟩ : ∃ n, (s.stream b.stream).closedCount = b.next + (n + 1) :=
    ⟨(s.stream b.stream).closedCount - b.next - 1, by omega⟩
  rw [endRecords_eq, range_filter_from (Nat.le_of_lt h), hn, Nat.add_sub_cancel_left]
  rcases ho with ho | ho
  · exact entriesOf_putAll_range' (fun _ => rfl) (n + 1) b.next _ ho
  · exact entriesOf_putAll_held (fun _ => rfl) ho

theorem endRecords_finished (s : State) {b : CurrentBatch} {i : Nat} (h : i < b.next) :
    outcomeOf (s.endRecords b) i = outcomeOf b.outcomes i := by
  rw [endRecords_eq, outcomeOf_putAll (fun _ => rfl), if_neg (by simp; omega)]

theorem endRecords_ended {s : State} {b : CurrentBatch} {i : Nat} (h : b.next ≤ i) (hc : i < (s.stream b.stream).closedCount) :
    outcomeOf (s.endRecords b) i = some (s.outcomeRec b.stream i (endOutcome b i)) := by
  rw [endRecords_eq, outcomeOf_putAll (fun _ => rfl), if_pos (by simp [h, hc])]

section
variable {b : CurrentBatch} {i : Nat}

theorem endOutcome_cancelled (h : b.cut = none) : endOutcome b i = ⟨.cancelled, 0, 0⟩ := by
  simp only [endOutcome, h, plain]

theorem endOutcome_cut (h : b.cut ≠ none) : endOutcome b i = cutOutcome b i := by
  obtain ⟨r, hr⟩ := Option.ne_none_iff_exists'.mp h
  simp only [endOutcome, hr]

theorem cutOutcome_plain (h : b.next < i ∨ b.sub = .none) : cutOutcome b i = ⟨.cut, 0, 0⟩ := by
  unfold cutOutcome
  rcases h with h | h
  · exact if_neg (Nat.ne_of_gt h)
  · rw [h]
    exact ite_self _

theorem cutOutcome_claim (h : i = b.next) {p : Nat} {is : List Nat} (hb : b.sub = .claim p is) : cutOutcome b i = ⟨.cut, p, 0⟩ := by
  simp only [cutOutcome, if_pos h, hb]

theorem cutOutcome_renew (h : i = b.next) {r : RenewProgress} (hb : b.sub = .renew r) : cutOutcome b i = ⟨.cut, r.renewed, 0⟩ := by
  simp only [cutOutcome, if_pos h, hb]
end

/-- The header of an end unit: COMPLETE after a cancel, CUT after a cut (R94, R95). -/
theorem endHeader_spec (s : State) (b : CurrentBatch) : (s.endHeader b).state = .fresh ∧
    (s.endHeader b).count = (s.stream b.stream).closedCount ∧
    (s.endHeader b).result = (if b.cut = none then .complete else .cut) ∧
    (s.endHeader b).guardHits = (if b.cut = some .warmReset then 0 else (s.stream b.stream).guardHits) := by
  unfold State.endHeader
  rcases b.cut with _ | _ | _ <;> exact ⟨rfl, rfl, rfl, rfl⟩

section
variable {s : State} {u : WorkUnit} {b : CurrentBatch} {x : Setup}

theorem exec_endUnit (h : AtDecide s .endBatch u b x) : exec .endUnit s =
    .next (s.startNote u (Work.start x []) (some ⟨b.stream, some (s.endHeader b), 0, s.endRecords b⟩)) := by
  show Host.Outcome.next s.decideEnd = _
  simp only [State.decideEnd, deciding_of_atDecide h]

theorem startNote_batch (w : Work) (d : Option DeskImage) : (s.startNote u w d).engine.batch = s.engine.batch := by
  have hnext := (writeNote_raises s { u with changes := w.changes d, spoil := w.spoilList }).1
  show (s.writeNote _).engine.batch = _
  rw [hnext]

theorem exec_skipUnit (h : AtDecide s .skip u b x) :
    exec .skipUnit s = .next (s.conclude u b (Work.start x []) (plain .skipped) .none) := by
  show Host.Outcome.next s.decideSkip = _
  simp only [State.decideSkip, deciding_of_atDecide h]

theorem exec_faultUnit (h : AtDecide s .fault u b x) {tg : Target} (ht : u.failed = some tg) :
    exec .faultUnit s = .next (s.conclude u b (Work.start x []) ⟨.storeFault, tg.index, tg.code⟩ .none) := by
  show Host.Outcome.next s.decideFault = _
  simp only [State.decideFault, deciding_of_atDecide h, ht]

theorem exec_freshenSubUnit (h : AtDecide s .freshenSub u b x) {p i : Nat} {rest : List Nat} (hb : b.sub = .claim p (i :: rest)) :
    exec .freshenSubUnit s = .next (s.conclude u b ((Work.start x u.gathered).freshen u.day i)
      ⟨.done, p, (((Work.start x u.gathered).freshen u.day i).patron p).balance⟩ (claimSub p rest)) := by
  show Host.Outcome.next s.decideFreshenSub = _
  simp only [State.decideFreshenSub, deciding_of_atDecide h, hb, claimSub, List.isEmpty_iff]
end

/-- Settles O52: the images and lists by their cases, each unit by its equation. -/
theorem otherBatchUnitsAreDecided : Obligations.OtherBatchUnitsAreDecided := by
  unfold Obligations.OtherBatchUnitsAreDecided
  refine ⟨fun s b o => ⟨fun f => deskImage_record s b o, deskImage_header s b o⟩,
    fun b o sub => ⟨after_finished b o, after_standing b o⟩, fun os o => ⟨putOutcome_held, putOutcome_new⟩, ?_,
    fun s u b x h => ⟨_, exec_skipUnit h, concludes_conclude ..⟩, fun s u b x tg h ht => ?_, fun s u b x h => ?_⟩
  · rintro s u b x p i rest w h hb rfl
    exact ⟨_, exec_freshenSubUnit h hb, concludes_conclude ..⟩
  · have hconcludes := concludes_conclude s u b (Work.start x []) ⟨.storeFault, tg.index, tg.code⟩ .none
    cases tg <;> exact ⟨_, exec_faultUnit h ht, hconcludes⟩
  · obtain ⟨hstate, hcount, hresult, hhits⟩ := endHeader_spec s b
    refine ⟨_, _, _, exec_endUnit h, noteBegins_startNote .., startNote_batch _ _, hstate, hcount, hresult, hhits,
      endRecords_entries, fun i => ⟨endRecords_finished s, fun hi hc => ?_⟩⟩
    have hended := endRecords_ended hi hc
    refine ⟨fun hcut => ?_, fun hcut hplain => ?_, fun p is hcut hnext hsub => ?_, fun r hcut hnext hsub => ?_⟩
    · rw [← endOutcome_cancelled hcut]
      exact hended
    · rw [← cutOutcome_plain hplain, ← endOutcome_cut hcut]
      exact hended
    · rw [← cutOutcome_claim hnext hsub, ← endOutcome_cut hcut]
      exact hended
    · rw [← cutOutcome_renew hnext hsub, ← endOutcome_cut hcut]
      exact hended

end Sys2Proof.Machine
end


section
/-! Obligation O53: the sweep units. -/

namespace Sys2Proof.Machine

/-! ## Changes that stand -/

/-- Later changes of records alone: those made before stand, the summary is as it was. -/
structure Work.GoesOnTo (w v : Work) : Prop where
  gathered : v.gathered = w.gathered
  sum : v.sum = w.sum
  images : w.images ≠ [] → v.images ≠ []

theorem ChangesInOrder.images_ne {w v : Work} {ts : List Target} (h : ChangesInOrder w v ts) (hw : w.images ≠ []) : v.images ≠ [] := by
  obtain ⟨l, hl, -⟩ := h
  intro hv
  rw [hv] at hl
  exact hw (List.map_eq_nil_iff.mp (List.append_eq_nil_iff.mp hl.symm).1)

theorem putImage_ne_nil (gs : List Image) (g : Image) : putImage gs g ≠ [] := by
  rw [putImage_eq]
  split
  next hg => exact fun he => by rw [List.map_eq_nil_iff.mp he] at hg; exact absurd hg List.not_mem_nil
  next => simp

section
variable (w : Work)

theorem setItem_images_ne {i : Nat} {c : Item} (h : c.written ≠ w.item i) : (w.setItem i c).images ≠ [] := by
  rw [Work.setItem, if_neg h]
  exact putImage_ne_nil _ _

theorem setHold_images_ne {i : Nat} {x : Hold} (h : x.written ≠ w.hold i) : (w.setHold i x).images ≠ [] := by
  rw [Work.setHold, if_neg h]
  exact putImage_ne_nil _ _

theorem goesOnTo_setItem (i : Nat) (c : Item) : w.GoesOnTo (w.setItem i c) :=
  ⟨setItem_gathered w i c, setItem_sum w i c, (changesInOrder_setItem w i c).images_ne⟩

theorem goesOnTo_offer (T c t : Nat) : w.GoesOnTo (w.offer T c t).1 := by
  cases hx : w.chosenHold T c t with
  | none => rw [offer_of_chosenHold_none hx]; exact goesOnTo_setItem w c _
  | some x =>
    rw [offer_of_chosenHold_some hx]
    exact ⟨(onlyRecords_trap w T c x.1).gathered, trap_sum w T c x.1, (changesInOrder_trap w T c x.1).images_ne⟩

theorem goesOnTo_seek (T t : Nat) : w.GoesOnTo (w.seek T t).1 := by
  unfold Work.seek
  split
  · split
    · exact goesOnTo_offer w T _ t
    · exact ⟨rfl, rfl, id⟩
  · exact ⟨rfl, rfl, id⟩

/-! ## An expiry changes the hold and the summary (R129) -/

theorem unlink_hold_state (t h i : Nat) : ((w.unlink t h).hold i).state = (w.hold i).state := by
  rw [unlink_eq, hold_setTitle]
  cases hp : w.inFront t h with
  | none => rw [linkPast_none hp]
  | some p =>
    rw [linkPast_some hp, hold_setHold]
    split
    next he => rw [hold_written_state, he]
    next => rfl

theorem free_images_ne {h : Nat} (hs : (w.hold h).state ≠ .free) : (w.free h).images ≠ [] := by
  rw [Work.free, setSum_images]
  refine setHold_images_ne w (fun he => hs ?_)
  rw [← he]
  rfl

theorem expireFrom_gathered (T : Nat) (t : Option Nat) (h : Nat) : (w.expireFrom T t h).gathered = w.gathered := by
  unfold Work.expireFrom
  cases t with
  | none => cases w.ref .patrons (w.hold h).patron <;> simp [Work.free]
  | some t =>
    have hunlink := (onlyRecords_unlink w t h).gathered
    cases w.ref .patrons (w.hold h).patron <;> simp [Work.free, hunlink]

theorem expireFrom_freeCount (T : Nat) (t : Option Nat) (h : Nat) : (w.expireFrom T t h).sum.freeCount = w.sum.freeCount + 1 := by
  unfold Work.expireFrom
  cases t <;> cases w.ref .patrons (w.hold h).patron <;> simp

theorem expireFrom_images_ne {h : Nat} (hs : (w.hold h).state ≠ .free) (T : Nat) (t : Option Nat) :
    (w.expireFrom T t h).images ≠ [] := by
  have hunlinked : ∀ t, ((w.unlink t h).hold h).state ≠ .free := fun t => by rw [unlink_hold_state]; exact hs
  unfold Work.expireFrom
  rw [setSum_images]
  cases t with
  | none =>
    cases w.ref .patrons (w.hold h).patron with
    | none => exact free_images_ne _ hs
    | some p => exact (changesInOrder_setPatron _ _ _).images_ne (free_images_ne _ hs)
  | some t =>
    cases w.ref .patrons (w.hold h).patron with
    | none => exact free_images_ne _ (hunlinked t)
    | some p => exact (changesInOrder_setPatron _ _ _).images_ne (free_images_ne _ (hunlinked t))

theorem expire_goesOn (T h c : Nat) : (w.expireHold T h).GoesOnTo (w.expire T h c).1 := by
  unfold Work.expire
  cases w.ref .titles (w.hold h).title with
  | none => exact goesOnTo_setItem _ _ _
  | some t => exact goesOnTo_offer _ T c t
end

/-! ## The sweep fields in the summary image (R165) -/

section
variable {w : Work} {f : Summary → Summary}

theorem withSweep_same (h : w.sum = parseSummary (w.raw .summary)) : w.withSweep f = w := if_pos h

theorem withSweep_changed (h : w.sum ≠ parseSummary (w.raw .summary)) : w.withSweep f = w.setSum f := if_neg h

theorem onlyRecords_withSweep (w : Work) (f : Summary → Summary) : OnlyRecords w (w.withSweep f) [.summary] := by
  unfold Work.withSweep
  split
  · exact OnlyRecords.refl w _
  · exact (OnlyRecords.refl w _).setSum f List.mem_cons_self

/-- The summary as a unit finds it, through changes that leave what is gathered. -/
theorem start_sum_of_gathered {x : Setup} {g : List (Target × List Byte)} (h : w.gathered = (Work.start x g).gathered) :
    (Work.start x g).sum = parseSummary (w.raw .summary) := by
  unfold Work.raw
  rw [h]
  rfl
end

theorem fields_record (x : Sweep) {o : Offer} {k : Nat} (h : o = .item k ∨ o = .resume k) (m : Summary) :
    x.fields o true m = x.inSummary m x.phase (k + 1) x.sweptThrough := by
  obtain rfl | rfl := h <;> rfl

/-! ## The two ends of a sweep unit's decide (R164) -/

section
variable {s : State} {u : WorkUnit} {o : Offer}

theorem concludeSweep_empty (hk : u.kind = .sweep o) {w : Work} (h : w.images = []) (code : Nat) :
    EmptySweepUnit s u o (.next (s.concludeSweep u o code w)) := by
  have hend : s.concludeSweep u o code w = s.clearUnit.sweepEnded o u.reported := by
    simp only [State.concludeSweep, h, List.isEmpty_nil, if_true, State.emptyUnit, State.reportEnd, hk]
  rw [hend]
  cases hrep : u.reported with
  | true =>
    rw [sweepEnded_reported]
    exact ⟨_, rfl, rfl, by rw [hrep]; rfl, OnlyParts.trans (onlyParts_clearUnit s) (onlyParts_sweep _ _) (by simp) (by simp)⟩
  | false =>
    rw [sweepEnded_unreported]
    exact ⟨_, rfl, rfl, by rw [hrep]; rfl, OnlyParts.trans (onlyParts_clearUnit s) (onlyParts_sweep _ _) (by simp) (by simp)⟩

theorem concludeSweep_note {w : Work} (h : w.images ≠ []) (code : Nat) : NoteBegins s (s.concludeSweep u o code w)
    { u with code := code } (w.withSweep (s.sweep.fields o u.reported)) none := by
  have hnote : s.concludeSweep u o code w =
      s.startNote { u with code := code } (w.withSweep (s.sweep.fields o u.reported)) none :=
    if_neg (fun he => h (List.isEmpty_iff.mp he))
  rw [hnote]
  exact noteBegins_startNote _ _ _ _

variable {x : Setup}

theorem exec_sweepFreshen {i : Nat} (h : AtSweepDecide s (.item i) u x)
    (hl : (Work.start x u.gathered).lapsedHold u.day i = none) : exec .sweepFreshen s =
      .next (s.concludeSweep u (.item i) 32 ((Work.start x u.gathered).freshen u.day i)) := by
  show Host.Outcome.next s.decideSweepFreshen = _
  simp only [State.decideSweepFreshen, decidingSweep_of_at h, hl]
  rfl

theorem exec_sweepExpiry {i : Nat} (h : AtSweepDecide s (.item i) u x)
    (hd : freshenDue u.day (Work.start x u.gathered) i = false) : exec .sweepExpiry s =
      .next (s.concludeSweep u (.item i) 33 ((Work.start x u.gathered).expireOnTouch u.day i)) := by
  show Host.Outcome.next s.decideSweepExpiry = _
  simp only [State.decideSweepExpiry, decidingSweep_of_at h, hd]
  rfl

theorem exec_sweepResume {i : Nat} (h : AtSweepDecide s (.resume i) u x) : exec .sweepResume s =
    .next (s.concludeSweep u (.resume i) 34 (decideResume u.day (Work.start x u.gathered) i)) := by
  show Host.Outcome.next s.decideSweepResume = _
  simp only [State.decideSweepResume, decidingSweep_of_at h]
  rfl
end

/-! ## Whether a unit has work (R161, R162) -/

theorem freshenDue_iff (T : Nat) (w : Work) (i : Nat) : freshenDue T w i = true ↔
    ((w.item i).state = .onLoan ∧ ∃ c, (w.item i).charged = some c ∧ c < T) := by
  simp [freshenDue, dayBefore, Option.any_eq_true]

theorem freshenDue_false {T : Nat} {w : Work} {i : Nat} (h : (w.item i).state ≠ .onLoan ∨ (w.item i).charged = none ∨
    (∃ c, (w.item i).charged = some c ∧ T ≤ c)) : freshenDue T w i = false := by
  refine Bool.eq_false_iff.mpr (fun hd => ?_)
  obtain ⟨hs, c, hc, hlt⟩ := (freshenDue_iff T w i).mp hd
  rcases h with h | h | ⟨c', hc', hle⟩
  · exact h hs
  · exact absurd (h.symm.trans hc) nofun
  · have := Option.some.inj (hc.symm.trans hc')
    omega

/-- Freshen changes nothing that is not due. -/
theorem freshen_not_due {T : Nat} {w : Work} {i : Nat} (h : freshenDue T w i = false) : w.freshen T i = w := by
  rcases freshen_cases w T i with he | ⟨s, due, b, hs, hc, -, -, hlt⟩
  · exact he
  · rw [(freshenDue_iff T w i).mpr ⟨hs, s, hc, hlt⟩] at h
    exact absurd h nofun

theorem lapsedHold_stands {w : Work} {T i : Nat} (h : (w.item i).state ≠ .setAside ∨ w.ref .holds (w.item i).aside = none ∨
    ∃ h, (w.item i).aside = some h ∧ lapsed (w.hold h) T = false) : w.lapsedHold T i = none := by
  by_cases hs : (w.item i).state = .setAside
  · cases href : w.ref .holds (w.item i).aside with
    | none => exact lapsedHold_none (.inr href)
    | some j =>
      rw [lapsedHold_some hs href]
      rcases h with hns | hnone | ⟨h, ha, hl⟩
      · exact absurd hs hns
      · exact absurd (hnone.symm.trans href) nofun
      · obtain ⟨hj, -⟩ := (ref_eq_some_iff _ _ _ _).mp href
        obtain rfl : h = j := Option.some.inj (ha.symm.trans hj)
        rw [hl]
        rfl
  · exact lapsedHold_none (.inl hs)

theorem resumable_iff (x : Hold) (T : Nat) :
    resumable x T = true ↔ (x.state = .suspended ∧ ∃ d, x.suspend = some d ∧ d ≤ T) := by
  simp [resumable, Option.any_eq_true]

theorem resumable_false {x : Hold} {T : Nat} (h : x.state ≠ .suspended ∨ x.suspend = none ∨
    ∃ d, x.suspend = some d ∧ T < d) : resumable x T = false := by
  refine Bool.eq_false_iff.mpr (fun hr => ?_)
  obtain ⟨hs, d, hd, hle⟩ := (resumable_iff x T).mp hr
  rcases h with h | h | ⟨d', hd', hlt⟩
  · exact h hs
  · exact absurd (h.symm.trans hd) nofun
  · have := Option.some.inj (hd.symm.trans hd')
    omega

theorem start_images (x : Setup) (g : List (Target × List Byte)) : (Work.start x g).images = [] := rfl

/-! ## Each unit -/

section
variable {s : State} {u : WorkUnit} {x : Setup}

theorem sweepFreshen_notes {i c d p : Nat} {w : Work} (h : AtSweepDecide s (.item i) u x) (hw : w = Work.start x u.gathered)
    (hs : (w.item i).state = .onLoan) (hc : (w.item i).charged = some c) (hlt : c < u.day) (hd : (w.item i).due = some d)
    (hp : w.ref .patrons (w.item i).borrower = some p) : ∃ (t : State) (z : Work), exec .sweepFreshen s = .next t ∧
      NoteBegins s t { u with code := 32 } z none ∧ OnlyRecords (w.freshen u.day i) z [.summary] ∧
      ((w.freshen u.day i).sum = w.sum → z.sum = w.sum) ∧
      ((w.freshen u.day i).sum ≠ w.sum → u.reported = true →
        z.sum = s.sweep.inSummary (w.freshen u.day i).sum s.sweep.phase (i + 1) s.sweep.sweptThrough) := by
  subst hw
  have hl : (Work.start x u.gathered).lapsedHold u.day i = none := lapsedHold_none (.inl (by rw [hs]; nofun))
  have hne : ((Work.start x u.gathered).freshen u.day i).images ≠ [] := by
    rw [freshen_steps hs hc hd hp hlt, setSum_images]
    refine (changesInOrder_setPatron _ _ _).images_ne (setItem_images_ne _ (fun he => ?_))
    rw [freshItem_written hs] at he
    have hcharged : some u.day = ((Work.start x u.gathered).item i).charged := congrArg Item.charged he
    rw [hc] at hcharged
    exact absurd (Option.some.inj hcharged) (Nat.ne_of_gt hlt)
  have hgathered := start_sum_of_gathered (x := x) (g := u.gathered) (onlyRecords_freshen hs hc hd hp hlt).gathered
  refine ⟨_, _, exec_sweepFreshen h hl, concludeSweep_note hne 32, onlyRecords_withSweep _ _, fun hsum => ?_, fun hsum hrep => ?_⟩
  · rw [withSweep_same (hsum.trans hgathered), hsum]
  · rw [withSweep_changed (fun he => hsum (he.trans hgathered.symm)), setSum_sum, hrep, fields_record _ (.inl rfl)]

theorem sweepExpiry_notes {i h : Nat} {w : Work} (hat : AtSweepDecide s (.item i) u x) (hw : w = Work.start x u.gathered)
    (hs : (w.item i).state = .setAside) (href : w.ref .holds (w.item i).aside = some h) (hl : lapsed (w.hold h) u.day = true) :
    ∃ (t : State) (z : Work), exec .sweepExpiry s = .next t ∧ NoteBegins s t { u with code := 33 } z none ∧
      OnlyRecords (w.expire u.day h i).1 z [.summary] ∧
      (u.reported = true →
        z.sum = s.sweep.inSummary (w.expire u.day h i).1.sum s.sweep.phase (i + 1) s.sweep.sweptThrough) := by
  subst hw
  have hdue : freshenDue u.day (Work.start x u.gathered) i = false := freshenDue_false (.inl (by rw [hs]; nofun))
  have htouch : (Work.start x u.gathered).expireOnTouch u.day i = ((Work.start x u.gathered).expire u.day h i).1 :=
    expireOnTouch_some ((lapsedHold_some hs href).trans (if_pos hl))
  have hstate : ((Work.start x u.gathered).hold h).state ≠ .free := by
    obtain ⟨hshelf, -⟩ := (lapsed_iff _ _).mp hl
    rw [hshelf]
    nofun
  obtain ⟨hgathered, hsum, hstands⟩ := expire_goesOn (Work.start x u.gathered) u.day h i
  have hfound := start_sum_of_gathered (hgathered.trans (expireFrom_gathered _ _ _ _))
  have hchanged : ((Work.start x u.gathered).expire u.day h i).1.sum ≠ (Work.start x u.gathered).sum := by
    intro he
    have hcount := expireFrom_freeCount (Work.start x u.gathered) u.day
      ((Work.start x u.gathered).ref .titles ((Work.start x u.gathered).hold h).title) h
    rw [hsum, Work.expireHold] at he
    rw [he] at hcount
    exact absurd hcount (Nat.ne_of_lt (Nat.lt_succ_self _))
  refine ⟨_, _, (exec_sweepExpiry hat hdue).trans (by rw [htouch]),
    concludeSweep_note (hstands (expireFrom_images_ne _ hstate _ _)) 33, onlyRecords_withSweep _ _, fun hrep => ?_⟩
  rw [withSweep_changed (fun he => hchanged (he.trans hfound.symm)), setSum_sum, hrep, fields_record _ (.inl rfl)]

theorem resumed_written (y : Hold) : y.resumed.written = { y with state := .waiting, suspend := none, copy := none, deadline := none } := rfl

theorem sweepResume_notes {h d : Nat} {w : Work} (hat : AtSweepDecide s (.resume h) u x) (hw : w = Work.start x u.gathered)
    (hs : (w.hold h).state = .suspended) (hd : (w.hold h).suspend = some d) (hle : d ≤ u.day) :
    ∃ (t : State) (v : Work), exec .sweepResume s = .next t ∧ OnlyRecords w v [.record .holds h] ∧ v.sum = w.sum ∧
      v.hold h = { w.hold h with state := .waiting, suspend := none, copy := none, deadline := none } ∧
      (∀ tt, w.ref .titles (w.hold h).title = some tt → NoteBegins s t { u with code := 34 } (v.seek u.day tt).1 none) ∧
      (w.ref .titles (w.hold h).title = none → NoteBegins s t { u with code := 34 } v none) := by
  obtain ⟨hrecords, hsum, hres⟩ := setHold_spec w h (w.hold h).resumed
  have hne : (w.setHold h (w.hold h).resumed).images ≠ [] := by
    refine setHold_images_ne w (fun he => ?_)
    have hstate : HoldState.waiting = (w.hold h).state := congrArg Hold.state he
    rw [hs] at hstate
    exact absurd hstate nofun
  have hdue : resumable (w.hold h) u.day = true := (resumable_iff _ _).mpr ⟨hs, d, hd, hle⟩
  refine ⟨_, _, exec_sweepResume hat, hrecords, hsum, hres, fun tt ht => ?_, fun ht => ?_⟩
  · obtain ⟨hgathered, hsame, hstands⟩ := goesOnTo_seek (w.setHold h (w.hold h).resumed) u.day tt
    have hdecide : decideResume u.day w h = ((w.setHold h (w.hold h).resumed).seek u.day tt).1 := by
      simp only [decideResume, hdue, if_true, ht]
    subst hw
    have hnote := concludeSweep_note (s := s) (u := u) (o := .resume h) (hstands hne) 34
    rw [withSweep_same ((hsame.trans hsum).trans (start_sum_of_gathered (hgathered.trans hrecords.gathered)))] at hnote
    rw [hdecide]
    exact hnote
  · have hdecide : decideResume u.day w h = w.setHold h (w.hold h).resumed := by simp only [decideResume, hdue, if_true, ht]
    subst hw
    have hnote := concludeSweep_note (s := s) (u := u) (o := .resume h) hne 34
    rw [withSweep_same (hsum.trans (start_sum_of_gathered hrecords.gathered))] at hnote
    rw [hdecide]
    exact hnote

theorem fields_progress (y : Sweep) (e : Bool) (m : Summary) : y.fields (.progress e) true m =
    y.inSummary m (if e then .idle else .holds) 0 (if e then y.target else y.sweptThrough) := by
  cases e <;> rfl

theorem sweepProgress_notes {e : Bool} (h : AtSweepDecide s (.progress e) u x) :
    ∃ (t : State) (m : Summary) (y : WorkUnit), exec .sweepProgress s = .next t ∧
      (u.reported = true → m = s.sweep.inSummary (Work.start x u.gathered).sum (if e then .idle else .holds) 0
        (if e then s.sweep.target else s.sweep.sweptThrough)) ∧
      y = { u with code := 35, phase := .note, changes := [.summary m], spoil := [] } ∧
      t.engine = { s.engine with unit := some { y with toWrite := (noteWrites y).tail } } ∧
      Awaits t .note (Config.noteBase + 1) (.write (lanesOf (put1 (u.owner.map Fin.val)))) ∧
      OnlyParts s t [.engine, .raised] := by
  have hexec : exec .sweepProgress s = .next (s.writeNote
      { u with
        code := 35, changes := [.summary (s.sweep.fields (.progress e) u.reported (Work.start x u.gathered).sum)]
        spoil := [] }) := by
    show Host.Outcome.next s.decideSweepProgress = _
    simp only [State.decideSweepProgress, decidingSweep_of_at h]
    rfl
  refine ⟨_, s.sweep.fields (.progress e) u.reported (Work.start x u.gathered).sum, _, hexec, fun hrep => ?_, rfl, ?_,
    awaits_raise _ _ _ _ _, OnlyParts.trans (onlyParts_setUnit s _) (onlyParts_raise _ _ _ _ none rfl) (by simp) (by simp)⟩
  · rw [hrep, fields_progress]
  · simp [State.writeNote, State.raiseNext, noteWrites, State.setUnit]
end

/-- Settles O53: each unit by whether its record calls for work. -/
theorem sweepUnitsAreDecided : Obligations.SweepUnitsAreDecided := by
  unfold Obligations.SweepUnitsAreDecided
  refine ⟨?_, ?_, fun s u x e h => sweepProgress_notes h⟩
  · rintro s u x i w v h hw rfl
    refine ⟨fun c d p hs hc hlt hd hp => sweepFreshen_notes h hw hs hc hlt hd hp, fun hnot hstands => ?_,
      fun j hs href hl => sweepExpiry_notes h hw hs href hl⟩
    subst hw
    have hkind : u.kind = .sweep (.item i) := by obtain ⟨-, -, -, -, -, hkind⟩ := h; exact hkind
    have hdue := freshenDue_false hnot
    have hheld := lapsedHold_stands hstands
    rw [exec_sweepFreshen h hheld, exec_sweepExpiry h hdue, freshen_not_due hdue, expireOnTouch_none hheld]
    exact ⟨concludeSweep_empty hkind (start_images x _) 32, concludeSweep_empty hkind (start_images x _) 33⟩
  · rintro s u x h w hat hw
    refine ⟨fun d hs hd hle => sweepResume_notes hat hw hs hd hle, fun hnot => ?_⟩
    subst hw
    have hkind : u.kind = .sweep (.resume h) := by obtain ⟨-, -, -, -, -, hkind⟩ := hat; exact hkind
    have hstays : decideResume u.day (Work.start x u.gathered) h = Work.start x u.gathered := by
      simp only [decideResume, resumable_false hnot, Bool.false_eq_true, if_false]
    rw [exec_sweepResume hat, hstays]
    exact concludeSweep_empty hkind (start_images x _) 34

end Sys2Proof.Machine
end


section
/-! Obligation O54: the examination reads of the Day Sweep. -/

namespace Sys2Proof.Machine

/-! ## The step of a pass (R161 to R163) -/

section
variable {s : State}

theorem sweepMayRead_iff : s.sweepMayRead = true ↔ (s.loader.part = .ready ∧ s.engine.running = true ∧
    s.sweep.stopped = false ∧ s.sweep.phase ≠ .idle ∧ s.sweep.offer = none ∧ s.sweep.reading = none ∧ s.sweepReading = false) := by
  simp [State.sweepMayRead, and_assoc]

theorem sweepExamine_stays (h : s.sweepMayRead = false) : s.sweepExamine = s := by rw [State.sweepExamine, h]; rfl

/-- An examination read: the sweep waits for it, and its read is raised. -/
theorem sweepRaise_spec (s : State) (e : Examined) :
    (s.sweepRaise e).sweep = { s.sweep with reading := some (s.serial, e) } ∧
    Awaits (s.sweepRaise e) .sweepRead (s.targetOff e.target) (.read e.target.len) ∧
    OnlyParts s (s.sweepRaise e) [.sweep, .raised] :=
  ⟨raise_sweep _ _ _ _ _, awaits_raise _ _ _ _ _, OnlyParts.trans (onlyParts_sweep s _) (onlyParts_raise _ _ _ _ none rfl) (by simp) (by simp)⟩

section
variable (h : s.sweepMayRead = true)
include h

theorem sweepExamine_reads (hp : s.sweep.position < s.regionCount s.sweep.phase.region) : s.sweepExamine =
    s.sweepRaise (if s.sweep.phase = .holds then .hold s.sweep.position else .item s.sweep.position) := by
  rw [State.sweepExamine, h, if_pos rfl, if_pos hp]

theorem sweepExamine_endOfHolds (hh : s.sweep.phase = .holds) (hp : s.regionCount .holds ≤ s.sweep.position) :
    s.sweepExamine = { s with sweep := { s.sweep with offer := some (.progress true) } } := by
  have hend : ¬ s.sweep.position < s.regionCount s.sweep.phase.region := by rw [hh]; exact Nat.not_lt.mpr hp
  rw [State.sweepExamine, h, if_pos rfl, if_neg hend, if_pos hh]

theorem sweepExamine_endOfItems (hi : s.sweep.phase = .items) (hp : s.regionCount .items ≤ s.sweep.position) :
    s.sweepExamine = { s with sweep := { s.sweep with phase := .holds, position := 0, offer := some (.progress false) } } := by
  have hend : ¬ s.sweep.position < s.regionCount s.sweep.phase.region := by rw [hi]; exact Nat.not_lt.mpr hp
  rw [State.sweepExamine, h, if_pos rfl, if_neg hend, if_neg (by rw [hi]; nofun)]
end
end

/-! ## A record judged (R161, R162) -/

theorem dayBefore_iff (d : Option Nat) (g : Nat) : dayBefore d g = true ↔ ∃ c, d = some c ∧ c < g := by
  simp [dayBefore, Option.any_eq_true]

section
variable {holds g : Nat} {c : Item}

theorem judgeItem_unit {d : Nat} (hs : c.state = .onLoan) (hd : c.charged = some d) (hlt : d < g) : judgeItem holds g c = .unit := by
  have hdue : dayBefore c.charged g = true := (dayBefore_iff _ _).mpr ⟨d, hd, hlt⟩
  simp only [judgeItem, hs, hdue, if_true]

theorem judgeItem_readHold {h : Nat} (hs : c.state = .setAside) (ha : c.aside = some h) (hlt : h < holds) :
    judgeItem holds g c = .readHold h := by
  simp only [judgeItem, hs, ha, hlt, if_true]

theorem judgeItem_nothing (h : c.state = .available ∨ (c.state = .onLoan ∧ ∀ d, c.charged = some d → g ≤ d) ∨
    (c.state = .setAside ∧ ∀ j, c.aside = some j → holds ≤ j)) : judgeItem holds g c = .nothing := by
  rcases h with hs | ⟨hs, hd⟩ | ⟨hs, ha⟩
  · simp only [judgeItem, hs]
  · have hnot : ¬ dayBefore c.charged g = true := fun hb => by
      obtain ⟨d, hc, hlt⟩ := (dayBefore_iff _ _).mp hb
      exact Nat.not_lt.mpr (hd d hc) hlt
    simp only [judgeItem, hs, if_neg hnot]
  · cases haside : c.aside with
    | none => simp only [judgeItem, hs, haside]
    | some j => simp only [judgeItem, hs, haside, if_neg (Nat.not_lt.mpr (ha j haside))]
end

section
variable {s : State} {data : List Byte}

theorem sweepJudge_unit {j : Nat} (h : judgeItem (s.regionCount .holds) s.sweep.target (parseItem data) = .unit) :
    s.sweepJudge (.item j) data = s.sweepOffer (.item j) := by simp only [State.sweepJudge, h]

theorem sweepJudge_readHold {j k : Nat} (h : judgeItem (s.regionCount .holds) s.sweep.target (parseItem data) = .readHold k) :
    s.sweepJudge (.item j) data = s.sweepRaise (.asideHold j k) := by simp only [State.sweepJudge, h]

theorem sweepJudge_nothing {j : Nat} (h : judgeItem (s.regionCount .holds) s.sweep.target (parseItem data) = .nothing) :
    s.sweepJudge (.item j) data = s.sweepAdvance := by simp only [State.sweepJudge, h]

theorem sweepJudge_asideHold (s : State) (j k : Nat) (data : List Byte) : s.sweepJudge (.asideHold j k) data =
    if lapsed (parseHold data) s.sweep.target then s.sweepOffer (.item j) else s.sweepAdvance := rfl

theorem sweepJudge_hold (s : State) (k : Nat) (data : List Byte) : s.sweepJudge (.hold k) data =
    if resumable (parseHold data) s.sweep.target then s.sweepOffer (.resume k) else s.sweepAdvance := rfl
end

/-! ## An examination read answered -/

section
variable {s : State} {i : IssuedOwn} (hreset : s.inReset = false)
  (hpull : s.pullOwn (fun q => decide (q.tag = .sweepRead)) = some i)
include hreset hpull

theorem exec_sweepReadDone (a : Answer) :
    exec (.sweepReadDone a) s = .next ((s.dropOwn i.req.serial).sweepReadAnswered i a) := by
  show Host.Outcome.next _ = _
  rw [live_eq hreset]
  simp only [hpull]

theorem exec_sweepReadTimeout :
    exec .sweepReadTimeout s = .next ((s.dropOwn i.req.serial).sweepReadAnswered i (.error 0)) := by
  show Host.Outcome.next _ = _
  rw [live_eq hreset]
  simp only [hpull]

/-- An error of the read, whatever its code, is as no answer in time (R166). -/
theorem exec_sweepReadError (k : Nat) : exec (.sweepReadDone (.error k)) s = exec .sweepReadTimeout s := by
  rw [exec_sweepReadDone hreset hpull, exec_sweepReadTimeout hreset hpull]
  rfl
end

theorem examining_eq_some {x : Sweep} {k : Nat} {e : Examined} (h : x.reading = some (k, e)) : x.examining k = some e := by
  simp [Sweep.examining, h]

theorem examining_eq_none {x : Sweep} {k : Nat} (h : ∀ r, x.reading = some r → r.1 ≠ k) : x.examining k = none := by
  cases hr : x.reading with
  | none => simp [Sweep.examining, hr]
  | some r => simp [Sweep.examining, hr, h r hr]

section
variable {s : State} {i : IssuedOwn} {a : Answer}

theorem sweepReadAnswered_touched {e : Examined} {d : List Byte} (he : s.sweep.examining i.req.serial = some e)
    (hd : s.ownData i a = some d) (ht : e.target ∈ i.touched) : s.sweepReadAnswered i a = s.sweepRaise e := by
  simp only [State.sweepReadAnswered, he, hd, if_pos ht]

theorem sweepReadAnswered_judges {e : Examined} {d : List Byte} (he : s.sweep.examining i.req.serial = some e)
    (hd : s.ownData i a = some d) (ht : e.target ∉ i.touched) : s.sweepReadAnswered i a = s.sweepJudge e d := by
  simp only [State.sweepReadAnswered, he, hd, if_neg ht]

theorem sweepReadAnswered_skips {e : Examined} (he : s.sweep.examining i.req.serial = some e)
    (hd : s.ownData i a = none) : s.sweepReadAnswered i a = s.storeFault.sweepSkip := by
  simp only [State.sweepReadAnswered, he, hd]

theorem sweepReadAnswered_discards {d : List Byte} (he : s.sweep.examining i.req.serial = none)
    (hd : s.ownData i a = some d) : s.sweepReadAnswered i a = s.sweepExamine := by
  simp only [State.sweepReadAnswered, he, hd]

theorem sweepReadAnswered_counts (he : s.sweep.examining i.req.serial = none)
    (hd : s.ownData i a = none) : s.sweepReadAnswered i a = s.storeFault.sweepExamine := by
  simp only [State.sweepReadAnswered, he, hd]
end

/-! ## What follows for the sweep -/

section
variable (s : State) (k : Nat)

theorem goesPast_dropOwn : GoesPast s (.next (s.dropOwn k).sweepAdvance) :=
  ⟨_, rfl, OnlyParts.trans (onlyParts_dropOwn s k) (onlyParts_sweep _ _) (by simp) (by simp), rfl⟩

theorem offersUnit_dropOwn (o : Offer) : OffersUnit s o (.next ((s.dropOwn k).sweepOffer o)) :=
  ⟨_, rfl, OnlyParts.trans (onlyParts_dropOwn s k) (onlyParts_sweep _ _) (by simp) (by simp), rfl⟩

theorem sweepRaise_dropOwn (e : Examined) : OnlyParts s ((s.dropOwn k).sweepRaise e) [.issued, .raised, .sweep] ∧
    ((s.dropOwn k).sweepRaise e).sweep = { s.sweep with reading := some (s.serial, e) } ∧
    Awaits ((s.dropOwn k).sweepRaise e) .sweepRead (s.targetOff e.target) (.read e.target.len) := by
  obtain ⟨hsweep, hawaits, hparts⟩ := sweepRaise_spec (s.dropOwn k) e
  exact ⟨OnlyParts.trans (onlyParts_dropOwn s k) hparts (by simp) (by simp), hsweep, hawaits⟩
end

/-! ## A read of the record examined -/

section
variable {s : State} {i : IssuedOwn} {e : Examined} (h : ExamRead s i e)
include h

theorem examRead_examining : (s.dropOwn i.req.serial).sweep.examining i.req.serial = some e := by
  obtain ⟨-, -, hreading⟩ := h
  exact examining_eq_some hreading

section
variable {a : Answer} {d : List Byte} (hd : s.ownData i a = some d)
include hd

theorem exec_examTouched (ht : e.target ∈ i.touched) :
    exec (.sweepReadDone a) s = .next ((s.dropOwn i.req.serial).sweepRaise e) := by
  have hexam := examRead_examining h
  obtain ⟨hreset, hpull, -⟩ := h
  rw [exec_sweepReadDone hreset hpull, sweepReadAnswered_touched hexam hd ht]

theorem exec_examJudged (ht : e.target ∉ i.touched) :
    exec (.sweepReadDone a) s = .next ((s.dropOwn i.req.serial).sweepJudge e d) := by
  have hexam := examRead_examining h
  obtain ⟨hreset, hpull, -⟩ := h
  rw [exec_sweepReadDone hreset hpull, sweepReadAnswered_judges hexam hd ht]
end

theorem examRead_failed : ∃ v : State, exec .sweepReadTimeout s = .next v.sweepExamine ∧ v.loader = oneMoreFault s.loader ∧
    StatusShown s v ∧
    v.sweep =
      { s.sweep with
        skipped := min (s.sweep.skipped + 1) 65535, position := s.sweep.position + 1, offer := none
        reading := none } ∧
    OnlyParts s v [.issued, .raised, .loader, .sweep] := by
  have hexam := examRead_examining h
  obtain ⟨hreset, hpull, -⟩ := h
  obtain ⟨hparts, hloader, hshown⟩ := readFailed_spec s i.req.serial
  have hskip : ∀ y : Sweep, OnlyParts (s.readFailed i.req.serial) { s.readFailed i.req.serial with sweep := y } [.sweep] :=
    fun y => onlyParts_sweep _ y
  rw [exec_sweepReadTimeout hreset hpull, sweepReadAnswered_skips hexam rfl]
  refine ⟨_, rfl, hloader, hshown.trans (.refl _) (hskip _).grows, ?_, OnlyParts.trans hparts (hskip _) (by simp) (by simp)⟩
  rw [← readFailed_sweep s i.req.serial]
  rfl
end

/-! ## A read no longer listened for (R167, R168) -/

section
variable {s : State} {i : IssuedOwn} (hreset : s.inReset = false)
  (hpull : s.pullOwn (fun q => decide (q.tag = .sweepRead)) = some i)
  (hr : ∀ r, s.sweep.reading = some r → r.1 ≠ i.req.serial)
include hreset hpull hr

theorem exec_readDiscarded {a : Answer} {d : List Byte} (hd : s.ownData i a = some d) :
    exec (.sweepReadDone a) s = .next (s.dropOwn i.req.serial).sweepExamine := by
  rw [exec_sweepReadDone hreset hpull, sweepReadAnswered_discards (s := s.dropOwn i.req.serial) (examining_eq_none hr) hd]

theorem exec_readFailed : exec .sweepReadTimeout s = .next (s.readFailed i.req.serial).sweepExamine := by
  rw [exec_sweepReadTimeout hreset hpull, sweepReadAnswered_counts (s := s.dropOwn i.req.serial) (examining_eq_none hr) rfl]
  rfl
end

/-- The sweep in READY, not stopped, with no offer standing and no read under way. -/
theorem sweepExamine_spec {s : State} (h : s.loader.part = .ready ∧ s.engine.running = true ∧ s.sweep.stopped = false ∧
    s.sweep.offer = none ∧ s.sweep.reading = none ∧ s.sweepReading = false) {r : Region} {p : SweepPhase}
    {e : Examined} (hphase : s.sweep.phase = p)
    (he : (p = .items ∧ r = .items ∧ e = .item s.sweep.position) ∨ (p = .holds ∧ r = .holds ∧ e = .hold s.sweep.position)) :
    s.sweepMayRead = true ∧ (s.sweep.position < s.regionCount r → s.sweepExamine = s.sweepRaise e) := by
  obtain ⟨hpart, hrun, hstop, hoffer, hread, hwait⟩ := h
  subst hphase
  rcases he with ⟨hp, rfl, rfl⟩ | ⟨hp, rfl, rfl⟩
  · have hmay : s.sweepMayRead = true := sweepMayRead_iff.mpr ⟨hpart, hrun, hstop, by rw [hp]; nofun, hoffer, hread, hwait⟩
    refine ⟨hmay, fun hlt => ?_⟩
    rw [sweepExamine_reads hmay (by rw [hp]; exact hlt), if_neg (by rw [hp]; nofun)]
  · have hmay : s.sweepMayRead = true := sweepMayRead_iff.mpr ⟨hpart, hrun, hstop, by rw [hp]; nofun, hoffer, hread, hwait⟩
    refine ⟨hmay, fun hlt => ?_⟩
    rw [sweepExamine_reads hmay (by rw [hp]; exact hlt), if_pos hp]

/-- Settles O54: the read met by the in-flight set, judged, failed or dropped, and the step of the pass. -/
theorem sweepExaminesRecords : Obligations.SweepExaminesRecords := by
  unfold Obligations.SweepExaminesRecords
  refine ⟨fun s i e a d h hd => ⟨fun ht => ?_, fun ht => ?_⟩, fun s i e h => ⟨?_, examRead_failed h⟩,
    fun s i hreset hpull hr => ⟨fun a d hd => ?_, exec_sweepReadError hreset hpull, ?_⟩,
    fun s hpart hrun hstop hoffer hread hwait => ⟨sweepExamine_idle, fun hp => ?_, fun hp => ?_⟩, fun s h => ?_⟩
  · obtain ⟨hparts, hsweep, hawaits⟩ := sweepRaise_dropOwn s i.req.serial e
    exact ⟨_, exec_examTouched h hd ht, hparts, hsweep, hawaits⟩
  · rw [exec_examJudged h hd ht]
    refine ⟨fun j hj => ?_, fun j k hj => ?_, fun k hk => ?_⟩
    · subst hj
      refine ⟨fun ⟨c, hs, hc, hlt⟩ => ?_, fun k hs ha hlt => ?_, fun hno => ?_⟩
      · rw [sweepJudge_unit (s := s.dropOwn i.req.serial) (judgeItem_unit hs hc hlt)]
        exact offersUnit_dropOwn s _ _
      · rw [sweepJudge_readHold (s := s.dropOwn i.req.serial) (judgeItem_readHold hs ha hlt)]
        obtain ⟨hparts, hsweep, hawaits⟩ := sweepRaise_dropOwn s i.req.serial (.asideHold j k)
        exact ⟨_, rfl, hparts, hsweep, hawaits⟩
      · rw [sweepJudge_nothing (s := s.dropOwn i.req.serial) (judgeItem_nothing hno)]
        exact goesPast_dropOwn s _
    · subst hj
      have htarget : (s.dropOwn i.req.serial).sweep.target = s.sweep.target := rfl
      rw [sweepJudge_asideHold, htarget]
      refine ⟨fun hl => ?_, fun hl => ?_⟩
      · rw [if_pos hl]; exact offersUnit_dropOwn s _ _
      · rw [if_neg (fun ht => Bool.false_ne_true (hl.symm.trans ht))]; exact goesPast_dropOwn s _
    · subst hk
      have htarget : (s.dropOwn i.req.serial).sweep.target = s.sweep.target := rfl
      rw [sweepJudge_hold, htarget]
      refine ⟨fun ⟨c, hs, hc, hle⟩ => ?_, fun hno => ?_⟩
      · rw [if_pos ((resumable_iff _ _).mpr ⟨hs, c, hc, hle⟩)]; exact offersUnit_dropOwn s _ _
      · refine if_neg (fun hr => ?_) ▸ goesPast_dropOwn s _
        obtain ⟨hs, c, hc, hle⟩ := (resumable_iff _ _).mp hr
        exact hno.elim (fun hn => hn hs) (fun hlt => Nat.not_lt.mpr hle (hlt c hc))
  · obtain ⟨hreset, hpull, -⟩ := h
    exact exec_sweepReadError hreset hpull
  · exact ⟨_, exec_readDiscarded hreset hpull hr hd, onlyParts_dropOwn s _⟩
  · obtain ⟨hparts, hloader, -⟩ := readFailed_spec s i.req.serial
    exact ⟨_, exec_readFailed hreset hpull hr, hloader, fun hlt => statusRaised_storeFault (s := s.dropOwn _) hlt, hparts⟩
  · obtain ⟨hmay, hreads⟩ := sweepExamine_spec ⟨hpart, hrun, hstop, hoffer, hread, hwait⟩ hp (.inl ⟨rfl, rfl, rfl⟩)
    refine ⟨fun hlt => ?_, sweepExamine_endOfItems hmay hp⟩
    rw [hreads hlt]
    exact sweepRaise_spec s (.item s.sweep.position)
  · obtain ⟨hmay, hreads⟩ := sweepExamine_spec ⟨hpart, hrun, hstop, hoffer, hread, hwait⟩ hp (.inr ⟨rfl, rfl, rfl⟩)
    refine ⟨fun hlt => ?_, sweepExamine_endOfHolds hmay hp⟩
    rw [hreads hlt]
    exact sweepRaise_spec s (.hold s.sweep.position)
  · refine sweepExamine_stays (Bool.eq_false_iff.mpr (fun hmay => ?_))
    obtain ⟨hpart, hrun, hstop, -, hoffer, hread, -⟩ := sweepMayRead_iff.mp hmay
    rcases h with hn | hn | hn | hn | hn
    · exact hn hpart
    · exact Bool.false_ne_true (hn.symm.trans hrun)
    · exact Bool.false_ne_true (hstop.symm.trans hn)
    · exact hn hoffer
    · exact hn hread

end Sys2Proof.Machine
end


section
/-! How a write of the observed setup words is handed on (R12): what it raises, and its response. For O55 and O56. -/

namespace Sys2Proof.Machine

/-! ## Own requests that hold no upstream response -/

/-- The own requests raised on the way hold no upstream response. -/
def RaisesFree (s t : State) : Prop := ∀ q ∈ t.ownWaiting, q ∈ s.ownWaiting ∨ q.holds = none

theorem RaisesFree.of_eq {s t : State} (h : t.ownWaiting = s.ownWaiting) : RaisesFree s t := fun _ hq => .inl (h ▸ hq)

theorem RaisesFree.trans {r s t : State} (h : RaisesFree r s) (k : RaisesFree s t) : RaisesFree r t := fun q hq =>
  (k q hq).elim (h q) .inr

theorem RaisesFree.ite {c : Prop} [Decidable c] {s a b : State} (ha : RaisesFree s a) (hb : RaisesFree s b) :
    RaisesFree s (if c then a else b) := by
  split
  · exact ha
  · exact hb

theorem RaisesFree.noOwnWriteHolds {s t : State} {k : Nat} (h : RaisesFree s t) (hs : NoOwnWriteHolds s k) :
    NoOwnWriteHolds t k := fun q hq => (h q hq).elim (hs q) (fun hnone => by rw [hnone]; nofun)

section
variable (s : State)

theorem raisesFree_raise (t : OwnTag) (o : Nat) (b : OwnBody) : RaisesFree s (s.raise t o b) := fun q hq =>
  ((mem_ownWaiting_raise_iff s t o b none q).mp hq).imp id (fun he => by rw [he]; rfl)

theorem raisesFree_raiseStatus : RaisesFree s s.raiseStatus := raisesFree_raise s _ _ _

theorem raisesFree_setResult (r : SetupResult) : RaisesFree s (s.setResult r) :=
  RaisesFree.ite (.of_eq rfl) ((RaisesFree.of_eq rfl).trans (raisesFree_raiseStatus _))

theorem raisesFree_readPart (k : RequestKind) (p : SetupPart) (b : Memory) : RaisesFree s (s.readPart k p b) :=
  (RaisesFree.of_eq rfl).trans (raisesFree_raise _ _ _ _)

theorem raisesFree_startRequest : RaisesFree s s.startRequest := by
  unfold State.startRequest
  split
  · exact (RaisesFree.of_eq rfl).trans (raisesFree_readPart _ _ _ _)
  · exact (RaisesFree.of_eq rfl).trans (raisesFree_readPart _ _ _ _)
  · exact .of_eq rfl

theorem raisesFree_startAtOnce : RaisesFree s s.startAtOnce := RaisesFree.ite (raisesFree_startRequest s) (.of_eq rfl)

theorem raisesFree_pend (k : RequestKind) : RaisesFree s (s.pend k) :=
  RaisesFree.ite (.of_eq rfl) ((RaisesFree.of_eq rfl).trans (raisesFree_startAtOnce _))

theorem raisesFree_takeRequest (k : RequestKind) : RaisesFree s (s.takeRequest k) := by
  unfold State.takeRequest
  split
  · exact .of_eq rfl
  · exact RaisesFree.ite (raisesFree_pend s k) (.of_eq rfl)
  · exact raisesFree_pend s k
  · exact raisesFree_pend s k
  · exact RaisesFree.ite (raisesFree_pend s k) (raisesFree_setResult s _)

theorem raisesFree_sweepRaise (e : Examined) : RaisesFree s (s.sweepRaise e) :=
  (RaisesFree.of_eq rfl).trans (raisesFree_raise _ _ _ _)

theorem raisesFree_sweepExamine : RaisesFree s s.sweepExamine :=
  RaisesFree.ite (RaisesFree.ite (raisesFree_sweepRaise s _) (RaisesFree.ite (.of_eq rfl) (.of_eq rfl))) (.of_eq rfl)

theorem raisesFree_beginPass (g : Nat) : RaisesFree s (s.beginPass g) :=
  (RaisesFree.of_eq rfl).trans (raisesFree_sweepExamine _)

theorem raisesFree_loader (l : Loader) : RaisesFree s { s with loader := l } := .of_eq rfl

theorem raisesFree_rewriteCalendar : RaisesFree s s.rewriteCalendar := raisesFree_raise s _ _ _

theorem raisesFree_calendarTake (cells : List (Nat × Byte)) : RaisesFree s (s.calendarTake cells) := by
  unfold State.calendarTake
  refine RaisesFree.ite ?_ (.of_eq rfl)
  dsimp only
  split
  · exact raisesFree_rewriteCalendar s
  next d _ =>
    have hmoved := (raisesFree_loader s { s.loader with today := some d }).trans (raisesFree_rewriteCalendar _)
    have hrefused := (raisesFree_rewriteCalendar s).trans
      (raisesFree_loader s.rewriteCalendar { s.loader with result := ⟨.calendarBackward, 0⟩ })
    exact RaisesFree.ite (RaisesFree.ite (hmoved.trans (raisesFree_beginPass _ _)) hmoved)
      (RaisesFree.ite (hrefused.trans (raisesFree_raiseStatus _)) (raisesFree_rewriteCalendar s))

theorem raisesFree_setupWordsTaken (r : Request) : RaisesFree s (s.setupWordsTaken r) := by
  have htake : ∀ (c : Bool) (k : RequestKind) (t : State), RaisesFree t (if c then t.takeRequest k else t) :=
    fun c k t => RaisesFree.ite (raisesFree_takeRequest t k) (.of_eq rfl)
  unfold State.setupWordsTaken
  simp only [List.foldl_cons, List.foldl_nil]
  refine RaisesFree.trans ?_ (htake _ _ _)
  refine RaisesFree.trans ?_ (htake _ _ _)
  refine RaisesFree.trans ?_ (htake _ _ _)
  exact RaisesFree.ite (raisesFree_calendarTake s _) (.of_eq rfl)

/-! ## The words in ascending address order (log 43) -/

theorem setupHandOn_eq (r : Request) : s.setupHandOn r = s.setupWordsTaken r := rfl

theorem grows_pend (k : RequestKind) : Grows s (s.pend k) [.loader, .raised] :=
  Grows.ite (Grows.refl s _) (((onlyParts_loader s _).grows.mono).andThen (grows_startAtOnce _))

theorem grows_takeRequest (k : RequestKind) : Grows s (s.takeRequest k) [.loader, .raised] := by
  unfold State.takeRequest
  split
  · exact Grows.refl s _
  · exact Grows.ite (grows_pend s k) (Grows.refl s _)
  · exact grows_pend s k
  · exact grows_pend s k
  · exact Grows.ite (grows_pend s k) (grows_setResult s _)

theorem grows_sweepRaise (e : Examined) : Grows s (s.sweepRaise e) [.sweep, .raised] :=
  ((onlyParts_sweep s _).grows.mono).andThen (grows_raise _ _ _ _ _)

theorem grows_sweepExamine : Grows s s.sweepExamine [.sweep, .raised] :=
  Grows.ite (Grows.ite (grows_sweepRaise s _) (Grows.ite ((onlyParts_sweep s _).grows.mono) ((onlyParts_sweep s _).grows.mono)))
    (Grows.refl s _)

theorem grows_rewriteCalendar : Grows s s.rewriteCalendar [.raised] := grows_raiseWrite s _ _ _ _
end

/-! ## The response of a write of setup words (R12) -/

/-- Such a write is answered at once, when no own write holds its response. -/
theorem exec_setupWords {s : State} {i : IssuedUp} {c : Instr} {about : State → Request → Bool}
    (h : WriteDownstream s i.up.tag i) (hc : exec c s = .next (s.live (fun s => s.writeAnswered i.up.tag .done about)))
    (ho : about s i.up.req = true) (hfree : NoOwnWriteHolds s i.up.tag) (h1 : s.coversSlots i.up.req = false)
    (h2 : s.coversClose i.up.req = false) (h3 : s.coversCancel i.up.req = false) : exec c s =
      .next ((((s.handedOn i).setupWordsTaken i.up.req).complete i.up.tag ⟨true, []⟩).drain) := by
  have hwrite : i.up.req.write = true := by obtain ⟨-, -, -, hw⟩ := h; exact hw
  have hdesk : (s.handedOn i).deskHandOn i.up = s.handedOn i := deskHandOn_none hwrite h1 h2 h3
  rw [exec_write_done h rfl hc ho, State.handOn, hdesk, setupHandOn_eq,
    respond_free ((raisesFree_setupWordsTaken (s.handedOn i) i.up.req).noOwnWriteHolds hfree)]

/-- What the response leaves of what was taken: the write stands in memory and is answered. -/
theorem setupWords_answered {s t : State} {i : IssuedUp} {ps qs : List Part} (hg : Grows (s.handedOn i) t ps)
    (ho : ∃ o ∈ s.path.outstanding, o.tag = i.up.tag) (hup : Part.upstream ∉ ps := by decide)
    (hmem : Part.memory ∉ ps := by decide) (hp : ∀ p ∈ ps, p ∈ qs := by decide) (hu : Part.upstream ∈ qs := by decide)
    (hm : Part.memory ∈ qs := by decide) :
    (t.complete i.up.tag ⟨true, []⟩).mem = s.mem.writeLanes i.up.req.start i.up.req.lanes ∧
    Answered (t.complete i.up.tag ⟨true, []⟩) i.up.tag ⟨true, []⟩ ∧ OnlyParts s (t.complete i.up.tag ⟨true, []⟩) qs := by
  have hout : t.path.outstanding = s.path.outstanding := by
    obtain ⟨-, -, -, -, -, hout, -⟩ := hg.parts .upstream hup
    exact hout
  have hmemory : (t.complete i.up.tag ⟨true, []⟩).mem = s.mem.writeLanes i.up.req.start i.up.req.lanes :=
    Eq.trans (onlyParts_complete t _ _ .memory (by decide)) (hg.parts .memory hmem)
  refine ⟨hmemory, answered_complete _ _ _ (by rw [hout]; exact ho), ?_⟩
  have hall : OnlyParts s t qs := (onlyParts_handedOn s i).trans hg.parts (by simp [hu, hm]) hp
  exact hall.andThen (onlyParts_complete _ _ _) (by simpa using hu)

theorem grows_complete (t : State) (k : Nat) (a : UpAnswer) : Grows t (t.complete k a) [.upstream] := (onlyParts_complete t k a).grows

theorem ownWaiting_complete (t : State) (k : Nat) (a : UpAnswer) : (t.complete k a).ownWaiting = t.ownWaiting :=
  ownWaiting_of_unchanged (onlyParts_complete t k a .issued (by decide)) (onlyParts_complete t k a .raised (by decide))

/-- A write of one setup word takes that word alone. -/
theorem setupWordsTaken_one {s : State} {r : Request} {w : Nat}
    (hother : ∀ v ∈ [Config.calendarOff, Config.applyOff, Config.formatOff, Config.warmOff], v ≠ w → s.coversWord v r = false)
    (hw : s.coversWord w r = true) :
    (w = Config.calendarOff → s.setupWordsTaken r = s.calendarTake (s.cells r)) ∧
    (∀ k, (k, w) ∈ [(RequestKind.apply, Config.applyOff), (.format, Config.formatOff), (.warmReset, Config.warmOff)] →
      s.setupWordsTaken r = s.takeRequest k) := by
  refine ⟨?_, fun k hk => ?_⟩
  · rintro rfl
    have ha := hother Config.applyOff (by decide) (by decide)
    have hf := hother Config.formatOff (by decide) (by decide)
    have hwm := hother Config.warmOff (by decide) (by decide)
    simp [State.setupWordsTaken, hw, ha, hf, hwm]
  · simp only [List.mem_cons, Prod.mk.injEq, List.not_mem_nil, or_false] at hk
    rcases hk with ⟨rfl, rfl⟩ | ⟨rfl, rfl⟩ | ⟨rfl, rfl⟩
    · have hc := hother Config.calendarOff (by decide) (by decide)
      have hf := hother Config.formatOff (by decide) (by decide)
      have hwm := hother Config.warmOff (by decide) (by decide)
      simp [State.setupWordsTaken, hw, hc, hf, hwm]
    · have hc := hother Config.calendarOff (by decide) (by decide)
      have ha := hother Config.applyOff (by decide) (by decide)
      have hwm := hother Config.warmOff (by decide) (by decide)
      simp [State.setupWordsTaken, hw, hc, ha, hwm]
    · have hc := hother Config.calendarOff (by decide) (by decide)
      have ha := hother Config.applyOff (by decide) (by decide)
      have hf := hother Config.formatOff (by decide) (by decide)
      simp [State.setupWordsTaken, hw, hc, ha, hf]

end Sys2Proof.Machine
end


section
/-! Obligation O55: calendar writes. -/

namespace Sys2Proof.Machine

/-! ## The day a write carries (R157) -/

theorem strobedCells_append (a : Nat) : ∀ (l m : List Lane), strobedCells a (l ++ m) = strobedCells a l ++ strobedCells (a + l.length) m
  | [], m => rfl
  | x :: l, m => by
    have ih := strobedCells_append (a + 1) l m
    rw [List.cons_append, strobedCells, strobedCells, ih, List.length_cons, Nat.add_right_comm, Nat.add_assoc]
    split <;> rfl

theorem length_strobedCells (a : Nat) (ls : List Lane) : (strobedCells a ls).length = ls.countP (fun l => l.strobe) := by
  induction ls generalizing a with
  | nil => rfl
  | cons x ls ih =>
    rw [strobedCells, List.countP_cons]
    cases x.strobe
    · exact ih _
    · rw [if_pos rfl, if_pos rfl, List.length_cons, ih]

theorem strobedCells_bounds {a : Nat} {ls : List Lane} {c : Nat × Byte} (h : c ∈ strobedCells a ls) :
    a ≤ c.1 ∧ c.1 < a + ls.length := by
  obtain ⟨j, l, hj, -, hx, -⟩ := mem_strobedCells.mp (show (c.1, c.2) ∈ strobedCells a ls from h)
  have hlt := (List.getElem?_eq_some_iff.mp hj).1
  omega

/-- The bytes of the calendar word are those of its eight lanes. -/
theorem calendarCells_word {a : Nat} {pre word post : List Lane} (ha : a + pre.length = 3840) (hw : word.length = 8) :
    calendarCells (strobedCells a (pre ++ word ++ post)) = strobedCells 3840 word := by
  have hin : ∀ c : Nat × Byte, (decide (Config.calendarOff ≤ c.1) && decide (c.1 < Config.calendarOff + 8)) = true ↔
      3840 ≤ c.1 ∧ c.1 < 3848 := fun c => by rw [Bool.and_eq_true, decide_eq_true_eq, decide_eq_true_eq]; rfl
  have hpre : (strobedCells a pre).filter
      (fun c => decide (Config.calendarOff ≤ c.1) && decide (c.1 < Config.calendarOff + 8)) = [] :=
    List.filter_eq_nil_iff.mpr (fun c hc => by
      have := strobedCells_bounds hc
      rw [hin]
      omega)
  have hword : (strobedCells 3840 word).filter
      (fun c => decide (Config.calendarOff ≤ c.1) && decide (c.1 < Config.calendarOff + 8)) = strobedCells 3840 word :=
    List.filter_eq_self.mpr (fun c hc => by
      have := strobedCells_bounds hc
      rw [hin]
      omega)
  have hpost : (strobedCells (a + (pre ++ word).length) post).filter
      (fun c => decide (Config.calendarOff ≤ c.1) && decide (c.1 < Config.calendarOff + 8)) = [] :=
    List.filter_eq_nil_iff.mpr (fun c hc => by
      have := strobedCells_bounds hc
      rw [List.length_append] at this
      rw [hin]
      omega)
  rw [calendarCells, strobedCells_append, List.filter_append, hpost, strobedCells_append, ha, List.filter_append, hpre, hword,
    List.nil_append, List.append_nil]

theorem lanes_split {k : Nat} {ls : List Lane} (h : k + 8 ≤ ls.length) : ∃ pre word post : List Lane,
    ls = pre ++ word ++ post ∧ pre.length = k ∧ word.length = 8 ∧ ∀ j < 8, ls.getD (k + j) noLane = word.getD j noLane := by
  refine ⟨ls.take k, (ls.drop k).take 8, (ls.drop k).drop 8, ?_, ?_, ?_, fun j hj => ?_⟩
  · rw [List.append_assoc, List.take_append_drop, List.take_append_drop]
  · rw [List.length_take]; omega
  · rw [List.length_take, List.length_drop]; omega
  · rw [List.getD_eq_getElem?_getD, List.getD_eq_getElem?_getD, List.getElem?_take_of_lt hj, List.getElem?_drop]

theorem calendarDay_whole {cells : List (Nat × Byte)} {word : List Lane} (hc : calendarCells cells = strobedCells 3840 word)
    (hl : word.length = 8) (h : ∀ j < 8, (word.getD j noLane).strobe = true) :
    calendarDay cells = some ((word.getD 0 noLane).value.toNat + 256 * (word.getD 1 noLane).value.toNat) := by
  have hall : ∀ l ∈ word, l.strobe = true := fun l hm => by
    obtain ⟨j, hj, rfl⟩ := List.getElem_of_mem hm
    simpa [List.getD_eq_getElem?_getD, List.getElem?_eq_getElem hj] using h j (hl ▸ hj)
  rw [calendarDay, hc, if_pos (by rw [length_strobedCells, List.countP_eq_length.mpr hall, hl])]
  match word, hl with
  | x :: y :: rest, _ =>
    have hx : x.strobe = true := hall x List.mem_cons_self
    have hy : y.strobe = true := hall y (List.mem_cons_of_mem _ List.mem_cons_self)
    simp [strobedCells, hx, hy, leNat]

theorem calendarDay_part {cells : List (Nat × Byte)} {word : List Lane} (hc : calendarCells cells = strobedCells 3840 word)
    (hl : word.length = 8) {j : Nat} (hj : j < 8) (h : (word.getD j noLane).strobe = false) : calendarDay cells = none := by
  rw [calendarDay, hc, length_strobedCells]
  refine if_neg (fun hn => ?_)
  have hlt : j < word.length := hl ▸ hj
  have hstrobe := List.countP_eq_length.mp (hn.trans hl.symm) word[j] (List.getElem_mem hlt)
  simp [List.getD_eq_getElem?_getD, List.getElem?_eq_getElem hlt, hstrobe] at h

/-! ## A calendar write taken (R157, R158) -/

theorem keepsCalendar_iff (s : State) : s.keepsCalendar = true ↔
    (s.loader.part = .ready ∨ s.loader.part = .unformatted ∨ s.loader.part = .formatting) := decide_eq_true_iff

theorem targetOff_congr {s t : State} (h : t.loader.inForce = s.loader.inForce) (x : Target) : t.targetOff x = s.targetOff x := by
  cases x <;> simp only [State.targetOff, State.regions, h]

/-- The state with a later day taken and the word rewritten. -/
def State.dayMoved (s : State) (d : Nat) : State := ({ s with loader := { s.loader with today := some d } } : State).rewriteCalendar

/-- The state with an earlier day refused, but for its status word. -/
def State.dayRefused (s : State) : State :=
  { s.rewriteCalendar with loader := { s.loader with result := ⟨.calendarBackward, 0⟩ } }

section
variable {s : State} {cells : List (Nat × Byte)}

theorem calendarTake_idle (h : s.loader.part = .unset ∨ s.loader.part = .starting) : s.calendarTake cells = s := by
  refine if_neg (fun hk => ?_)
  rcases h with h | h <;> simp [keepsCalendar_iff, h] at hk

section
variable {now : Nat} (hnow : s.loader.today = some now)
  (hkeeps : s.loader.part = .ready ∨ s.loader.part = .unformatted ∨ s.loader.part = .formatting)
include hnow hkeeps

theorem calendarTake_forward {d : Nat} (hd : calendarDay cells = some d) (hlt : now < d) :
    s.calendarTake cells = if s.loader.part = .ready then (s.dayMoved d).beginPass d else s.dayMoved d := by
  have hday : s.loader.today.getD 0 < d := by rw [hnow]; exact hlt
  simp only [State.calendarTake, (keepsCalendar_iff s).mpr hkeeps, if_true, hd, if_pos hday]
  rfl

theorem calendarTake_backward {d : Nat} (hd : calendarDay cells = some d) (hlt : d < now) :
    s.calendarTake cells = s.dayRefused.raiseStatus := by
  have hday : d < s.loader.today.getD 0 := by rw [hnow]; exact hlt
  simp only [State.calendarTake, (keepsCalendar_iff s).mpr hkeeps, if_true, hd, if_neg (Nat.lt_asymm hday), if_pos hday]
  rfl

theorem calendarTake_stands (hd : calendarDay cells = some now ∨ calendarDay cells = none) :
    s.calendarTake cells = s.rewriteCalendar := by
  have hday : s.loader.today.getD 0 = now := by rw [hnow]; rfl
  rcases hd with hd | hd <;>
    simp only [State.calendarTake, (keepsCalendar_iff s).mpr hkeeps, if_true, hd, hday, Nat.lt_irrefl, if_false]
end
end

theorem awaits_rewriteCalendar {s : State} {now : Nat} (hnow : s.loader.today = some now) :
    Awaits s.rewriteCalendar .calendar Config.calendarOff (.write (lanesOf (leBytes 2 now ++ zeros 6))) := by
  have hday : leBytes 2 now ++ zeros 6 = encodeCalendar (s.loader.today.getD 0) := by rw [hnow]; rfl
  rw [hday]
  exact awaits_raise _ _ _ _ _

section
variable (s : State) (d : Nat)

theorem dayMoved_spec : (s.dayMoved d).loader = { s.loader with today := some d } ∧
    Awaits (s.dayMoved d) .calendar Config.calendarOff (.write (lanesOf (leBytes 2 d ++ zeros 6))) ∧
    Grows s (s.dayMoved d) [.loader, .raised] :=
  ⟨raise_loader _ _ _ _ _, awaits_raise _ _ _ _ _, ((onlyParts_loader s _).grows.mono).andThen (grows_rewriteCalendar _)⟩

theorem dayRefused_spec {now : Nat} (hnow : s.loader.today = some now) :
    s.dayRefused.raiseStatus.loader = { s.loader with result := ⟨.calendarBackward, 0⟩ } ∧
    Awaits s.dayRefused.raiseStatus .calendar Config.calendarOff (.write (lanesOf (leBytes 2 now ++ zeros 6))) ∧
    StatusRaised s.dayRefused.raiseStatus s.loader.part ⟨.calendarBackward, 0⟩ s.loader.faults ∧
    Grows s s.dayRefused.raiseStatus [.loader, .raised] := by
  have hrefused : Grows s.rewriteCalendar s.dayRefused [.loader] := (onlyParts_loader _ _).grows
  exact ⟨raiseStatus_loader _ _, ((awaits_rewriteCalendar hnow).grows hrefused).grows (grows_raiseStatus _), statusRaised_raiseStatus _,
    (((grows_rewriteCalendar s).mono).andThen hrefused).andThen (grows_raiseStatus _)⟩
end

/-! ## A pass begins (R160, R164, R167) -/

/-- The state as a pass begins, before its first read. -/
def State.passBegun (s : State) (g : Nat) : State :=
  { s with
    engine := { s.engine with unit := s.engine.unit.map WorkUnit.unreported }
    sweep := { s.sweep with phase := .items, target := g, position := 0, offer := s.offerKept, reading := none } }

theorem beginPass_eq (s : State) (g : Nat) : s.beginPass g = (s.passBegun g).sweepExamine := rfl

theorem grows_passBegun (s : State) (g : Nat) : Grows s (s.passBegun g) [.engine, .sweep] := by
  refine OnlyParts.grows (fun p hp => ?_)
  cases p <;> simp [Unchanged, State.passBegun] at hp ⊢

theorem sweepUnitBegun_false {s : State} (h : ∀ u o, s.engine.unit = some u → u.kind ≠ .sweep o) : s.sweepUnitBegun = false := by
  unfold State.sweepUnitBegun
  cases hu : s.engine.unit with
  | none => rfl
  | some u =>
    rw [Option.any_some]
    split
    next o hk => exact absurd hk (h u o hu)
    next => rfl

theorem sweepUnitBegun_true {s : State} {u : WorkUnit} {o : Offer} (hu : s.engine.unit = some u) (hk : u.kind = .sweep o) :
    s.sweepUnitBegun = true := by
  unfold State.sweepUnitBegun
  rw [hu, Option.any_some, hk]

theorem sweepReading_false_iff (s : State) : s.sweepReading = false ↔ ∀ q ∈ s.ownWaiting, q.tag ≠ .sweepRead := by
  simp [State.sweepReading]

/-- Within a region, the step of a pass at most raises the read of the next record. -/
theorem sweepExamine_within {s : State} (h : s.sweep.position < s.regionCount s.sweep.phase.region) :
    ∃ x, s.sweepExamine.sweep = { s.sweep with reading := x } := by
  cases hmay : s.sweepMayRead with
  | false => rw [sweepExamine_stays hmay]; exact ⟨_, rfl⟩
  | true =>
    rw [sweepExamine_reads hmay h]
    obtain ⟨hsweep, -, -⟩ := sweepRaise_spec s (if s.sweep.phase = .holds then .hold s.sweep.position else .item s.sweep.position)
    exact ⟨_, hsweep⟩

/-- A pass with target `g` opens at `t` (R160, R164). -/
structure PassOpens (s t : State) (g : Nat) : Prop where
  phase : t.sweep.phase = .items
  target : t.sweep.target = g
  position : t.sweep.position = 0
  swept : t.sweep.sweptThrough = s.sweep.sweptThrough
  skipped : t.sweep.skipped = s.sweep.skipped
  offer : t.sweep.offer = s.offerKept
  units : t.engine = { s.engine with unit := s.engine.unit.map WorkUnit.unreported }

section
variable {s : State} {g : Nat} (hcount : 0 < s.regionCount .items)
include hcount

theorem beginPass_spec : PassOpens s (s.beginPass g) g := by
  obtain ⟨x, hx⟩ := sweepExamine_within (s := s.passBegun g) hcount
  have hengine : (s.passBegun g).sweepExamine.engine = (s.passBegun g).engine := (grows_sweepExamine _).parts .engine (by decide)
  rw [beginPass_eq]
  exact ⟨congrArg Sweep.phase hx, congrArg Sweep.target hx, congrArg Sweep.position hx, (congrArg Sweep.sweptThrough hx :),
    (congrArg Sweep.skipped hx :), congrArg Sweep.offer hx, hengine⟩

/-- Without a sweep unit begun, the first record is read at once. -/
theorem beginPass_reads (hpart : s.loader.part = .ready) (hunit : ∀ u o, s.engine.unit = some u → u.kind ≠ .sweep o)
    (hrun : s.engine.running = true) (hstop : s.sweep.stopped = false) (hwait : s.sweepReading = false) :
    Awaits (s.beginPass g) .sweepRead (s.targetOff (.record .items 0)) (.read 64) := by
  have hoffer : s.offerKept = none := by rw [State.offerKept, sweepUnitBegun_false hunit]; rfl
  have hmay : (s.passBegun g).sweepMayRead = true := sweepMayRead_iff.mpr ⟨hpart, hrun, hstop, nofun, hoffer, rfl, hwait⟩
  obtain ⟨-, hawaits, -⟩ := sweepRaise_spec (s.passBegun g) (.item 0)
  rw [beginPass_eq, sweepExamine_reads hmay hcount, if_neg nofun]
  exact hawaits

end

/-- Behind a sweep unit begun, nothing is read. -/
theorem beginPass_waits {s : State} {g : Nat} {u : WorkUnit} {o : Offer} (hu : s.engine.unit = some u) (hk : u.kind = .sweep o)
    (hoffer : s.sweep.offer ≠ none) : (s.beginPass g).sweep.offer = s.sweep.offer ∧ (s.beginPass g).sweep.reading = none ∧
      (s.beginPass g).ownWaiting = s.ownWaiting := by
  have hkept : s.offerKept = s.sweep.offer := by rw [State.offerKept, sweepUnitBegun_true hu hk]; rfl
  have hmay : (s.passBegun g).sweepMayRead = false := Bool.eq_false_iff.mpr (fun hm => by
    obtain ⟨-, -, -, -, hnone, -⟩ := sweepMayRead_iff.mp hm
    exact hoffer (hkept.symm.trans hnone))
  rw [beginPass_eq, sweepExamine_stays hmay]
  exact ⟨hkept, rfl, rfl⟩

theorem grows_beginPass (s : State) (g : Nat) : Grows s (s.beginPass g) [.engine, .sweep, .raised] :=
  ((grows_passBegun s g).mono).andThen (grows_sweepExamine _)

/-- The word rewritten is no read of the sweep. -/
theorem sweepRead_dayMoved {s : State} {d : Nat} {q : OwnReq} (hq : q ∈ (s.dayMoved d).ownWaiting) (ht : q.tag = .sweepRead) :
    q ∈ s.ownWaiting := by
  rcases (mem_ownWaiting_raise_iff _ _ _ _ _ q).mp hq with h | h
  · exact h
  · rw [h] at ht
    exact absurd ht nofun

/-! ## The obligation -/

section
variable {s : State} {i : IssuedUp} (h : SetupWrite s i.up.tag i Config.calendarOff)
include h

theorem exec_calendarWrite : exec (.calendarWrite i.up.tag .done) s =
    .next ((((s.handedOn i).calendarTake (s.cells i.up.req)).complete i.up.tag ⟨true, []⟩).drain) := by
  obtain ⟨hdown, -, hcovers, hother, hslots, hclose, hcancel, hfree, -⟩ := h
  obtain ⟨hcalendar, -⟩ := setupWordsTaken_one (s := s.handedOn i) hother hcovers
  rw [exec_setupWords hdown rfl hcovers hfree hslots hclose hcancel, hcalendar rfl]
  rfl

theorem calendarWrite_answered {t : State} {ps qs : List Part} (hg : Grows (s.handedOn i) t ps) (hup : Part.upstream ∉ ps := by decide)
    (hmem : Part.memory ∉ ps := by decide) (hp : ∀ p ∈ ps, p ∈ qs := by decide) (hu : Part.upstream ∈ qs := by decide)
    (hm : Part.memory ∈ qs := by decide) :
    (t.complete i.up.tag ⟨true, []⟩).mem = s.mem.writeLanes i.up.req.start i.up.req.lanes ∧
    Answered (t.complete i.up.tag ⟨true, []⟩) i.up.tag ⟨true, []⟩ ∧ OnlyParts s (t.complete i.up.tag ⟨true, []⟩) qs := by
  obtain ⟨-, -, -, -, -, -, -, -, hout⟩ := h
  exact setupWords_answered hg hout hup hmem hp hu hm
end

/-- What a later day leaves, whatever the part state. -/
theorem grows_calendarTake (s : State) (cells : List (Nat × Byte)) :
    Grows s (s.calendarTake cells) [.raised, .loader, .sweep, .engine] := by
  unfold State.calendarTake
  refine Grows.ite ?_ (Grows.refl s _)
  dsimp only
  split
  · exact (grows_rewriteCalendar s).mono
  next d _ =>
    obtain ⟨-, -, hmoved⟩ := dayMoved_spec s d
    have hrefused : Grows s s.dayRefused [.raised, .loader, .sweep, .engine] :=
      ((grows_rewriteCalendar s).mono).andThen (onlyParts_loader s.rewriteCalendar _).grows
    exact Grows.ite (Grows.ite (hmoved.mono.andThen (grows_beginPass _ d)) hmoved.mono)
      (Grows.ite (hrefused.andThen (grows_raiseStatus _)) ((grows_rewriteCalendar s).mono))

section
variable {s : State} {cells : List (Nat × Byte)} {now d : Nat} (hnow : s.loader.today = some now)
  (hd : calendarDay cells = some d) (hlt : now < d)
include hnow hd hlt

theorem calendarTake_moves
    (hkeeps : s.loader.part = .ready ∨ s.loader.part = .unformatted ∨ s.loader.part = .formatting) :
    (s.calendarTake cells).loader = { s.loader with today := some d } ∧
    Awaits (s.calendarTake cells) .calendar Config.calendarOff (.write (lanesOf (leBytes 2 d ++ zeros 6))) ∧
    (s.loader.part ≠ .ready → (s.calendarTake cells).sweep = s.sweep ∧ (s.calendarTake cells).engine = s.engine) := by
  obtain ⟨hloader, hword, hmoved⟩ := dayMoved_spec s d
  rw [calendarTake_forward hnow hkeeps hd hlt]
  by_cases hready : s.loader.part = .ready
  · have hgrows := grows_beginPass (s.dayMoved d) d
    rw [if_pos hready]
    exact ⟨Eq.trans (hgrows.parts .loader (by decide)) hloader, hword.grows hgrows, fun hn => absurd hready hn⟩
  · rw [if_neg hready]
    exact ⟨hloader, hword, fun _ => ⟨hmoved.parts .sweep (by decide), hmoved.parts .engine (by decide)⟩⟩

theorem calendarTake_passes (hready : s.loader.part = .ready) (hcount : 0 < s.regionCount .items) :
    (s.calendarTake cells).sweep.phase = .items ∧ (s.calendarTake cells).sweep.target = d ∧
    (s.calendarTake cells).sweep.position = 0 ∧ (s.calendarTake cells).sweep.sweptThrough = s.sweep.sweptThrough ∧
    (s.calendarTake cells).sweep.skipped = s.sweep.skipped ∧
    (s.calendarTake cells).engine = { s.engine with unit := s.engine.unit.map WorkUnit.unreported } ∧
    ((∀ u o, s.engine.unit = some u → u.kind ≠ .sweep o) → (s.calendarTake cells).sweep.offer = none ∧
      (s.engine.running = true → s.sweep.stopped = false → s.sweepReading = false →
        Awaits (s.calendarTake cells) .sweepRead (s.targetOff (.record .items 0)) (.read 64))) ∧
    (∀ u o, s.engine.unit = some u → u.kind = .sweep o → s.sweep.offer ≠ none →
      (s.calendarTake cells).sweep.offer = s.sweep.offer ∧ (s.calendarTake cells).sweep.reading = none ∧
        ∀ q ∈ (s.calendarTake cells).ownWaiting, q.tag = .sweepRead → q ∈ s.ownWaiting) := by
  obtain ⟨hloader, -, hmoved⟩ := dayMoved_spec s d
  have hsweep : (s.dayMoved d).sweep = s.sweep := hmoved.parts .sweep (by decide)
  have hengine : (s.dayMoved d).engine = s.engine := hmoved.parts .engine (by decide)
  have hforce : (s.dayMoved d).loader.inForce = s.loader.inForce := by rw [hloader]
  have hcount' : 0 < (s.dayMoved d).regionCount .items := by rw [regionCount_congr hforce]; exact hcount
  obtain ⟨hphase, htarget, hposition, hswept, hskipped, hoffer, hunits⟩ := beginPass_spec (g := d) hcount'
  rw [hsweep] at hswept hskipped
  rw [hengine] at hunits
  rw [calendarTake_forward hnow (.inl hready) hd hlt, if_pos hready]
  refine ⟨hphase, htarget, hposition, hswept, hskipped, hunits, fun hunit => ⟨?_, fun hrun hstop hwait => ?_⟩,
    fun u o hu hk hstands => ?_⟩
  · rw [hoffer, State.offerKept, sweepUnitBegun_false (by rw [hengine]; exact hunit)]
    rfl
  · rw [← targetOff_congr hforce]
    exact beginPass_reads hcount' (by rw [hloader]; exact hready) (by rw [hengine]; exact hunit) (by rw [hengine]; exact hrun)
      (by rw [hsweep]; exact hstop) ((sweepReading_false_iff _).mpr (fun q hq ht =>
        (sweepReading_false_iff s).mp hwait q (sweepRead_dayMoved hq ht) ht))
  · obtain ⟨hkept, hnone, hwaiting⟩ := beginPass_waits (g := d) (by rw [hengine]; exact hu) hk (by rw [hsweep]; exact hstands)
    rw [hsweep] at hkept
    exact ⟨hkept, hnone, fun q hq ht => sweepRead_dayMoved (hwaiting ▸ hq) ht⟩
end

/-- Settles O55: the day a write carries by its lanes, and each verdict by what it takes. -/
theorem calendarWritesAreJudged : Obligations.CalendarWritesAreJudged := by
  unfold Obligations.CalendarWritesAreJudged
  refine ⟨fun a k ls ha hl => ?_, fun s tag i h => ?_⟩
  · obtain ⟨pre, word, post, rfl, rfl, hword, hget⟩ := lanes_split hl
    have hcells := calendarCells_word (post := post) ha hword
    refine ⟨fun hall => ?_, fun ⟨j, hj, hno⟩ => calendarDay_part hcells hword hj (by rw [← hget j hj]; exact hno)⟩
    rw [calendarDay_whole hcells hword (fun j hj => by rw [← hget j hj]; exact hall j hj), ← hget 0 (by decide),
      ← hget 1 (by decide)]
    rfl
  · obtain rfl : i.up.tag = tag := by obtain ⟨-, htag, -⟩ := h; exact htag
    obtain ⟨hmem, hanswered, hparts⟩ := calendarWrite_answered (qs := [.memory, .upstream, .raised, .loader, .sweep, .engine]) h
      (grows_calendarTake (s.handedOn i) (s.cells i.up.req))
    refine ⟨_, exec_calendarWrite h, hmem, hanswered, fun hidle => ?_, fun now hnow hkeeps => ⟨fun d hd hlt => ?_,
      fun d hd hlt => ?_, fun hd => ?_⟩⟩
    · rw [calendarTake_idle (s := s.handedOn i) hidle]
      obtain ⟨-, -, hparts⟩ := calendarWrite_answered (qs := [.memory, .upstream]) h (Grows.refl (s.handedOn i) [])
      exact hparts
    · obtain ⟨hloader, hword, hother⟩ := calendarTake_moves (s := s.handedOn i) hnow hd hlt hkeeps
      refine ⟨(complete_loader _ _ _).trans hloader, hword.grows (grows_complete _ _ _), hparts, ?_, fun hready hcount => ?_⟩
      · rw [complete_sweep, complete_engine]
        exact hother
      · obtain ⟨hphase, htarget, hposition, hswept, hskipped, hunits, hreads, hwaits⟩ :=
          calendarTake_passes (s := s.handedOn i) hnow hd hlt hready hcount
        rw [complete_sweep, complete_engine, ownWaiting_complete]
        exact ⟨hphase, htarget, hposition, hswept, hskipped, hunits, fun hunit => ⟨(hreads hunit).1, fun hrun hstop hwait =>
          ((hreads hunit).2 hrun hstop hwait).grows (grows_complete _ _ _)⟩, hwaits⟩
    · rw [calendarTake_backward (s := s.handedOn i) hnow hkeeps hd hlt]
      obtain ⟨hloader, hword, hstatus, hgrows⟩ := dayRefused_spec (s.handedOn i) hnow
      obtain ⟨-, -, hparts⟩ := calendarWrite_answered (qs := [.memory, .upstream, .raised, .loader]) h hgrows
      exact ⟨(complete_loader _ _ _).trans hloader, hword.grows (grows_complete _ _ _), hstatus.grows (grows_complete _ _ _), hparts⟩
    · rw [calendarTake_stands (s := s.handedOn i) hnow hkeeps hd]
      obtain ⟨-, -, hparts⟩ := calendarWrite_answered (qs := [.memory, .upstream, .raised]) h (grows_rewriteCalendar (s.handedOn i))
      exact ⟨(awaits_rewriteCalendar (s := s.handedOn i) hnow).grows (grows_complete _ _ _), hparts⟩

end Sys2Proof.Machine
end


section
/-! Obligation O56: apply, format and warm reset requests. -/

namespace Sys2Proof.Machine

/-! ## A request taken (R172) -/

section
variable {s : State} {k : RequestKind}

theorem takeRequest_starting (h : s.loader.part = .starting) : s.takeRequest k = s := by simp only [State.takeRequest, h]

theorem takeRequest_unset (h : s.loader.part = .unset) (hk : k ≠ .apply) : s.takeRequest k = s := by
  simp only [State.takeRequest, h, if_neg hk]

theorem takeRequest_busy (h : s.loader.part = .formatting) (hk : k ≠ .warmReset) : s.takeRequest k = s.setResult ⟨.busy, 0⟩ := by
  simp only [State.takeRequest, h, if_neg hk]

/-- Where a request of the kind joins the pending list. -/
def PendsRequest (s : State) (k : RequestKind) : Prop :=
  s.loader.part = .ready ∨ s.loader.part = .unformatted ∨ (s.loader.part = .unset ∧ k = .apply) ∨
    (s.loader.part = .formatting ∧ k = .warmReset)

theorem takeRequest_pends (h : PendsRequest s k) : s.takeRequest k = s.pend k := by
  rcases h with h | h | ⟨h, rfl⟩ | ⟨h, rfl⟩ <;> simp [State.takeRequest, h]

theorem pend_again (h : k ∈ s.loader.requests) : s.pend k = s := if_pos h

theorem pend_loader (h : k ∉ s.loader.requests) : (s.pend k).loader =
    if s.loader.part = .unset ∨ s.loader.part = .unformatted then
      ({ s.loader with requests := s.loader.requests ++ [k] } : Loader).begun
    else { s.loader with requests := s.loader.requests ++ [k] } := by
  rw [State.pend, if_neg h]
  by_cases hp : s.loader.part = .unset ∨ s.loader.part = .unformatted
  · rw [if_pos hp]
    exact startAtOnce_loader (s := { s with loader := { s.loader with requests := s.loader.requests ++ [k] } }) hp
  · obtain ⟨h1, h2⟩ := not_or.mp hp
    rw [if_neg hp]
    exact congrArg State.loader
      (startAtOnce_of_other (s := { s with loader := { s.loader with requests := s.loader.requests ++ [k] } }) h1 h2)

/-- A request alone, with nothing under way, is begun by the read of the region table. -/
theorem pend_begins (hp : s.loader.part = .unset ∨ s.loader.part = .unformatted) (hj : s.loader.job = .idle)
    (hr : s.loader.requests = []) (hk : k ≠ .warmReset) :
    s.pend k = ({ s with loader := { s.loader with requests := [] } } : State).readPart k .regions [] := by
  have hnot : k ∉ s.loader.requests := by rw [hr]; exact List.not_mem_nil
  rw [State.pend, if_neg hnot, State.startAtOnce, if_pos hp, hr]
  cases k with
  | apply => simp [State.startRequest, hj]
  | format => simp [State.startRequest, hj]
  | warmReset => exact absurd rfl hk
end

theorem begun_of_busy {l : Loader} (h : l.job ≠ .idle) : l.begun = l := by
  unfold Loader.begun
  split
  next hj _ => exact absurd hj h
  next => rfl

theorem begun_of_warmReset {l : Loader} {rs : List RequestKind} (h : l.requests = .warmReset :: rs) : l.begun = l := by
  unfold Loader.begun
  split
  next k ks _ hr =>
    obtain rfl : k = .warmReset := (List.cons.inj (hr.symm.trans h)).1
    rfl
  next => rfl

theorem statusRaised_setResult {s : State} {r : SetupResult} (h : s.loader.result ≠ r) :
    StatusRaised (s.setResult r) s.loader.part r s.loader.faults := by
  rw [State.setResult, if_neg h]
  exact statusRaised_raiseStatus _

/-- What a request leaves in the loader: refused, kept in the list, or begun. -/
theorem takeRequest_spec (s : State) (k : RequestKind) :
    (s.loader.part = .starting → (s.takeRequest k).loader = s.loader) ∧
    (s.loader.part = .unset → k ≠ .apply → (s.takeRequest k).loader = s.loader) ∧
    (s.loader.part = .formatting → k ≠ .warmReset →
      (s.takeRequest k).loader = { s.loader with result := ⟨.busy, 0⟩ } ∧
      (s.loader.result ≠ ⟨.busy, 0⟩ → StatusRaised (s.takeRequest k) .formatting ⟨.busy, 0⟩ s.loader.faults)) ∧
    ((s.loader.part = .ready ∨ (s.loader.part = .formatting ∧ k = .warmReset) ∨
        (s.loader.part = .unformatted ∧ (k = .warmReset ∨ s.loader.job ≠ .idle)) ∨
        (s.loader.part = .unset ∧ k = .apply ∧ s.loader.job ≠ .idle)) →
      (k ∈ s.loader.requests → (s.takeRequest k).loader = s.loader) ∧
      (k ∉ s.loader.requests → (s.loader.part = .unformatted → s.loader.job = .idle → s.loader.requests = []) →
        (s.takeRequest k).loader = { s.loader with requests := s.loader.requests ++ [k] })) ∧
    ((s.loader.part = .unformatted ∧ k ≠ .warmReset ∨ s.loader.part = .unset ∧ k = .apply) →
      s.loader.job = .idle → s.loader.requests = [] →
      (s.takeRequest k).loader = { s.loader with job := .reading k .regions [] } ∧
        Awaits (s.takeRequest k) .setupRead 0 (.read 40)) := by
  refine ⟨fun h => by rw [takeRequest_starting h], fun h hk => by rw [takeRequest_unset h hk], fun h hk => ?_, fun h => ?_,
    fun h hj hr => ?_⟩
  · rw [takeRequest_busy h hk]
    exact ⟨setResult_loader _ _, fun hres => h ▸ statusRaised_setResult hres⟩
  · have hpends : PendsRequest s k := by
      rcases h with h | h | ⟨h, -⟩ | ⟨h, hk, -⟩
      · exact .inl h
      · exact .inr (.inr (.inr h))
      · exact .inr (.inl h)
      · exact .inr (.inr (.inl ⟨h, hk⟩))
    rw [takeRequest_pends hpends]
    refine ⟨fun hin => by rw [pend_again hin], fun hin halone => ?_⟩
    rw [pend_loader hin]
    rcases h with h | ⟨h, -⟩ | ⟨h, hk⟩ | ⟨h, -, hj⟩
    · rw [if_neg (by simp [h])]
    · rw [if_neg (by simp [h])]
    · rw [if_pos (.inr h)]
      by_cases hj : s.loader.job = .idle
      · have hwarm : k = .warmReset := hk.resolve_right (not_not_intro hj)
        refine begun_of_warmReset (rs := []) ?_
        rw [halone h hj, hwarm]
        rfl
      · exact begun_of_busy hj
    · rw [if_pos (.inl h)]
      exact begun_of_busy hj
  · have hpends : PendsRequest s k := by
      rcases h with ⟨h, -⟩ | h
      · exact .inr (.inl h)
      · exact .inr (.inr (.inl h))
    have hpart : s.loader.part = .unset ∨ s.loader.part = .unformatted := h.elim (fun h => .inr h.1) (fun h => .inl h.1)
    have hk : k ≠ .warmReset := h.elim (fun h => h.2) (fun h => by rw [h.2]; nofun)
    rw [takeRequest_pends hpends, pend_begins hpart hj hr hk]
    refine ⟨?_, awaits_raise _ _ _ _ _⟩
    rw [readPart_eq_begun]
    show ({ s.loader with requests := [], job := .reading k .regions [] } : Loader) =
      { s.loader with requests := s.loader.requests, job := .reading k .regions [] }
    rw [hr]

/-! ## The commands -/

/-- Each command that answers a write is that answer, asked of its own part. -/
theorem exec_writeCommand {s : State} {k : Nat} {a : Answer} {x : Instr × (State → Request → Bool)} (hx : x ∈ writeCommands k a) :
    exec x.1 s = .next (s.live (fun s => s.writeAnswered k a x.2)) := by
  simp only [writeCommands, List.mem_cons, List.not_mem_nil, or_false] at hx
  rcases hx with rfl | rfl | rfl | rfl | rfl | rfl | rfl <;> rfl

/-- The command of a request is the answer of the write of its word. -/
theorem request_writeCommand {c : Instr} {k : RequestKind} {w tag : Nat} {a : Answer}
    (h : (c, k, w) ∈ [(Instr.applyRequest tag a, RequestKind.apply, Config.applyOff),
      (.formatRequest tag a, .format, Config.formatOff), (.warmResetRequest tag a, .warmReset, Config.warmOff)]) :
    (c, fun s r => s.coversWord w r) ∈ writeCommands tag a ∧
      (k, w) ∈ [(RequestKind.apply, Config.applyOff), (.format, Config.formatOff), (.warmReset, Config.warmOff)] := by
  simp only [List.mem_cons, Prod.mk.injEq, List.not_mem_nil, or_false] at h
  rcases h with ⟨rfl, rfl, rfl⟩ | ⟨rfl, rfl, rfl⟩ | ⟨rfl, rfl, rfl⟩ <;> simp [writeCommands]

theorem exec_request {s : State} {i : IssuedUp} {c : Instr} {k : RequestKind} {w : Nat}
    (hc : (c, k, w) ∈ [(Instr.applyRequest i.up.tag .done, RequestKind.apply, Config.applyOff),
      (.formatRequest i.up.tag .done, .format, Config.formatOff), (.warmResetRequest i.up.tag .done, .warmReset, Config.warmOff)])
    (h : SetupWrite s i.up.tag i w) :
    exec c s = .next ((((s.handedOn i).takeRequest k).complete i.up.tag ⟨true, []⟩).drain) := by
  obtain ⟨hcommand, hk⟩ := request_writeCommand hc
  obtain ⟨hdown, -, hcovers, hother, hslots, hclose, hcancel, hfree, -⟩ := h
  obtain ⟨-, htake⟩ := setupWordsTaken_one (s := s.handedOn i) hother hcovers
  rw [exec_setupWords hdown (exec_writeCommand hcommand) hcovers hfree hslots hclose hcancel, htake k hk]

/-- The command that answers a setup word's write with an error. -/
theorem setupError_writeCommand {c : Instr} {w tag n : Nat}
    (h : (c, w) ∈ [(Instr.calendarWrite tag (.error n), Config.calendarOff), (.applyRequest tag (.error n), Config.applyOff),
      (.formatRequest tag (.error n), Config.formatOff), (.warmResetRequest tag (.error n), Config.warmOff)]) :
    (c, fun s r => s.coversWord w r) ∈ writeCommands tag (.error n) := by
  simp only [List.mem_cons, Prod.mk.injEq, List.not_mem_nil, or_false] at h
  rcases h with ⟨rfl, rfl⟩ | ⟨rfl, rfl⟩ | ⟨rfl, rfl⟩ | ⟨rfl, rfl⟩ <;> simp [writeCommands]

/-- Settles O56: the request by part state, and the response by what the write covers. -/
theorem setupRequestsAreTaken : Obligations.SetupRequestsAreTaken := by
  unfold Obligations.SetupRequestsAreTaken
  refine ⟨fun s tag i c k w hc h => ?_, fun s tag i h htag => ⟨fun a x hx y hy hcx hcy => ?_,
    fun x hx hcx hfree hslots hclose hcancel => ?_⟩, fun s k => ⟨(grows_takeRequest s k).parts, ?_,
    fun hp hk => by rw [takeRequest_busy hp hk, setResult_loader], fun hp => ⟨fun hin => ?_, fun hin => ?_⟩⟩,
    fun s tag n i c w hc h => ?_⟩
  · obtain rfl : i.up.tag = tag := by obtain ⟨-, htag, -⟩ := h; exact htag
    have hexec := exec_request (hc .done) h
    obtain ⟨-, -, -, -, -, -, -, -, hout⟩ := h
    obtain ⟨hmem, hanswered, hparts⟩ := setupWords_answered (qs := [.memory, .upstream, .loader, .raised])
      (grows_takeRequest (s.handedOn i) k) hout
    obtain ⟨hstarting, hunset, hbusy, hlist, hbegun⟩ := takeRequest_spec (s.handedOn i) k
    refine ⟨_, hexec, hmem, hanswered, hparts, ?_⟩
    rw [complete_loader]
    refine ⟨hstarting, hunset, fun hp hk => ?_, hlist, fun hp hj hr => ?_⟩
    · obtain ⟨hloader, hstatus⟩ := hbusy hp hk
      exact ⟨hloader, fun hres => (hstatus hres).grows (grows_complete _ _ _)⟩
    · obtain ⟨hloader, hread⟩ := hbegun hp hj hr
      exact ⟨hloader, hread.grows (grows_complete _ _ _)⟩
  · rw [exec_writeAnswered h (exec_writeCommand hx) hcx, exec_writeAnswered h (exec_writeCommand hy) hcy]
  · subst htag
    exact exec_setupWords h (exec_writeCommand hx) hcx hfree hslots hclose hcancel
  · rintro (hp | ⟨hp, hk⟩)
    · exact takeRequest_starting hp
    · exact takeRequest_unset hp hk
  · rw [takeRequest_pends hp, pend_again hin]
  · rw [takeRequest_pends hp, pend_loader hin]
  · obtain ⟨hdown, rfl, hcovers, -, -, -, -, -, hout⟩ := h
    refine ⟨_, (exec_writeAnswered hdown (exec_writeCommand (setupError_writeCommand hc)) hcovers).trans
      (congrArg _ (writeBack_error s i n)), answered_answeredUp _ _ _ _ hout, rfl, (onlyParts_answeredUp _ _ _ _).mono (by decide)⟩

end Sys2Proof.Machine
end


section
/-! Obligation O57, refuted: a block whose cells are not in the canonical form of memory. -/

namespace Sys2Proof.Machine

/-- A block that lists byte 100 in front of byte 0. The obligation ranges over it, for it asks no canonical form of a block. -/
def unsortedBlock : Memory := [(100, 1), (0, 7)]

/-- Canonical memory lists no zero byte, so writing zero to byte 0 in front of byte 100 leaves the cells as they are, and the later
cell of byte 0 is read. -/
theorem read_addPart_unsortedBlock : (addPart unsortedBlock .regions (zeros 40)).read 0 = 7 := by decide

theorem bytes_head (m : Memory) (a n : Nat) : (m.bytes a (n + 1)).head? = some (m.read a) := rfl

/-- Refutes O57: the region table read as zeros into `unsortedBlock` does not read back, its first byte stays 7. -/
theorem not_setupBlockIsReadAndValidated : ¬ Obligations.SetupBlockIsReadAndValidated := by
  unfold Obligations.SetupBlockIsReadAndValidated
  rintro ⟨-, -, -, hparts, -⟩
  obtain ⟨hbytes, -⟩ := hparts unsortedBlock .regions (zeros 40) rfl
  have hfirst := bytes_head (addPart unsortedBlock .regions (zeros 40)) 0 39
  rw [read_addPart_unsortedBlock] at hfirst
  have hzero : some (0 : Byte) = some 7 := (congrArg List.head? hbytes).symm.trans hfirst
  exact absurd hzero (by decide)

end Sys2Proof.Machine
end


section
/-! A fold over all streams, each of which changes its own entry: what one stream's turn leaves, and what becomes of the Commit Queue and
the current batch. For O58 and O60. -/

namespace Sys2Proof.Machine

/-! ## One stream's turn -/

section
variable {ps : List Part} {f : State → StreamId → State}

theorem onlyStreams_foldl (honly : ∀ x m, OnlyStreams x (f x m) [m]) : ∀ (l : List StreamId) (s : State),
    OnlyStreams s (l.foldl f s) l
  | [], _ => fun _ _ => rfl
  | n :: l, s => fun m hm => by
    obtain ⟨hn, hl⟩ := not_or.mp (fun h => hm (List.mem_cons.mpr h))
    rw [List.foldl_cons, onlyStreams_foldl honly l (f s n) m hl]
    exact honly s n m (by simpa using hn)

/-- The state a stream meets at its turn has its entry as it was, and what its turn leaves in the entry stands at the end. -/
theorem foldl_turn (hgrow : ∀ x m, Grows x (f x m) ps) (honly : ∀ x m, OnlyStreams x (f x m) [m]) (s : State) (n : StreamId) :
    ∃ x, Grows s x ps ∧ x.stream n = s.stream n ∧ Grows (f x n) (allStreams.foldl f s) ps ∧
      (allStreams.foldl f s).stream n = (f x n).stream n := by
  obtain ⟨pre, post, hsplit⟩ := List.append_of_mem (mem_allStreams n)
  have hnodup : (pre ++ n :: post).Nodup := hsplit ▸ allStreams_nodup
  have hpre : n ∉ pre := fun hm => List.disjoint_of_nodup_append hnodup hm List.mem_cons_self
  have hpost : n ∉ post := (List.nodup_cons.mp (List.nodup_append.mp hnodup).2.1).1
  refine ⟨pre.foldl f s, Grows.foldl f hgrow pre s, onlyStreams_foldl honly pre s n hpre, ?_, ?_⟩
  · rw [hsplit, List.foldl_append, List.foldl_cons]
    exact Grows.foldl f hgrow post _
  · rw [hsplit, List.foldl_append, List.foldl_cons]
    exact onlyStreams_foldl honly post _ n hpost
end

/-! ## The Commit Queue and the current batch over all turns -/

/-- The engine with its current batch to be ended at this boundary, but for a cut by a warm reset that stands (R95, log 35). -/
def Engine.cutBy (e : Engine) (c : CutCause) : Engine :=
  { e with batch := e.batch.map (fun b => { b with cut := if b.cut = some .warmReset then b.cut else some c }) }

theorem cutBy_cutBy (e : Engine) (c : CutCause) : (e.cutBy c).cutBy c = e.cutBy c := by
  unfold Engine.cutBy
  cases e.batch with
  | none => rfl
  | some b =>
    by_cases hw : b.cut = some .warmReset
    · simp [hw]
    · simp [hw]

section
variable {P : State → Prop} {f : State → StreamId → State} {c : StreamId → Stream → Bool}

/-- The streams whose turn takes them out of the Commit Queue are those so judged by their entries at the start. -/
theorem queue_foldl (hP : ∀ x n, P x → P (f x n)) (honly : ∀ x m, OnlyStreams x (f x m) [m])
    (hturn : ∀ x n, P x → (f x n).queue = if c n (x.stream n) then x.queue.filter (fun m => decide (m ≠ n)) else x.queue) :
    ∀ (l : List StreamId), l.Nodup → ∀ s, P s →
      (l.foldl f s).queue = s.queue.filter (fun m => decide (¬(m ∈ l ∧ c m (s.stream m) = true)))
  | [], _, s, _ => by simp
  | n :: l, hl, s, hs => by
    obtain ⟨hn, hl⟩ := List.nodup_cons.mp hl
    have hsame : ∀ m ∈ l, (f s n).stream m = s.stream m := fun m hm =>
      honly s n m (fun he => hn (List.mem_singleton.mp he ▸ hm))
    rw [List.foldl_cons, queue_foldl hP honly hturn l hl _ (hP s n hs), hturn s n hs]
    cases hc : c n (s.stream n) with
    | true =>
      rw [if_pos rfl, List.filter_filter]
      refine List.filter_congr (fun m _ => ?_)
      by_cases hm : m = n
      · subst hm
        simp [hc]
      · by_cases hml : m ∈ l
        · simp [hm, hml, hsame m hml]
        · simp [hm, hml]
    | false =>
      refine List.filter_congr (fun m _ => ?_)
      by_cases hm : m = n
      · subst hm
        simp [hc, hn]
      · by_cases hml : m ∈ l
        · simp [hml, hsame m hml]
        · simp [hm, hml]

/-- The current batch is cut once, when some stream's turn cuts it. -/
theorem engine_foldl {cause : CutCause} (hP : ∀ x n, P x → P (f x n)) (honly : ∀ x m, OnlyStreams x (f x m) [m])
    (hturn : ∀ x n, P x → (f x n).engine = if c n (x.stream n) then x.engine.cutBy cause else x.engine) :
    ∀ (l : List StreamId), l.Nodup → ∀ s, P s →
      ((∃ n ∈ l, c n (s.stream n) = true) → (l.foldl f s).engine = s.engine.cutBy cause) ∧
      ((∀ n ∈ l, c n (s.stream n) = false) → (l.foldl f s).engine = s.engine)
  | [], _, s, _ => ⟨fun ⟨n, hn, _⟩ => absurd hn List.not_mem_nil, fun _ => rfl⟩
  | n :: l, hl, s, hs => by
    obtain ⟨hn, hl⟩ := List.nodup_cons.mp hl
    have hsame : ∀ m ∈ l, (f s n).stream m = s.stream m := fun m hm =>
      honly s n m (fun he => hn (List.mem_singleton.mp he ▸ hm))
    obtain ⟨hsome, hnone⟩ := engine_foldl hP honly hturn l hl (f s n) (hP s n hs)
    have hstep := hturn s n hs
    rw [List.foldl_cons]
    refine ⟨fun ⟨m, hm, hc⟩ => ?_, fun hall => ?_⟩
    · by_cases hrest : ∃ k ∈ l, c k (s.stream k) = true
      · obtain ⟨k, hk, hck⟩ := hrest
        rw [hsome ⟨k, hk, by rw [hsame k hk]; exact hck⟩, hstep]
        split
        · exact cutBy_cutBy _ _
        · rfl
      · have hfalse : ∀ k ∈ l, c k (s.stream k) = false := fun k hk => Bool.eq_false_iff.mpr (fun hck => hrest ⟨k, hk, hck⟩)
        obtain rfl : m = n := (List.mem_cons.mp hm).resolve_right (fun hml => hrest ⟨m, hml, hc⟩)
        rw [hnone (fun k hk => by rw [hsame k hk]; exact hfalse k hk), hstep, if_pos hc]
    · rw [hnone (fun k hk => by rw [hsame k hk]; exact hall k (List.mem_cons_of_mem _ hk)), hstep,
        if_neg (by rw [hall n List.mem_cons_self]; nofun)]
end

/-! ## A batch cut (R51, R70, R95) -/

section
variable {s : State} {n : StreamId}

theorem cutStream_idle (h : (s.stream n).batch = .idle) (c : CutCause) : s.cutStream n c = s := by
  simp only [State.cutStream, h]

theorem cutStream_collecting (h : (s.stream n).batch = .collecting) (c : CutCause) :
    s.cutStream n c = (s.endBatch n).answerFresh n .cut 0 := by simp only [State.cutStream, h]

theorem cutStream_queued (h : (s.stream n).batch = .queued) (c : CutCause) :
    s.cutStream n c = ((s.leaveQueue n).endBatch n).answerFresh n .cut 0 := by simp only [State.cutStream, h]

theorem cutStream_settling (h : (s.stream n).batch = .settling) (c : CutCause) : s.cutStream n c = s.cutCurrent c := by
  simp only [State.cutStream, h]

theorem cutCurrent_engine (c : CutCause) : (s.cutCurrent c).engine = s.engine.cutBy c := rfl

theorem grows_leaveQueue (s : State) (n : StreamId) : Grows s (s.leaveQueue n) [.commitQueue] := (onlyParts_queue s _).grows

theorem grows_cutCurrent (s : State) (c : CutCause) : Grows s (s.cutCurrent c) [.engine] := (onlyParts_engine s _).grows

theorem grows_cutStream (s : State) (n : StreamId) (c : CutCause) :
    Grows s (s.cutStream n c) [.raised, .streams, .commitQueue, .engine] := by
  cases h : (s.stream n).batch with
  | idle => rw [cutStream_idle h]; exact Grows.refl s _
  | collecting => rw [cutStream_collecting h]; exact (grows_endAnswer s n _ _ _).mono
  | queued => rw [cutStream_queued h]; exact ((grows_leaveQueue s n).mono).andThen (grows_endAnswer _ n _ _ _)
  | settling => rw [cutStream_settling h]; exact (grows_cutCurrent s c).mono

theorem onlyStreams_cutStream (s : State) (n : StreamId) (c : CutCause) : OnlyStreams s (s.cutStream n c) [n] := by
  cases h : (s.stream n).batch with
  | idle => rw [cutStream_idle h]; exact fun _ _ => rfl
  | collecting => rw [cutStream_collecting h]; exact onlyStreams_endAnswer s n _ _ _
  | queued => rw [cutStream_queued h]; exact onlyStreams_endAnswer (s.leaveQueue n) n _ _ _
  | settling => rw [cutStream_settling h]; exact fun _ _ => rfl

theorem cutStream_queue (s : State) (n : StreamId) (c : CutCause) : (s.cutStream n c).queue =
    if (s.stream n).batch = .queued then s.queue.filter (fun m => decide (m ≠ n)) else s.queue := by
  cases h : (s.stream n).batch with
  | idle => rw [cutStream_idle h]; rfl
  | collecting =>
    rw [cutStream_collecting h]
    exact (grows_endAnswer s n _ _ _).parts .commitQueue (by decide)
  | queued =>
    rw [cutStream_queued h]
    exact (grows_endAnswer (s.leaveQueue n) n _ _ _).parts .commitQueue (by decide)
  | settling => rw [cutStream_settling h]; rfl

theorem cutStream_engine (s : State) (n : StreamId) (c : CutCause) : (s.cutStream n c).engine =
    if (s.stream n).batch = .settling then s.engine.cutBy c else s.engine := by
  cases h : (s.stream n).batch with
  | idle => rw [cutStream_idle h]; rfl
  | collecting =>
    rw [cutStream_collecting h]
    exact (grows_endAnswer s n _ _ _).parts .engine (by decide)
  | queued =>
    rw [cutStream_queued h]
    exact (grows_endAnswer (s.leaveQueue n) n _ _ _).parts .engine (by decide)
  | settling => rw [cutStream_settling h]; rfl

/-- A batch not yet closed by the engine is discarded and answered CUT. -/
theorem cutStream_answers (h : (s.stream n).batch = .collecting ∨ (s.stream n).batch = .queued) (c : CutCause) :
    AnswersFresh (s.cutStream n c) n .cut (s.stream n).guardHits ∧
    (s.cutStream n c).stream n =
      { (s.stream n).batchIdle.settled with answer := .fresh, answersRaised := (s.stream n).answersRaised + 1 } := by
  rcases h with h | h
  · rw [cutStream_collecting h]
    obtain ⟨-, hfresh, -⟩ := endAnswer_spec s n .cut none
    exact ⟨hfresh, stream_endAnswer s n _ _ _⟩
  · rw [cutStream_queued h]
    obtain ⟨-, hfresh, -⟩ := endAnswer_spec (s.leaveQueue n) n .cut none
    exact ⟨hfresh, stream_endAnswer (s.leaveQueue n) n _ _ _⟩

/-- Any other entry stands. -/
theorem cutStream_stands (h : (s.stream n).batch = .idle ∨ (s.stream n).batch = .settling) (c : CutCause) :
    (s.cutStream n c).stream n = s.stream n := by
  rcases h with h | h
  · rw [cutStream_idle h]
  · rw [cutStream_settling h]
    rfl
end

theorem AnswersFresh.grows {s t : State} {n : StreamId} {r : BatchResult} {k : Nat} {ps : List Part} (h : AnswersFresh s n r k)
    (hg : Grows s t ps) (hs : (t.stream n).answer = (s.stream n).answer) : AnswersFresh t n r k := by
  obtain ⟨hfresh, hawaits⟩ := h
  exact ⟨hs.trans hfresh, hawaits.grows hg⟩

/-- A session word raised still shows the entry while its session and the tables in force stand. -/
theorem SessionWordRaised.carried {s t : State} {n : StreamId} {ps : List Part} (h : SessionWordRaised s n) (hg : Grows s t ps)
    (hs : (t.stream n).session = (s.stream n).session) (hu : t.loader.inForce = s.loader.inForce) : SessionWordRaised t n := by
  have hword : t.sessionWord n = s.sessionWord n := sessionWord_congr hs hu
  unfold SessionWordRaised
  rw [hword]
  exact Awaits.grows h hg

end Sys2Proof.Machine
end


section
/-! Obligation O60: the warm reset. -/

namespace Sys2Proof.Machine

/-- A stream's entry at a warm reset, but for its batch (R52). -/
def Stream.warm (t : Stream) : Stream :=
  ({ t with session := if t.session = .off then .off else .vacant, checkFails := 0, guardHits := 0 } : Stream).settled

theorem warm_spec (t : Stream) : t.warm.session = (if t.session = .off then .off else .vacant) ∧ t.warm.checkFails = 0 ∧
    t.warm.idleTimer = none ∧ t.warm.watches = [] ∧ t.warm.guardHits = 0 ∧ t.warm.batch = t.batch ∧ t.warm.answer = t.answer := by
  by_cases h : t.session = .off <;> simp [Stream.warm, Stream.settled, Session.isClaimed, h]

/-- Cut short, such an entry stays without a session. -/
theorem warm_cut_spec (t : Stream) : t.warm.batchIdle.settled.session = t.warm.session ∧ t.warm.batchIdle.settled.checkFails = 0 ∧
    t.warm.batchIdle.settled.idleTimer = none ∧ t.warm.batchIdle.settled.watches = [] ∧
    t.warm.batchIdle.settled.guardHits = 0 := by
  by_cases h : t.session = .off <;> simp [Stream.warm, Stream.settled, Stream.batchIdle, Session.isClaimed, h]

/-- Stream `n` after a warm reset, its entry now `y` and before `x`: the entry, the session word, and the answer of a batch cut
(R52, R70). -/
structure WarmedEntry (x y : Stream) (t : State) (n : StreamId) : Prop where
  session : y.session = (if x.session = .off then .off else .vacant)
  checkFails : y.checkFails = 0
  idleTimer : y.idleTimer = none
  watches : y.watches = []
  guardHits : y.guardHits = 0
  word : SessionWordRaised t n
  cut : (x.batch = .collecting ∨ x.batch = .queued) → BatchIsIdle y ∧ AnswersFresh t n .cut 0
  stands : (x.batch = .idle ∨ x.batch = .settling) → y.batch = x.batch ∧ y.answer = x.answer

/-- A stream's entry reset and its session word raised, before its batch is cut. -/
def State.warmed (s : State) (n : StreamId) : State :=
  (s.updStream n (fun t =>
    { t with session := if t.session = .off then .off else .vacant, checkFails := 0, guardHits := 0 })).raiseSession n

section
variable (s : State) (n : StreamId)

theorem warmStream_eq : s.warmStream n = (s.warmed n).cutStream n .warmReset := rfl

theorem grows_raiseSession : Grows s (s.raiseSession n) [.raised] := grows_raiseWrite s _ _ _ _

theorem sessionWordRaised_raiseSession : SessionWordRaised (s.raiseSession n) n := by
  unfold SessionWordRaised
  have hword : (s.raiseSession n).sessionWord n = s.sessionWord n :=
    sessionWord_congr (by rw [streams_of_grows (grows_raiseSession s n)]) (raise_loader s _ _ _ _ ▸ rfl)
  rw [hword]
  exact awaits_raise _ _ _ _ _

theorem grows_warmed : Grows s (s.warmed n) [.streams, .raised] := ((grows_updStream s n _).mono).andThen (grows_raiseSession _ n)

theorem stream_warmed : (s.warmed n).stream n = (s.stream n).warm := by
  rw [State.warmed, streams_of_grows (grows_raiseSession _ n), stream_updStream_self]
  rfl

theorem onlyStreams_warmed : OnlyStreams s (s.warmed n) [n] := fun m hm => by
  rw [State.warmed, streams_of_grows (grows_raiseSession _ n)]
  exact onlyStreams_updStream s n _ m hm

theorem grows_warmStream : Grows s (s.warmStream n) [.raised, .streams, .commitQueue, .engine] :=
  ((grows_warmed s n).mono).andThen (grows_cutStream _ n _)

theorem onlyStreams_warmStream : OnlyStreams s (s.warmStream n) [n] :=
  onlyStreams_trans (onlyStreams_warmed s n) (onlyStreams_cutStream _ n _)

theorem warmStream_queue : (s.warmStream n).queue =
    if decide ((s.stream n).batch = .queued) then s.queue.filter (fun m => decide (m ≠ n)) else s.queue := by
  have hqueue : (s.warmed n).queue = s.queue := (grows_warmed s n).parts .commitQueue (by decide)
  obtain ⟨-, -, -, -, -, hbatch, -⟩ := warm_spec (s.stream n)
  rw [warmStream_eq, cutStream_queue, stream_warmed, hbatch, hqueue]
  simp

theorem warmStream_engine : (s.warmStream n).engine =
    if decide ((s.stream n).batch = .settling) then s.engine.cutBy .warmReset else s.engine := by
  have hengine : (s.warmed n).engine = s.engine := (grows_warmed s n).parts .engine (by decide)
  obtain ⟨-, -, -, -, -, hbatch, -⟩ := warm_spec (s.stream n)
  rw [warmStream_eq, cutStream_engine, stream_warmed, hbatch, hengine]
  simp

/-- What a stream's turn leaves in its entry, and what it raises. -/
theorem warmStream_entry : WarmedEntry (s.stream n) ((s.warmStream n).stream n) (s.warmStream n) n := by
  have hraised : SessionWordRaised (s.warmed n) n := sessionWordRaised_raiseSession _ n
  have hgrow := grows_cutStream (s.warmed n) n .warmReset
  have hforce : ((s.warmed n).cutStream n .warmReset).loader.inForce = (s.warmed n).loader.inForce :=
    congrArg Loader.inForce (hgrow.parts .loader (by decide))
  obtain ⟨hsession, hfails, htimer, hwatches, hhits, hbatch, hanswer⟩ := warm_spec (s.stream n)
  rw [warmStream_eq]
  have hbatches : ((s.stream n).batch = .collecting ∨ (s.stream n).batch = .queued) ∨
      ((s.stream n).batch = .idle ∨ (s.stream n).batch = .settling) := by cases (s.stream n).batch <;> simp
  rcases hbatches with hb | hb
  · obtain ⟨hfresh, hentry⟩ := cutStream_answers (s := s.warmed n) (n := n) (by rw [stream_warmed, hbatch]; exact hb) .warmReset
    rw [stream_warmed] at hfresh hentry
    obtain ⟨hsession', hfails', htimer', hwatches', hhits'⟩ := warm_cut_spec (s.stream n)
    obtain ⟨hidle, -⟩ := batchIdle_settled_idle (s.stream n).warm
    have hsame := hraised.carried hgrow (by rw [hentry, stream_warmed]; exact hsession') hforce
    rw [hentry]
    exact ⟨hsession'.trans hsession, hfails', htimer', hwatches', hhits', hsame, fun _ => ⟨hidle, hhits ▸ hfresh⟩,
      fun h => by rcases hb with hb | hb <;> simp [hb] at h⟩
  · have hentry := cutStream_stands (s := s.warmed n) (n := n) (by rw [stream_warmed, hbatch]; exact hb) .warmReset
    have hsame := hraised.carried hgrow (by rw [hentry]) hforce
    rw [hentry, stream_warmed]
    exact ⟨hsession, hfails, htimer, hwatches, hhits, hsame, fun h => by rcases hb with hb | hb <;> simp [hb] at h,
      fun _ => ⟨hbatch, hanswer⟩⟩
end

/-! ## The reset over all streams -/

/-- All streams reset, in their order. -/
def State.allWarmed (s : State) : State := allStreams.foldl State.warmStream s

theorem grows_allWarmed (s : State) : Grows s s.allWarmed [.raised, .streams, .commitQueue, .engine] :=
  Grows.foldl _ grows_warmStream _ s

theorem allWarmed_entry (s : State) (n : StreamId) : WarmedEntry (s.stream n) (s.allWarmed.stream n) s.allWarmed n := by
  obtain ⟨x, hx, hentry, hend, hfinal⟩ := foldl_turn grows_warmStream onlyStreams_warmStream s n
  have hforce : (allStreams.foldl State.warmStream s).loader.inForce = (x.warmStream n).loader.inForce :=
    congrArg Loader.inForce (hend.parts .loader (by decide))
  obtain ⟨h1, h2, h3, h4, h5, h6, h7, h8⟩ := warmStream_entry x n
  rw [hentry] at h1 h7 h8
  unfold State.allWarmed
  rw [hfinal]
  exact ⟨h1, h2, h3, h4, h5, h6.carried hend (by rw [hfinal]) hforce,
    fun hb => ⟨(h7 hb).1, (h7 hb).2.grows hend (by rw [hfinal])⟩, h8⟩

theorem allWarmed_queue (s : State) : s.allWarmed.queue = s.queue.filter (fun n => decide ((s.stream n).batch ≠ .queued)) := by
  have h := queue_foldl (P := fun _ => True) (c := fun _ t => decide (t.batch = .queued)) (fun _ _ _ => trivial)
    onlyStreams_warmStream (fun x n _ => warmStream_queue x n) allStreams allStreams_nodup s trivial
  refine h.trans (List.filter_congr (fun m _ => ?_))
  simp [mem_allStreams m]

theorem allWarmed_engine (s : State) :
    ((∃ n, (s.stream n).batch = .settling) → s.allWarmed.engine = s.engine.cutBy .warmReset) ∧
    ((∀ n, (s.stream n).batch ≠ .settling) → s.allWarmed.engine = s.engine) := by
  obtain ⟨hsome, hnone⟩ := engine_foldl (P := fun _ => True) (c := fun _ t => decide (t.batch = .settling)) (fun _ _ _ => trivial)
    onlyStreams_warmStream (fun x n _ => warmStream_engine x n) allStreams allStreams_nodup s trivial
  exact ⟨fun ⟨n, hn⟩ => hsome ⟨n, mem_allStreams n, decide_eq_true hn⟩, fun h => hnone (fun n _ => decide_eq_false (h n))⟩

theorem cutBy_warmReset {e : Engine} {b : CurrentBatch} (h : e.batch = some b) :
    e.cutBy .warmReset = { e with batch := some { b with cut := some .warmReset } } := by
  unfold Engine.cutBy
  rw [h, Option.map_some]
  by_cases hc : b.cut = some .warmReset
  · rw [if_pos hc, hc]
  · rw [if_neg hc]

/-- The request of the warm reset has left the list. -/
def State.warmTaken (s : State) : State := { s with loader := { s.loader with requests := s.loader.requests.tail } }

theorem exec_warmReset {s : State} {rs : List RequestKind} (hreset : s.inReset = false)
    (hr : s.loader.requests = .warmReset :: rs) (hj : s.loader.job = .idle)
    (hp : (s.loader.part = .ready ∧ s.engine.running = true ∧ s.engine.unit = none) ∨ s.loader.part = .unformatted) :
    exec .warmReset s = .next s.warmTaken.allWarmed.startAtOnce := by
  have hdue : s.warmDue = true := by
    rcases hp with ⟨hp, hrun, hunit⟩ | hp
    · simp [State.warmDue, hreset, hr, hj, hp, hrun, hunit]
    · simp [State.warmDue, hreset, hr, hj, hp]
  show Host.Outcome.next (if s.warmDue then s.warmResetNow else s) = _
  rw [if_pos hdue, State.warmResetNow, State.allWarmed, State.warmTaken]

theorem begun_inForce (l : Loader) : l.begun.inForce = l.inForce := by
  unfold Loader.begun
  split
  · split <;> rfl
  · rfl

/-- Settles O60: each stream by its turn, then the next request. -/
theorem warmResetClearsSessions : Obligations.WarmResetClearsSessions := by
  unfold Obligations.WarmResetClearsSessions
  intro s rs hreset hr hj hp
  have hgrow := grows_allWarmed s.warmTaken
  have hnext := grows_startAtOnce s.warmTaken.allWarmed
  have hloader : s.warmTaken.allWarmed.loader = { s.loader with requests := rs } := by
    have h : s.warmTaken.allWarmed.loader = s.warmTaken.loader := hgrow.parts .loader (by decide)
    rw [h, State.warmTaken, hr]
    rfl
  have hengine : s.warmTaken.allWarmed.startAtOnce.engine = s.warmTaken.allWarmed.engine := hnext.parts .engine (by decide)
  obtain ⟨hcut, hstands⟩ := allWarmed_engine s.warmTaken
  refine ⟨s.warmTaken.allWarmed.startAtOnce, exec_warmReset hreset hr hj hp, ?_⟩
  refine ⟨fun hready => ?_, fun hunf => ?_, fun n => ?_, ?_, fun b hb hsettling => ?_,
    fun hno => ?_, ?_⟩
  · rw [startAtOnce_of_other (by rw [hloader]; simp [hready]) (by rw [hloader]; simp [hready]), hloader]
  · rw [startAtOnce_loader (.inr (by rw [hloader]; exact hunf)), hloader]
  · obtain ⟨h1, h2, h3, h4, h5, h6, h7, h8⟩ := allWarmed_entry s.warmTaken n
    have hforce : s.warmTaken.allWarmed.startAtOnce.loader.inForce = s.warmTaken.allWarmed.loader.inForce := by
      by_cases hready : s.loader.part = .ready
      · rw [startAtOnce_of_other (by rw [hloader]; simp [hready]) (by rw [hloader]; simp [hready])]
      · have hunf : s.loader.part = .unformatted := hp.resolve_left (fun h => hready h.1)
        rw [startAtOnce_loader (.inr (by rw [hloader]; exact hunf)), begun_inForce]
    rw [streams_of_grows hnext]
    exact ⟨h1, h2, h3, h4, h5, h6.carried hnext (by rw [streams_of_grows hnext]) hforce,
      fun hb => ⟨(h7 hb).1, (h7 hb).2.grows hnext (by rw [streams_of_grows hnext])⟩, h8⟩
  · have h : s.warmTaken.allWarmed.startAtOnce.queue = s.warmTaken.allWarmed.queue := hnext.parts .commitQueue (by decide)
    rw [h, allWarmed_queue]
    rfl
  · rw [hengine, hcut ⟨b.stream, hsettling⟩]
    exact cutBy_warmReset hb
  · rw [hengine, hstands hno]
    rfl
  · have htaken : Grows s s.warmTaken [.loader, .raised, .streams, .commitQueue, .engine] := (onlyParts_loader s _).grows.mono
    exact ((htaken.andThen hgrow).andThen hnext).parts

end Sys2Proof.Machine
end


section
/-! The tables of a block take effect (R51, R46, R56): each stream by its two turns. For O58. -/

namespace Sys2Proof.Machine

/-! ## An entry under a new table (R51) -/

/-- A stream's batch, its answer and its guard hits are as they were. -/
structure KeepsBatch (t v : Stream) : Prop where
  batch : v.batch = t.batch
  answer : v.answer = t.answer
  guardHits : v.guardHits = t.guardHits
  collectTimer : v.collectTimer = t.collectTimer

/-- A stream's entry under a new table, but for its batch. -/
def Stream.loaded (t : Stream) (e : Bool) : Stream := (t.reload e).settled

section
variable {t : Stream}

theorem loaded_enabled (h : t.settled = t) :
    t.loaded true = { t with session := if t.session = .off then .vacant else t.session } := by
  by_cases hs : t.session = .off
  · obtain ⟨hwatches, htimer, hfails⟩ := (settled_eq_iff t).mp h
    have hnone : t.idleTimer = none := by
      rw [← Option.not_isSome_iff_eq_none, htimer, hs]
      simp [Session.isClaimed]
    have hreload : t.reload true = { t with session := .vacant, checkFails := 0 } := by simp [Stream.reload, hs]
    rw [Stream.loaded, hreload, if_pos hs]
    simp [Stream.settled, Session.isClaimed, hnone, hfails hs, hwatches (by rw [hs]; rfl)]
  · have hreload : t.reload true = t := by simp [Stream.reload, hs]
    rw [Stream.loaded, hreload, h, if_neg hs]

theorem loaded_disabled (t : Stream) : (t.loaded false).session = .off ∧ (t.loaded false).checkFails = 0 ∧
    (t.loaded false).watches = [] ∧ (t.loaded false).idleTimer = none := by
  simp [Stream.loaded, Stream.reload, Stream.settled, Session.isClaimed]

theorem loaded_kept (t : Stream) (e : Bool) : KeepsBatch t (t.loaded e) := by
  cases e with
  | false => constructor <;> simp [Stream.loaded, Stream.reload, Stream.settled]
  | true => by_cases hs : t.session = .off <;> constructor <;> simp [Stream.loaded, Stream.reload, Stream.settled, hs]

theorem loaded_settled (t : Stream) (e : Bool) : (t.loaded e).settled = t.loaded e := settled_settled _

/-- A batch cut under a disabled entry: OFF and IDLE, with no timer. -/
theorem loaded_cut (t : Stream) : (t.loaded false).batchIdle.settled.session = .off ∧
    (t.loaded false).batchIdle.settled.checkFails = 0 ∧ (t.loaded false).batchIdle.settled.watches = [] ∧
    (t.loaded false).batchIdle.settled.idleTimer = none ∧ (t.loaded false).batchIdle.settled.guardHits = t.guardHits := by
  simp [Stream.loaded, Stream.reload, Stream.settled, Stream.batchIdle, Session.isClaimed]
end

/-- Stream `n`'s entry under the table in force, its session word raised when its bytes changed (R39). -/
def State.reloaded (old s : State) (n : StreamId) : State :=
  if (s.updStream n (fun t => t.reload (s.enabled n))).sessionWord n = old.sessionWord n then
    s.updStream n (fun t => t.reload (s.enabled n))
  else (s.updStream n (fun t => t.reload (s.enabled n))).raiseSession n

theorem loadStream_eq (old s : State) (n : StreamId) : State.loadStream old s n =
    if (old.stream n).session ≠ .off ∧ !s.enabled n then (old.reloaded s n).cutStream n .disabled else old.reloaded s n := rfl

section
variable (old s : State) (n : StreamId)

theorem grows_reloaded : Grows s (old.reloaded s n) [.streams, .raised] :=
  Grows.ite ((grows_updStream s n _).mono) (((grows_updStream s n _).mono).andThen (grows_raiseSession _ n))

theorem streams_reloaded (m : StreamId) :
    (old.reloaded s n).stream m = (s.updStream n (fun t => t.reload (s.enabled n))).stream m := by
  unfold State.reloaded
  split
  · rfl
  · exact streams_of_grows (grows_raiseSession _ n) (by decide) m

theorem stream_reloaded : (old.reloaded s n).stream n = (s.stream n).loaded (s.enabled n) := by
  rw [streams_reloaded, stream_updStream_self]
  rfl

theorem onlyStreams_reloaded : OnlyStreams s (old.reloaded s n) [n] := fun m hm => by
  rw [streams_reloaded]
  exact onlyStreams_updStream s n _ m hm

theorem reloaded_word (h : (old.reloaded s n).sessionWord n ≠ old.sessionWord n) : SessionWordRaised (old.reloaded s n) n := by
  unfold State.reloaded at h ⊢
  split
  next hsame => rw [if_pos hsame] at h; exact absurd hsame h
  next => exact sessionWordRaised_raiseSession _ n

theorem grows_loadStream : Grows s (State.loadStream old s n) [.raised, .streams, .commitQueue, .engine] :=
  Grows.ite (((grows_reloaded old s n).mono).andThen (grows_cutStream _ n _)) ((grows_reloaded old s n).mono)

theorem onlyStreams_loadStream : OnlyStreams s (State.loadStream old s n) [n] := by
  rw [loadStream_eq]
  split
  · exact onlyStreams_trans (onlyStreams_reloaded old s n) (onlyStreams_cutStream _ n _)
  · exact onlyStreams_reloaded old s n
end

/-- A stream whose session ends under the new table, its batch in a given state. -/
def Setup.ends (u : Setup) (old : State) (b : BatchState) (n : StreamId) (t : Stream) : Bool :=
  decide ((old.stream n).session ≠ .off ∧ (u.streams[n.val]).enable = false ∧ t.batch = b)

section
variable {old s : State} {u : Setup} (hu : s.loader.inForce = some u) (n : StreamId)
include hu

theorem loadStream_queue : (State.loadStream old s n).queue =
    if u.ends old .queued n (s.stream n) then s.queue.filter (fun m => decide (m ≠ n)) else s.queue := by
  have hqueue : (old.reloaded s n).queue = s.queue := (grows_reloaded old s n).parts .commitQueue (by decide)
  obtain ⟨hbatch, -⟩ := loaded_kept (s.stream n) (s.enabled n)
  rw [loadStream_eq, enabled_of_inForce hu]
  by_cases hends : (old.stream n).session ≠ .off ∧ (u.streams[n.val]).enable = false
  · rw [if_pos ⟨hends.1, by rw [hends.2]; rfl⟩, cutStream_queue, stream_reloaded, hbatch, hqueue]
    simp [Setup.ends, hends.1, hends.2]
  · rw [if_neg (by simpa using hends), hqueue, if_neg]
    simp only [Setup.ends, decide_eq_true_eq]
    exact fun h => hends ⟨h.1, h.2.1⟩

theorem loadStream_engine : (State.loadStream old s n).engine =
    if u.ends old .settling n (s.stream n) then s.engine.cutBy .disabled else s.engine := by
  have hengine : (old.reloaded s n).engine = s.engine := (grows_reloaded old s n).parts .engine (by decide)
  obtain ⟨hbatch, -⟩ := loaded_kept (s.stream n) (s.enabled n)
  rw [loadStream_eq, enabled_of_inForce hu]
  by_cases hends : (old.stream n).session ≠ .off ∧ (u.streams[n.val]).enable = false
  · rw [if_pos ⟨hends.1, by rw [hends.2]; rfl⟩, cutStream_engine, stream_reloaded, hbatch, hengine]
    simp [Setup.ends, hends.1, hends.2]
  · rw [if_neg (by simpa using hends), hengine, if_neg]
    simp only [Setup.ends, decide_eq_true_eq]
    exact fun h => hends ⟨h.1, h.2.1⟩

/-- A stream disabled with a batch not yet current: the batch is answered CUT. -/
theorem loadStream_cut (hses : (old.stream n).session ≠ .off) (hoff : (u.streams[n.val]).enable = false)
    (hb : (s.stream n).batch = .collecting ∨ (s.stream n).batch = .queued) :
    AnswersFresh (State.loadStream old s n) n .cut (s.stream n).guardHits ∧
    (State.loadStream old s n).stream n =
      { ((s.stream n).loaded false).batchIdle.settled with
        answer := .fresh, answersRaised := ((s.stream n).loaded false).answersRaised + 1 } ∧
    ((State.loadStream old s n).sessionWord n ≠ old.sessionWord n → SessionWordRaised (State.loadStream old s n) n) := by
  have hdisabled : s.enabled n = false := (enabled_of_inForce hu n).trans hoff
  have hentry := stream_reloaded old s n
  rw [hdisabled] at hentry
  obtain ⟨hbatch, -, hhits, -⟩ := loaded_kept (s.stream n) false
  have hgrow := grows_cutStream (old.reloaded s n) n .disabled
  have hforce : ((old.reloaded s n).cutStream n .disabled).loader.inForce = (old.reloaded s n).loader.inForce :=
    congrArg Loader.inForce (hgrow.parts .loader (by decide))
  obtain ⟨hfresh, hcut⟩ := cutStream_answers (s := old.reloaded s n) (n := n) (by rw [hentry, hbatch]; exact hb) .disabled
  rw [hentry] at hfresh hcut
  have hsession : (((old.reloaded s n).cutStream n .disabled).stream n).session = ((old.reloaded s n).stream n).session := by
    rw [hcut, hentry]
    obtain ⟨hcutoff, -⟩ := loaded_cut (s.stream n)
    obtain ⟨hload, -⟩ := loaded_disabled (s.stream n)
    exact hcutoff.trans hload.symm
  rw [loadStream_eq, if_pos ⟨hses, by rw [hdisabled]; rfl⟩]
  refine ⟨hhits ▸ hfresh, hcut, fun hword => ?_⟩
  rw [sessionWord_congr hsession hforce] at hword
  exact (reloaded_word old s n hword).carried hgrow hsession hforce

/-- Any other stream: the entry under the table, its batch as it stands. -/
theorem loadStream_stands (h : (old.stream n).session = .off ∨ (u.streams[n.val]).enable = true ∨
      (s.stream n).batch = .idle ∨ (s.stream n).batch = .settling) :
    (State.loadStream old s n).stream n = (s.stream n).loaded (u.streams[n.val]).enable ∧
    ((State.loadStream old s n).sessionWord n ≠ old.sessionWord n → SessionWordRaised (State.loadStream old s n) n) := by
  have hentry := stream_reloaded old s n
  rw [enabled_of_inForce hu n] at hentry
  obtain ⟨hbatch, -⟩ := loaded_kept (s.stream n) (u.streams[n.val]).enable
  rw [loadStream_eq, enabled_of_inForce hu n]
  by_cases hends : (old.stream n).session ≠ .off ∧ (!(u.streams[n.val]).enable) = true
  · have hstill : (s.stream n).batch = .idle ∨ (s.stream n).batch = .settling := by
      rcases h with h | h | h
      · exact absurd h hends.1
      · rw [h] at hends
        exact absurd hends.2 nofun
      · exact h
    have hstands := cutStream_stands (s := old.reloaded s n) (n := n) (by rw [hentry, hbatch]; exact hstill) .disabled
    have hgrow := grows_cutStream (old.reloaded s n) n .disabled
    have hforce : ((old.reloaded s n).cutStream n .disabled).loader.inForce = (old.reloaded s n).loader.inForce :=
      congrArg Loader.inForce (hgrow.parts .loader (by decide))
    rw [if_pos hends]
    refine ⟨hstands.trans hentry, fun hword => ?_⟩
    rw [sessionWord_congr (by rw [hstands]) hforce] at hword
    exact (reloaded_word old s n hword).carried hgrow (by rw [hstands]) hforce
  · rw [if_neg hends]
    exact ⟨hentry, reloaded_word old s n⟩
end

/-! ## Timers at their new limits (R46, R56) -/

/-- A stream's turn of the expiry: its idle timer, then its collect timer. -/
def State.expireTurn (s : State) (n : StreamId) : State :=
  if (if s.idleDue n then s.idleExpire n else s).collectDue n then (if s.idleDue n then s.idleExpire n else s).collectExpire n
  else (if s.idleDue n then s.idleExpire n else s)

theorem expireDue_eq (s : State) : s.expireDue = allStreams.foldl State.expireTurn s := rfl

section
variable (s : State) (n : StreamId)

theorem grows_idleExpire : Grows s (s.idleExpire n) [.raised, .streams] :=
  (grows_changeSession s n _ none).andThen (grows_answerFresh _ n _ _ _)

theorem grows_collectExpire : Grows s (s.collectExpire n) [.raised, .streams] := grows_endAnswer s n _ _ _

theorem onlyStreams_idleExpire : OnlyStreams s (s.idleExpire n) [n] :=
  onlyStreams_trans (onlyStreams_changeSession s n _ _) (onlyStreams_answerFresh _ n _ 0 _)

theorem grows_expireTurn : Grows s (s.expireTurn n) [.raised, .streams] := by
  have hidle : Grows s (if s.idleDue n then s.idleExpire n else s) [.raised, .streams] :=
    Grows.ite (grows_idleExpire s n) (Grows.refl s _)
  exact Grows.ite (hidle.andThen (grows_collectExpire _ n)) hidle

theorem onlyStreams_expireTurn : OnlyStreams s (s.expireTurn n) [n] := by
  have hidle : OnlyStreams s (if s.idleDue n then s.idleExpire n else s) [n] := by
    split
    · exact onlyStreams_idleExpire s n
    · exact fun _ _ => rfl
  unfold State.expireTurn
  generalize (if s.idleDue n then s.idleExpire n else s) = v at hidle ⊢
  split
  · exact onlyStreams_trans hidle (onlyStreams_endAnswer v n _ _ _)
  · exact hidle

theorem stream_idleExpire : (s.idleExpire n).stream n =
    { ({ s.stream n with session := .vacant } : Stream).settled with
      answer := .fresh, answersRaised := (s.stream n).answersRaised + 1 } := by
  rw [State.idleExpire, stream_answerFresh, if_pos rfl, stream_makeVacant, answers_settled (settled_settled _)]
  rfl

theorem idleExpire_answers : AnswersFresh (s.idleExpire n) n .idleRelease (s.stream n).guardHits := by
  have hfresh := answersFresh_answerFresh (s.makeVacant n) n .idleRelease none
  rwa [stream_makeVacant, settled_guardHits] at hfresh

theorem idleExpire_word {p : Nat} (h : (s.stream n).session = .claimed p) : SessionWordRaised (s.idleExpire n) n := by
  have hraised : SessionWordRaised (s.makeVacant n) n := changeSession_raised (by rw [h]; exact session_code_vacant)
  exact hraised.grows (grows_answerFresh _ n _ _ _) (by
    rw [stream_idleExpire, stream_makeVacant])
end

section
variable {s : State} {u : Setup} (hu : s.loader.inForce = some u) {n : StreamId}
include hu

theorem idleDue_iff : s.idleDue n = true ↔ IdleTimerDue (s.stream n) u := by
  unfold State.idleDue IdleTimerDue
  rw [hu]
  cases (s.stream n).idleTimer <;> simp

theorem collectDue_iff : s.collectDue n = true ↔ CollectTimerDue (s.stream n) u := by
  unfold State.collectDue CollectTimerDue
  rw [hu]
  cases (s.stream n).collectTimer <;> simp

theorem expireTurn_none (h1 : ¬IdleTimerDue (s.stream n) u) (h2 : ¬CollectTimerDue (s.stream n) u) : s.expireTurn n = s := by
  have hidle : ¬ s.idleDue n = true := fun h => h1 ((idleDue_iff hu).mp h)
  have hcollect : ¬ s.collectDue n = true := fun h => h2 ((collectDue_iff hu).mp h)
  simp only [State.expireTurn, if_neg hidle, if_neg hcollect]

theorem expireTurn_collect (h1 : ¬IdleTimerDue (s.stream n) u) (h2 : CollectTimerDue (s.stream n) u) :
    s.expireTurn n = s.collectExpire n := by
  have hidle : ¬ s.idleDue n = true := fun h => h1 ((idleDue_iff hu).mp h)
  simp only [State.expireTurn, if_neg hidle, if_pos ((collectDue_iff hu).mpr h2)]

theorem idleExpire_inForce : (s.idleExpire n).loader.inForce = some u :=
  (congrArg Loader.inForce ((grows_idleExpire s n).parts .loader (by decide))).trans hu

theorem idleExpire_collectDue : (s.idleExpire n).collectDue n = true ↔ CollectTimerDue (s.stream n) u := by
  rw [collectDue_iff (idleExpire_inForce hu), stream_idleExpire]
  exact Iff.rfl

theorem expireTurn_idle (h1 : IdleTimerDue (s.stream n) u) (h2 : ¬CollectTimerDue (s.stream n) u) :
    s.expireTurn n = s.idleExpire n := by
  have hcollect : ¬ (s.idleExpire n).collectDue n = true := fun h => h2 ((idleExpire_collectDue hu).mp h)
  simp only [State.expireTurn, if_pos ((idleDue_iff hu).mpr h1), if_neg hcollect]

/-- A stream whose idle timer runs out is VACANT at the end of its turn, and its word says so. -/
theorem expireTurn_idle_word {p : Nat} (hs : (s.stream n).session = .claimed p) (h : IdleTimerDue (s.stream n) u) :
    SessionWordRaised (s.expireTurn n) n := by
  have hword := idleExpire_word s n hs
  by_cases hc : CollectTimerDue (s.stream n) u
  · have hturn : s.expireTurn n = (s.idleExpire n).collectExpire n := by
      simp only [State.expireTurn, if_pos ((idleDue_iff hu).mpr h), if_pos ((idleExpire_collectDue hu).mpr hc)]
    obtain ⟨-, -, -, hsession⟩ := endAnswer_spec (s.idleExpire n) n .collectTimeout none
    rw [hturn]
    exact hword.grows (grows_collectExpire _ n) hsession
  · rw [expireTurn_idle hu h hc]
    exact hword

/-- Otherwise its session stands. -/
theorem expireTurn_session (h : ¬IdleTimerDue (s.stream n) u) : ((s.expireTurn n).stream n).session = (s.stream n).session := by
  by_cases hc : CollectTimerDue (s.stream n) u
  · obtain ⟨-, -, -, hsession⟩ := endAnswer_spec s n .collectTimeout none
    rw [expireTurn_collect hu h hc]
    exact hsession
  · rw [expireTurn_none hu h hc]
end

/-- In a settled entry the idle timer runs of a CLAIMED stream with an IDLE batch alone (R46). -/
theorem settled_idleTimer {t : Stream} (h : t.settled = t) {e : Nat} (he : t.idleTimer = some e) :
    (∃ p, t.session = .claimed p) ∧ t.batch = .idle := by
  obtain ⟨-, htimer, -⟩ := (settled_eq_iff t).mp h
  obtain ⟨hclaimed, hbatch⟩ := htimer.mp (by rw [he]; rfl)
  exact ⟨(isClaimed_iff t.session).mp hclaimed, hbatch⟩

end Sys2Proof.Machine
end


section
/-! Obligation O58, the first part: what the tables of a block leave, and the apply (R51, R173). -/

namespace Sys2Proof.Machine

/-- The state with the tables of a block in force, before any stream is loaded. -/
def State.tablesSet (s : State) (u : Setup) : State := { s with loader := { s.loader with inForce := some u } }

section
variable (s : State) (u : Setup)

/-- All streams loaded, before timers expire. -/
def State.allLoaded : State := allStreams.foldl (fun x n => State.loadStream s x n) (s.tablesSet u)

theorem loadTables_eq : s.loadTables u = (s.allLoaded u).expireDue := rfl

theorem grows_allLoaded : Grows (s.tablesSet u) (s.allLoaded u) [.raised, .streams, .commitQueue, .engine] :=
  Grows.foldl _ (fun x n => grows_loadStream s x n) _ _

theorem allLoaded_inForce : (s.allLoaded u).loader.inForce = some u :=
  congrArg Loader.inForce ((grows_allLoaded s u).parts .loader (by decide))

theorem grows_expireDue (x : State) : Grows x x.expireDue [.raised, .streams] := Grows.foldl _ grows_expireTurn _ x

theorem grows_loadTables : Grows (s.tablesSet u) (s.loadTables u) [.raised, .streams, .commitQueue, .engine] :=
  (grows_allLoaded s u).andThen (grows_expireDue _)

theorem loadTables_loader : (s.loadTables u).loader = { s.loader with inForce := some u } :=
  (grows_loadTables s u).parts .loader (by decide)

theorem onlyParts_loadTables : OnlyParts s (s.loadTables u) [.loader, .raised, .streams, .commitQueue, .engine] :=
  ((onlyParts_loader s _).mono (by decide)).andThen (grows_loadTables s u).parts

theorem inForce_of_grows {x : State} {ps : List Part} {v : State} (h : Grows x v ps) (hl : Part.loader ∉ ps)
    (hx : x.loader.inForce = some u) : v.loader.inForce = some u := (congrArg Loader.inForce (h.parts .loader hl)).trans hx

/-- A stream's two turns: `x` is what the first meets, `y` what the second does. -/
theorem loadTables_turns (n : StreamId) : ∃ x y : State, x.loader.inForce = some u ∧ x.stream n = s.stream n ∧
    y.loader.inForce = some u ∧ y.stream n = (State.loadStream s x n).stream n ∧
    Grows (State.loadStream s x n) y [.raised, .streams, .commitQueue, .engine] ∧
    Grows (y.expireTurn n) (s.loadTables u) [.raised, .streams] ∧
    (s.loadTables u).stream n = (y.expireTurn n).stream n := by
  obtain ⟨x, hx, hentry, hend, hfinal⟩ :=
    foldl_turn (fun x n => grows_loadStream s x n) (fun x n => onlyStreams_loadStream s x n) (s.tablesSet u) n
  obtain ⟨y, hy, hentry', hend', hfinal'⟩ := foldl_turn grows_expireTurn onlyStreams_expireTurn (s.allLoaded u) n
  exact ⟨x, y, inForce_of_grows u hx (by decide) rfl, hentry, inForce_of_grows u hy (by decide) (allLoaded_inForce s u),
    hentry'.trans hfinal, hend.andThen hy, hend', hfinal'⟩
end

/-! ## The Commit Queue and the current batch -/

section
variable (s : State) (u : Setup)

theorem loadTables_queue : (s.loadTables u).queue = s.queue.filter (fun n => decide (¬((s.stream n).session ≠ .off ∧
    (u.streams[n.val]).enable = false ∧ (s.stream n).batch = .queued))) := by
  have hexpire : (s.loadTables u).queue = (s.allLoaded u).queue := (grows_expireDue (s.allLoaded u)).parts .commitQueue (by decide)
  have h := queue_foldl (P := fun x => x.loader.inForce = some u) (c := u.ends s .queued)
    (fun x n hx => inForce_of_grows u (grows_loadStream s x n) (by decide) hx) (fun x n => onlyStreams_loadStream s x n)
    (fun x n hx => loadStream_queue hx n) allStreams allStreams_nodup (s.tablesSet u) rfl
  refine hexpire.trans (h.trans (List.filter_congr (fun m _ => ?_)))
  simp only [mem_allStreams m, true_and, Setup.ends, decide_eq_true_eq]
  rfl

theorem loadTables_engine :
    ((∃ n : StreamId, (s.stream n).session ≠ .off ∧ (u.streams[n.val]).enable = false ∧ (s.stream n).batch = .settling) →
      (s.loadTables u).engine = s.engine.cutBy .disabled) ∧
    ((∀ n : StreamId, (s.stream n).batch = .settling →
        ((s.stream n).session = .off ∨ (u.streams[n.val]).enable = true)) → (s.loadTables u).engine = s.engine) := by
  have hexpire : (s.loadTables u).engine = (s.allLoaded u).engine := (grows_expireDue (s.allLoaded u)).parts .engine (by decide)
  obtain ⟨hsome, hnone⟩ := engine_foldl (P := fun x => x.loader.inForce = some u) (c := u.ends s .settling)
    (fun x n hx => inForce_of_grows u (grows_loadStream s x n) (by decide) hx) (fun x n => onlyStreams_loadStream s x n)
    (fun x n hx => loadStream_engine hx n) allStreams allStreams_nodup (s.tablesSet u) rfl
  refine ⟨fun ⟨n, hn⟩ => hexpire.trans (hsome ⟨n, mem_allStreams n, decide_eq_true hn⟩),
    fun h => hexpire.trans (hnone (fun n _ => decide_eq_false (fun ⟨hses, hoff, hb⟩ => ?_)))⟩
  rcases h n hb with hn | hn
  · exact hses hn
  · exact Bool.false_ne_true (hoff.symm.trans hn)
end

theorem cutBy_disabled {e : Engine} {b : CurrentBatch} (h : e.batch = some b) (hc : b.cut = none) :
    e.cutBy .disabled = { e with batch := some { b with cut := some .disabled } } := by
  unfold Engine.cutBy
  rw [h, Option.map_some, hc]
  rfl

/-! ## Each stream's entry -/

section
variable {s : State} {u : Setup} {n : StreamId}

/-- A stream disabled with a batch not yet current. -/
theorem loadTables_cut (hses : (s.stream n).session ≠ .off) (hoff : (u.streams[n.val]).enable = false)
    (hb : (s.stream n).batch = .collecting ∨ (s.stream n).batch = .queued) :
    AnswersFresh (s.loadTables u) n .cut (s.stream n).guardHits ∧
    (s.loadTables u).stream n =
      { ((s.stream n).loaded false).batchIdle.settled with
        answer := .fresh, answersRaised := ((s.stream n).loaded false).answersRaised + 1 } ∧
    ((s.loadTables u).sessionWord n ≠ s.sessionWord n → SessionWordRaised (s.loadTables u) n) := by
  obtain ⟨x, y, hxu, hx, hyu, hy, hgrow, hend, hfinal⟩ := loadTables_turns s u n
  obtain ⟨hfresh, hentry, hword⟩ := loadStream_cut (old := s) hxu n hses hoff (by rw [hx]; exact hb)
  rw [hx] at hfresh hentry
  obtain ⟨-, -, -, htimer, -⟩ := loaded_cut (s.stream n)
  have hyentry := hy.trans hentry
  have hstays : y.expireTurn n = y := by
    refine expireTurn_none hyu (fun ⟨e, he, _⟩ => ?_) (fun ⟨e, he, _⟩ => ?_)
    · rw [hyentry] at he
      exact absurd (htimer.symm.trans he) nofun
    · rw [hyentry] at he
      exact absurd he nofun
  rw [hstays] at hend hfinal
  have hforce : (s.loadTables u).loader.inForce = (State.loadStream s x n).loader.inForce := by
    rw [inForce_of_grows u hend (by decide) hyu, inForce_of_grows u (grows_loadStream s x n) (by decide) hxu]
  have hsame : (s.loadTables u).stream n = (State.loadStream s x n).stream n := hfinal.trans hy
  have hall := hgrow.andThen hend
  refine ⟨hfresh.grows hall (by rw [hsame]), hfinal.trans hyentry, fun hne => ?_⟩
  rw [sessionWord_congr (by rw [hsame]) hforce] at hne
  exact (hword hne).carried hall (by rw [hsame]) hforce

/-- Any other stream meets its timers with its entry under the table. -/
theorem loadTables_stands (h : (s.stream n).session = .off ∨ (u.streams[n.val]).enable = true ∨
      (s.stream n).batch = .idle ∨ (s.stream n).batch = .settling) :
    ∃ y : State, y.loader.inForce = some u ∧ y.stream n = (s.stream n).loaded (u.streams[n.val]).enable ∧
      (y.sessionWord n ≠ s.sessionWord n → SessionWordRaised y n) ∧
      Grows (y.expireTurn n) (s.loadTables u) [.raised, .streams] ∧
      (s.loadTables u).stream n = (y.expireTurn n).stream n := by
  obtain ⟨x, y, hxu, hx, hyu, hy, hgrow, hend, hfinal⟩ := loadTables_turns s u n
  obtain ⟨hentry, hword⟩ := loadStream_stands (old := s) hxu n (by rw [hx]; exact h)
  rw [hx] at hentry
  have hforce : y.loader.inForce = (State.loadStream s x n).loader.inForce :=
    hyu.trans (inForce_of_grows u (grows_loadStream s x n) (by decide) hxu).symm
  refine ⟨y, hyu, hy.trans hentry, fun hne => ?_, hend, hfinal⟩
  rw [sessionWord_congr (by rw [hy]) hforce] at hne
  exact (hword hne).carried hgrow (by rw [hy]) hforce

theorem loadTables_timeless (h : (s.stream n).session = .off ∨ (u.streams[n.val]).enable = true ∨
      (s.stream n).batch = .idle ∨ (s.stream n).batch = .settling)
    (h1 : ¬IdleTimerDue ((s.stream n).loaded (u.streams[n.val]).enable) u)
    (h2 : ¬CollectTimerDue ((s.stream n).loaded (u.streams[n.val]).enable) u) :
    (s.loadTables u).stream n = (s.stream n).loaded (u.streams[n.val]).enable := by
  obtain ⟨y, hyu, hy, -, -, hfinal⟩ := loadTables_stands h
  rw [← hy] at h1 h2
  rw [hfinal, expireTurn_none hyu h1 h2, hy]

/-- A collect timer at its new limit. -/
theorem loadTables_collect (h : (s.stream n).session = .off ∨ (u.streams[n.val]).enable = true ∨
      (s.stream n).batch = .idle ∨ (s.stream n).batch = .settling)
    (h1 : ¬IdleTimerDue ((s.stream n).loaded (u.streams[n.val]).enable) u)
    (h2 : CollectTimerDue ((s.stream n).loaded (u.streams[n.val]).enable) u) :
    AnswersFresh (s.loadTables u) n .collectTimeout (s.stream n).guardHits ∧ (s.loadTables u).stream n =
      { ((s.stream n).loaded (u.streams[n.val]).enable).batchIdle.settled with
        answer := .fresh, answersRaised := ((s.stream n).loaded (u.streams[n.val]).enable).answersRaised + 1 } := by
  obtain ⟨y, hyu, hy, -, hend, hfinal⟩ := loadTables_stands h
  obtain ⟨-, -, hhits, -⟩ := loaded_kept (s.stream n) (u.streams[n.val]).enable
  rw [← hy] at h1 h2
  rw [expireTurn_collect hyu h1 h2] at hend hfinal
  obtain ⟨-, hfresh, -⟩ := endAnswer_spec y n .collectTimeout none
  rw [hy, hhits] at hfresh
  refine ⟨hfresh.grows hend (by rw [hfinal]; rfl), ?_⟩
  rw [hfinal, ← hy]
  exact stream_endAnswer y n _ _ _

/-- An idle timer at its new limit. -/
theorem loadTables_idle (hen : (u.streams[n.val]).enable = true) {p : Nat}
    (hses : ((s.stream n).loaded (u.streams[n.val]).enable).session = .claimed p)
    (h1 : IdleTimerDue ((s.stream n).loaded (u.streams[n.val]).enable) u)
    (h2 : ¬CollectTimerDue ((s.stream n).loaded (u.streams[n.val]).enable) u) :
    AnswersFresh (s.loadTables u) n .idleRelease (s.stream n).guardHits ∧ SessionWordRaised (s.loadTables u) n ∧
    (s.loadTables u).stream n =
      { ({ (s.stream n).loaded (u.streams[n.val]).enable with session := .vacant } : Stream).settled with
        answer := .fresh, answersRaised := ((s.stream n).loaded (u.streams[n.val]).enable).answersRaised + 1 } := by
  obtain ⟨y, hyu, hy, -, hend, hfinal⟩ := loadTables_stands (s := s) (u := u) (n := n) (.inr (.inl hen))
  obtain ⟨-, -, hhits, -⟩ := loaded_kept (s.stream n) (u.streams[n.val]).enable
  rw [← hy] at hses h1 h2
  rw [expireTurn_idle hyu h1 h2] at hend hfinal
  have hfresh := idleExpire_answers y n
  rw [hy, hhits] at hfresh
  refine ⟨hfresh.grows hend (by rw [hfinal]), (idleExpire_word y n hses).grows hend (by rw [hfinal]), ?_⟩
  rw [hfinal, ← hy]
  exact stream_idleExpire y n

/-- The session word is raised where its bytes changed (R39). -/
theorem loadTables_word (hn : (s.loadTables u).sessionWord n ≠ s.sessionWord n) : SessionWordRaised (s.loadTables u) n := by
  by_cases hcut : (s.stream n).session ≠ .off ∧ (u.streams[n.val]).enable = false ∧
      ((s.stream n).batch = .collecting ∨ (s.stream n).batch = .queued)
  · obtain ⟨hses, hoff, hb⟩ := hcut
    obtain ⟨-, -, hword⟩ := loadTables_cut hses hoff hb
    exact hword hn
  · have hstands : (s.stream n).session = .off ∨ (u.streams[n.val]).enable = true ∨
        (s.stream n).batch = .idle ∨ (s.stream n).batch = .settling := by
      cases hb : (s.stream n).batch <;> cases he : (u.streams[n.val]).enable <;> simp_all
    obtain ⟨y, hyu, hy, hword, hend, hfinal⟩ := loadTables_stands hstands
    have hforce : (s.loadTables u).loader.inForce = (y.expireTurn n).loader.inForce :=
      congrArg Loader.inForce (hend.parts .loader (by decide))
    by_cases hidle : IdleTimerDue (y.stream n) u
    · have hclaimed : ∃ p, (y.stream n).session = .claimed p := by
        obtain ⟨e, he, -⟩ := hidle
        exact (settled_idleTimer (by rw [hy]; exact loaded_settled _ _) he).1
      obtain ⟨p, hp⟩ := hclaimed
      exact (expireTurn_idle_word hyu hp hidle).carried hend (by rw [hfinal]) hforce
    · have hsession := expireTurn_session hyu hidle
      have hturn := grows_expireTurn y n
      have hturnForce : (y.expireTurn n).loader.inForce = y.loader.inForce := congrArg Loader.inForce (hturn.parts .loader (by decide))
      have hsame : (s.loadTables u).sessionWord n = y.sessionWord n :=
        (sessionWord_congr (by rw [hfinal]) hforce).trans (sessionWord_congr hsession hturnForce)
      rw [hsame] at hn
      exact ((hword hn).carried hturn hsession hturnForce).carried hend (by rw [hfinal]) hforce
end

/-! ## Enabled and disabled streams, in the terms of R51, R46 and R56 -/

section
variable {s : State} {u : Setup} {n : StreamId} (hs : (s.stream n).settled = s.stream n)
include hs

theorem loadTables_enabled (hen : (u.streams[n.val]).enable = true) :
    (¬IdleTimerDue (s.stream n) u → ¬CollectTimerDue (s.stream n) u → (s.loadTables u).stream n =
      { s.stream n with session := if (s.stream n).session = .off then .vacant else (s.stream n).session }) ∧
    (IdleTimerDue (s.stream n) u → ¬CollectTimerDue (s.stream n) u →
      ((s.loadTables u).stream n).session = .vacant ∧ ((s.loadTables u).stream n).watches = [] ∧
      ((s.loadTables u).stream n).idleTimer = none ∧
      ((s.loadTables u).stream n).batch = (s.stream n).batch ∧
      ((s.loadTables u).stream n).guardHits = (s.stream n).guardHits ∧
      ((s.loadTables u).stream n).checkFails = (s.stream n).checkFails ∧ SessionWordRaised (s.loadTables u) n ∧
      AnswersFresh (s.loadTables u) n .idleRelease (s.stream n).guardHits) ∧
    (CollectTimerDue (s.stream n) u → (s.stream n).batch = .collecting →
      BatchIsIdle ((s.loadTables u).stream n) ∧ AnswersFresh (s.loadTables u) n .collectTimeout (s.stream n).guardHits ∧
      ((s.loadTables u).stream n).session = (if (s.stream n).session = .off then .vacant else (s.stream n).session) ∧
      ((s.loadTables u).stream n).watches = (s.stream n).watches ∧
      ((s.loadTables u).stream n).guardHits = (s.stream n).guardHits ∧
      ∀ p : Nat, (s.stream n).session = .claimed p → ((s.loadTables u).stream n).idleTimer = some 0) := by
  have hloaded : (s.stream n).loaded (u.streams[n.val]).enable =
      { s.stream n with session := if (s.stream n).session = .off then .vacant else (s.stream n).session } := by
    rw [hen]
    exact loaded_enabled hs
  have hidleDue : IdleTimerDue ((s.stream n).loaded (u.streams[n.val]).enable) u ↔ IdleTimerDue (s.stream n) u := by
    rw [hloaded]
    exact Iff.rfl
  have hcollectDue : CollectTimerDue ((s.stream n).loaded (u.streams[n.val]).enable) u ↔ CollectTimerDue (s.stream n) u := by
    rw [hloaded]
    exact Iff.rfl
  refine ⟨fun h1 h2 => ?_, fun h1 h2 => ?_, fun h2 hb => ?_⟩
  · exact (loadTables_timeless (.inr (.inl hen)) (fun h => h1 (hidleDue.mp h)) (fun h => h2 (hcollectDue.mp h))).trans hloaded
  · obtain ⟨e, he, -⟩ := id h1
    obtain ⟨⟨p, hp⟩, -⟩ := settled_idleTimer hs he
    have hses : ((s.stream n).loaded (u.streams[n.val]).enable).session = .claimed p := by
      rw [hloaded, hp]
      rfl
    obtain ⟨hfresh, hword, hentry⟩ := loadTables_idle hen hses (hidleDue.mpr h1) (fun h => h2 (hcollectDue.mp h))
    rw [hloaded] at hentry
    rw [hentry]
    exact ⟨rfl, rfl, rfl, rfl, rfl, rfl, hword, hfresh⟩
  · have hnot : ¬IdleTimerDue (s.stream n) u := fun ⟨e, he, _⟩ => by
      obtain ⟨-, hidle⟩ := settled_idleTimer hs he
      exact absurd (hb.symm.trans hidle) nofun
    obtain ⟨hfresh, hentry⟩ := loadTables_collect (.inr (.inl hen)) (fun h => hnot (hidleDue.mp h)) (hcollectDue.mpr h2)
    obtain ⟨hidle, htimer⟩ := batchIdle_settled_idle ((s.stream n).loaded (u.streams[n.val]).enable)
    rw [hloaded] at hentry hidle htimer
    obtain ⟨hwatches, -⟩ := (settled_eq_iff (s.stream n)).mp hs
    rw [hentry]
    refine ⟨hidle, hfresh, rfl, ?_, rfl, fun p hp => ?_⟩
    · by_cases hclaimed : (s.stream n).session.isClaimed = true
      · obtain ⟨p, hp⟩ := (isClaimed_iff _).mp hclaimed
        simp [Stream.batchIdle, Stream.settled, hp, Session.isClaimed]
      · rw [hwatches (by simpa using hclaimed)]
        simp [Stream.batchIdle, Stream.settled, hwatches (by simpa using hclaimed)]
    · exact htimer p (by rw [hp]; rfl)

omit hs in
theorem loadTables_disabled (hoff : (u.streams[n.val]).enable = false) :
    ((s.loadTables u).stream n).session = .off ∧ ((s.loadTables u).stream n).checkFails = 0 ∧
    ((s.loadTables u).stream n).watches = [] ∧ ((s.loadTables u).stream n).idleTimer = none ∧
    ((s.loadTables u).stream n).guardHits = (s.stream n).guardHits ∧
    (((s.stream n).session = .off ∨ (s.stream n).batch = .idle ∨ (s.stream n).batch = .settling) →
      ¬CollectTimerDue (s.stream n) u → ((s.loadTables u).stream n).batch = (s.stream n).batch ∧
        ((s.loadTables u).stream n).answer = (s.stream n).answer) ∧
    ((s.stream n).session = .off → (s.stream n).batch = .collecting → CollectTimerDue (s.stream n) u →
      BatchIsIdle ((s.loadTables u).stream n) ∧ AnswersFresh (s.loadTables u) n .collectTimeout (s.stream n).guardHits) ∧
    ((s.stream n).session ≠ .off → ((s.stream n).batch = .collecting ∨ (s.stream n).batch = .queued) →
      BatchIsIdle ((s.loadTables u).stream n) ∧ AnswersFresh (s.loadTables u) n .cut (s.stream n).guardHits) := by
  obtain ⟨hsession, hfails, hwatches, htimer⟩ := loaded_disabled (s.stream n)
  obtain ⟨hbatch, hanswer, hhits, hcollect⟩ := loaded_kept (s.stream n) false
  obtain ⟨hsession', hfails', hwatches', htimer', hhits'⟩ := loaded_cut (s.stream n)
  by_cases hcut : (s.stream n).session ≠ .off ∧ ((s.stream n).batch = .collecting ∨ (s.stream n).batch = .queued)
  · obtain ⟨hses, hb⟩ := hcut
    obtain ⟨hfresh, hentry, -⟩ := loadTables_cut hses hoff hb
    rw [hentry]
    refine ⟨hsession', hfails', hwatches', htimer', hhits', fun h => ?_, fun h => absurd h hses,
      fun _ _ => ⟨(batchIdle_settled_idle _).1, hfresh⟩⟩
    rcases h with h | h | h
    · exact absurd h hses
    · simp [h] at hb
    · simp [h] at hb
  · have hstill : (s.stream n).session = .off ∨ (s.stream n).batch = .idle ∨ (s.stream n).batch = .settling := by
      cases hb : (s.stream n).batch <;> simp_all
    have hstands : (s.stream n).session = .off ∨ (u.streams[n.val]).enable = true ∨
        (s.stream n).batch = .idle ∨ (s.stream n).batch = .settling := hstill.elim .inl (fun h => .inr (.inr h))
    have hnot : ¬IdleTimerDue ((s.stream n).loaded (u.streams[n.val]).enable) u := fun ⟨e, he, _⟩ => by
      rw [hoff, htimer] at he
      exact absurd he nofun
    have hcollectDue : CollectTimerDue ((s.stream n).loaded (u.streams[n.val]).enable) u ↔ CollectTimerDue (s.stream n) u := by
      rw [hoff, CollectTimerDue, hcollect]
      exact Iff.rfl
    by_cases hdue : CollectTimerDue (s.stream n) u
    · obtain ⟨hfresh, hentry⟩ := loadTables_collect hstands hnot (hcollectDue.mpr hdue)
      rw [hoff] at hentry
      rw [hentry]
      exact ⟨hsession', hfails', hwatches', htimer', hhits', fun _ hn => absurd hdue hn,
        fun _ _ _ => ⟨(batchIdle_settled_idle _).1, hfresh⟩, fun hses hb => absurd ⟨hses, hb⟩ hcut⟩
    · have hentry := loadTables_timeless hstands hnot (fun h => hdue (hcollectDue.mp h))
      rw [hoff] at hentry
      rw [hentry]
      exact ⟨hsession, hfails, hwatches, htimer, hhits, fun _ _ => ⟨hbatch, hanswer⟩, fun _ _ h => absurd h hdue,
        fun hses hb => absurd ⟨hses, hb⟩ hcut⟩
end

/-! ## The end of an exchange (R172) -/

section
variable {s : State} {r : SetupResult}

theorem grows_endJob (s : State) : Grows s s.endJob [.loader, .raised] :=
  ((grows_setJob s _).mono).andThen (grows_startAtOnce _)

theorem begun_of_none {l : Loader} (h : l.requests = []) : l.begun = l := by
  unfold Loader.begun
  split
  next hr => rw [h] at hr; exact absurd hr nofun
  next => rfl

/-- With no request to begin, the exchange ends and nothing is under way. -/
theorem endJob_loader (h : s.loader.part = .ready ∨ s.loader.part = .formatting ∨ s.loader.requests = []) :
    s.endJob.loader = { s.loader with job := .idle } := by
  by_cases hp : s.loader.part = .unset ∨ s.loader.part = .unformatted
  · have hnone : s.loader.requests = [] := by rcases h with h | h | h <;> simp_all
    exact (startAtOnce_loader (s := s.setJob .idle) hp).trans (begun_of_none hnone)
  · obtain ⟨h1, h2⟩ := not_or.mp hp
    exact congrArg State.loader (startAtOnce_of_other (s := s.setJob .idle) h1 h2)

theorem finished_spec (s : State) (r : SetupResult)
    (h : s.loader.part = .ready ∨ s.loader.part = .formatting ∨ s.loader.requests = []) :
    (s.setResult r).endJob.loader = { s.loader with result := r, job := .idle } ∧
    (s.loader.result ≠ r → StatusRaised (s.setResult r).endJob s.loader.part r s.loader.faults) ∧
    Grows s (s.setResult r).endJob [.loader, .raised] := by
  refine ⟨?_, fun hne => (statusRaised_setResult hne).grows (grows_endJob _), (grows_setResult s r).andThen (grows_endJob _)⟩
  rw [endJob_loader (by rw [setResult_loader]; exact h), setResult_loader]
end

/-! ## The apply -/

theorem exec_applySetup {s : State} {u : Setup} (hreset : s.inReset = false) (hjob : s.loader.job = .validated .apply u) :
    exec .applySetup s = .next (s.applyAccepted u) := by
  show Host.Outcome.next _ = _
  rw [live_eq hreset]
  simp only [hjob]

/-- The part state changed, with its status word. -/
theorem setPart_changed {s : State} {p : PartState} {r : SetupResult} (h : s.loader.part ≠ p) : s.setPart p r =
    ({ s with loader := { s.loader with part := p, result := r } } : State).raiseStatus := if_neg (fun hn => h hn.1)

theorem apply_unset {s : State} {u : Setup} (hreset : s.inReset = false) (hjob : s.loader.job = .validated .apply u)
    (hp : s.loader.part = .unset) : ∃ t : State, exec .applySetup s = .next t ∧
      t.loader = { s.loader with part := .starting, job := .startup ⟨.readSetup .regions, false, [], 0, []⟩ } ∧
      StatusRaised t .starting s.loader.result s.loader.faults ∧ Awaits t .startupRead 0 (.read 40) ∧
      OnlyParts s t [.loader, .raised] := by
  have hnot : s.loader.part ≠ .starting := by rw [hp]; nofun
  have hrestart : s.applyAccepted u = (s.setPart .starting s.loader.result).startupRead
      (Startup.start.at (.readSetup .regions)) SetupPart.regions.off SetupPart.regions.len := if_pos hp
  have hread := grows_startupRead (s.setPart .starting s.loader.result) (Startup.start.at (.readSetup .regions))
    SetupPart.regions.off SetupPart.regions.len
  have hset : Grows s (s.setPart .starting s.loader.result) [.loader, .raised] := by
    rw [setPart_changed hnot]
    exact grows_setLoader_raiseStatus s _
  have hloader : (s.setPart .starting s.loader.result).loader = { s.loader with part := .starting } := by
    rw [setPart_changed hnot, raiseStatus_loader]
  have hstatus : StatusRaised (s.setPart .starting s.loader.result) .starting s.loader.result s.loader.faults := by
    rw [setPart_changed hnot]
    exact statusRaised_raiseStatus _
  refine ⟨_, exec_applySetup hreset hjob, ?_⟩
  rw [hrestart]
  refine ⟨?_, hstatus.grows hread, awaits_startupRead _ _ _ _, (hset.andThen hread).parts⟩
  rw [startupRead_loader, hloader]
  rfl

theorem applyAccepted_eq {s : State} (u : Setup) (h : s.loader.part ≠ .unset) :
    s.applyAccepted u = ((s.loadTables u).setResult ⟨.accepted, 0⟩).endJob := if_neg h

end Sys2Proof.Machine
end


section
/-! Obligation O58: the apply accepted, and the acceptance of a format. -/

namespace Sys2Proof.Machine

/-! ## The apply accepted (R51, R173) -/

section
variable {s : State} {u : Setup}

theorem apply_accepted (hreset : s.inReset = false) (hjob : s.loader.job = .validated .apply u)
    (hp : s.loader.part = .ready ∨ (s.loader.part = .unformatted ∧ s.loader.requests = [])) :
    ∃ t : State, exec .applySetup s = .next t ∧
      t.loader = { s.loader with inForce := some u, result := ⟨.accepted, 0⟩, job := .idle } ∧
      (s.loader.result ≠ ⟨.accepted, 0⟩ → StatusRaised t s.loader.part ⟨.accepted, 0⟩ s.loader.faults) ∧
      Grows (s.loadTables u) t [.loader, .raised] := by
  have hpart : (s.loadTables u).loader.part = .ready ∨ (s.loadTables u).loader.part = .formatting ∨
      (s.loadTables u).loader.requests = [] := by
    rw [loadTables_loader]
    rcases hp with hp | ⟨-, hr⟩
    · exact .inl hp
    · exact .inr (.inr hr)
  have hset : s.loader.part ≠ .unset := by rcases hp with hp | ⟨hp, -⟩ <;> rw [hp] <;> nofun
  obtain ⟨hloader, hstatus, hgrow⟩ := finished_spec (s.loadTables u) ⟨.accepted, 0⟩ hpart
  rw [loadTables_loader] at hloader hstatus
  exact ⟨_, (exec_applySetup hreset hjob).trans (congrArg _ (applyAccepted_eq u hset)), hloader, hstatus, hgrow⟩

/-- What the end of an exchange leaves of a stream. -/
theorem entry_of_grows {v t : State} (hgrow : Grows v t [.loader, .raised]) (hu : t.loader.inForce = v.loader.inForce)
    (n : StreamId) : t.stream n = v.stream n ∧ t.sessionWord n = v.sessionWord n ∧
      (SessionWordRaised v n → SessionWordRaised t n) ∧ ∀ r k, AnswersFresh v n r k → AnswersFresh t n r k := by
  have hentry : t.stream n = v.stream n := streams_of_grows hgrow (by decide) n
  exact ⟨hentry, sessionWord_congr (by rw [hentry]) hu, fun h => h.carried hgrow (by rw [hentry]) hu,
    fun r k h => h.grows hgrow (by rw [hentry])⟩
end

/-! ## The acceptance of a format (R174, R70, R168) -/

theorem formatAllowed_iff (s : State) : s.formatAllowed = true ↔ s.loader.part = .unformatted ∨
    (s.loader.part = .ready ∧ (∀ n : StreamId, (s.stream n).session.isClaimed = false) ∧ s.queue = [] ∧
      s.engine.batch = none) := by
  simp [State.formatAllowed, mem_allStreams, and_assoc]

section
variable {s : State} {u : Setup} (hreset : s.inReset = false) (hjob : s.loader.job = .validated .format u)
include hreset hjob

theorem exec_format_accepts (h : s.formatAllowed = true) : exec .format s = .next (s.formatAccepted u) := by
  show Host.Outcome.next _ = _
  rw [live_eq hreset]
  simp only [hjob, h, if_true]

theorem exec_format_refuses (h : s.formatAllowed = false) : exec .format s = .next (s.setResult ⟨.busy, 0⟩).endJob := by
  show Host.Outcome.next _ = _
  rw [live_eq hreset]
  simp only [hjob, h, Bool.false_eq_true, if_false]
end

/-! ## Batches discarded, and answers emptied -/

/-- A stream's entry at the acceptance, before the tables take effect. -/
def Stream.discarded (t : Stream) : Stream := if t.batch = .collecting then t.batchIdle.settled else t

section
variable (s : State)

theorem stream_discardCollecting (n : StreamId) : s.discardCollecting.stream n = (s.stream n).discarded := by
  refine stream_foldl_all (P := fun _ => True) (F := fun _ t => t.discarded) (fun _ _ _ => trivial) (fun x m _ => ?_)
    (fun x m k _ hk => ?_) trivial n
  · unfold Stream.discarded
    split
    · exact stream_updStream_self x m _
    · rfl
  · split
    · exact onlyStreams_updStream x m _ k (by simpa using hk)
    · rfl

theorem grows_discardCollecting : Grows s s.discardCollecting [.streams] :=
  Grows.foldl _ (fun x n => Grows.ite (grows_updStream x n _) (Grows.refl x _)) _ s

theorem stream_emptyAnswers (n : StreamId) :
    s.emptyAnswers.stream n = ({ s.stream n with answer := .empty } : Stream).settled :=
  stream_foldl_all (P := fun _ => True) (F := fun _ t => ({ t with answer := .empty } : Stream).settled) (fun _ _ _ => trivial)
    (fun x m _ => stream_updStream_self x m _) (fun x m k _ hk => onlyStreams_setAnswer x m .empty k (by simpa using hk)) trivial n

theorem grows_emptyAnswers : Grows s s.emptyAnswers [.streams] := Grows.foldl _ (fun x n => grows_setAnswer x n _) _ s
end

section
variable {t : Stream}

/-- A stream a format may meet: not CLAIMED, its batch IDLE or COLLECTING. -/
def FormatMeets (t : Stream) : Prop :=
  (∀ p, t.session ≠ .claimed p) ∧ (t.batch = .idle ∧ t.collectTimer = none ∨ t.batch = .collecting)

theorem discarded_spec (h : FormatMeets t) : t.discarded.batch = .idle ∧ t.discarded.collectTimer = none ∧
    t.discarded.session = t.session ∧ t.discarded.guardHits = t.guardHits ∧ (t.batch = .collecting → BatchIsIdle t.discarded) := by
  unfold Stream.discarded
  split
  next hb =>
    obtain ⟨hidle, -⟩ := batchIdle_settled_idle t
    exact ⟨rfl, rfl, rfl, rfl, fun _ => hidle⟩
  next hb =>
    obtain ⟨hi, hc⟩ := h.2.resolve_right hb
    exact ⟨hi, hc, rfl, rfl, fun hn => absurd hn hb⟩

theorem loaded_session (t : Stream) (e : Bool) : (t.loaded e).session =
    if e then (if t.session = .off then .vacant else t.session) else .off := by
  cases e
  · rfl
  · by_cases hs : t.session = .off <;> simp [Stream.loaded, Stream.reload, hs]

theorem loaded_idle (h : BatchIsIdle t) (e : Bool) : BatchIsIdle (t.loaded e) := by
  obtain ⟨hb, hcap, hflags, hct, hcount, hcancel⟩ := h
  cases e
  · exact ⟨hb, hcap, hflags, hct, hcount, hcancel⟩
  · by_cases hs : t.session = .off
    · have hreload : t.reload true = { t with session := .vacant, checkFails := 0 } := by simp [Stream.reload, hs]
      rw [Stream.loaded, hreload]
      exact ⟨hb, hcap, hflags, hct, hcount, hcancel⟩
    · have hreload : t.reload true = t := by simp [Stream.reload, hs]
      rw [Stream.loaded, hreload]
      exact ⟨hb, hcap, hflags, hct, hcount, hcancel⟩
end

/-! ## The acceptance over all streams -/

/-- The state at the acceptance with its streams as the format leaves them. -/
def State.formatCleared (s : State) (u : Setup) : State := (s.discardCollecting.loadTables u).emptyAnswers

section
variable {s : State} {u : Setup} (hmeets : ∀ n : StreamId, FormatMeets (s.stream n))
include hmeets

/-- No timer runs out as the tables of a format take effect. -/
theorem loadTables_discarded (n : StreamId) :
    (s.discardCollecting.loadTables u).stream n = (s.stream n).discarded.loaded (u.streams[n.val]).enable := by
  have hentry := stream_discardCollecting s n
  obtain ⟨hbatch, hcollect, hsession, -, -⟩ := discarded_spec (hmeets n)
  obtain ⟨-, -, -, hkept⟩ := loaded_kept (s.stream n).discarded (u.streams[n.val]).enable
  rw [← hentry]
  refine loadTables_timeless (.inr (.inr (.inl (by rw [hentry]; exact hbatch)))) (fun ⟨e, he, _⟩ => ?_) (fun ⟨e, he, _⟩ => ?_)
  · obtain ⟨⟨p, hp⟩, -⟩ := settled_idleTimer (loaded_settled _ _) he
    rw [hentry, loaded_session, hsession] at hp
    cases hen : (u.streams[n.val]).enable with
    | false => rw [hen] at hp; exact absurd hp nofun
    | true =>
      rw [hen, if_pos rfl] at hp
      split at hp
      · exact absurd hp nofun
      · exact (hmeets n).1 p hp
  · rw [hentry, hkept, hcollect] at he
    exact absurd he nofun

theorem formatCleared_entry (n : StreamId) : ((s.formatCleared u).stream n).answer = .empty ∧
    ((s.formatCleared u).stream n).batch = .idle ∧
    ((s.formatCleared u).stream n).guardHits = (s.stream n).guardHits ∧
    ((s.stream n).batch = .collecting → BatchIsIdle ((s.formatCleared u).stream n)) ∧
    ((s.formatCleared u).stream n).session =
      (if (u.streams[n.val]).enable then (if (s.stream n).session = .off then .vacant else (s.stream n).session) else .off) := by
  obtain ⟨hbatch, -, hsession, hhits, hidle⟩ := discarded_spec (hmeets n)
  obtain ⟨hbatch', -, hhits', -⟩ := loaded_kept (s.stream n).discarded (u.streams[n.val]).enable
  unfold State.formatCleared
  rw [stream_emptyAnswers, loadTables_discarded hmeets]
  refine ⟨rfl, hbatch'.trans hbatch, hhits'.trans hhits, fun hc => ?_, ?_⟩
  · obtain ⟨h1, h2, h3, h4, h5, h6⟩ := loaded_idle (hidle hc) (u.streams[n.val]).enable
    exact ⟨h1, h2, h3, h4, h5, h6⟩
  · rw [← hsession]
    exact loaded_session _ _

theorem formatCleared_frame : (s.formatCleared u).loader = { s.loader with inForce := some u } ∧
    (s.formatCleared u).sweep = s.sweep ∧ OnlyParts s (s.formatCleared u) [.loader, .raised, .streams] := by
  have hdiscard := grows_discardCollecting s
  have hload := onlyParts_loadTables s.discardCollecting u
  have hempty := grows_emptyAnswers (s.discardCollecting.loadTables u)
  have hall : OnlyParts s (s.formatCleared u) [.loader, .raised, .streams, .commitQueue, .engine] :=
    (((hdiscard.parts.mono (by decide)).andThen hload).andThen hempty.parts)
  have hidle : ∀ n : StreamId, (s.discardCollecting.stream n).batch = .idle := fun n => by
    rw [stream_discardCollecting]
    exact (discarded_spec (hmeets n)).1
  have hqueue : (s.formatCleared u).queue = s.queue := by
    have h1 : (s.formatCleared u).queue = (s.discardCollecting.loadTables u).queue := hempty.parts .commitQueue (by decide)
    have h2 : s.discardCollecting.queue = s.queue := hdiscard.parts .commitQueue (by decide)
    rw [h1, loadTables_queue, h2]
    exact List.filter_eq_self.mpr (fun n _ => decide_eq_true (fun ⟨_, _, hb⟩ => absurd ((hidle n).symm.trans hb) nofun))
  have hengine : (s.formatCleared u).engine = s.engine := by
    have h1 : (s.formatCleared u).engine = (s.discardCollecting.loadTables u).engine := hempty.parts .engine (by decide)
    have h2 : s.discardCollecting.engine = s.engine := hdiscard.parts .engine (by decide)
    obtain ⟨-, hsame⟩ := loadTables_engine s.discardCollecting u
    rw [h1, hsame (fun n hb => absurd ((hidle n).symm.trans hb) nofun), h2]
  refine ⟨?_, hall .sweep (by decide), fun p hp => ?_⟩
  · have h1 : (s.formatCleared u).loader = (s.discardCollecting.loadTables u).loader := hempty.parts .loader (by decide)
    have h2 : s.discardCollecting.loader = s.loader := hdiscard.parts .loader (by decide)
    rw [h1, loadTables_loader, h2]
  · by_cases hq : p = .commitQueue
    · subst hq
      exact hqueue
    · by_cases he : p = .engine
      · subst he
        exact hengine
      · exact hall p (by
          simp only [List.mem_cons, List.not_mem_nil, or_false, not_or] at hp ⊢
          exact ⟨hp.1, hp.2.1, hp.2.2, hq, he⟩)
end

/-- The state with the sweep given. -/
def State.sweptAs (s : State) (x : Sweep) : State := { s with sweep := x }

theorem sweptAs_spec (s : State) (x : Sweep) : (s.sweptAs x).loader = s.loader ∧ (s.sweptAs x).sweep = x ∧
    (∀ n, (s.sweptAs x).stream n = s.stream n) ∧ OnlyParts s (s.sweptAs x) [.sweep] :=
  ⟨rfl, rfl, fun _ => rfl, onlyParts_sweep s x⟩

/-- The state at the acceptance with the sweep as the format leaves it. -/
def State.formatSwept (s : State) (u : Setup) : State :=
  (s.formatCleared u).sweptAs ((s.formatCleared u).sweep.formatted (s.loader.today.getD 0))

theorem formatAccepted_eq (s : State) (u : Setup) : s.formatAccepted u =
    ((s.formatSwept u).setPart .formatting ⟨.accepted, 0⟩).formatWrite ⟨.stampZero, false, s.loader.today.getD 0⟩ := by
  rw [State.formatAccepted, State.formatSwept, State.formatCleared, State.sweptAs]

/-- Format stands at a place, and the write of the place is raised (R175). -/
structure PlaceRaised (s t : State) (f : Formatting) : Prop where
  loader : t.loader = { s.loader with job := .formatting f }
  write : Awaits t .format (s.formatBytes f.day f.step).1 (.write (lanesOf (s.formatBytes f.day f.step).2))
  grows : Grows s t [.loader, .raised]

theorem formatWrite_spec (s : State) (f : Formatting) : PlaceRaised s (s.formatWrite f) f :=
  ⟨raise_loader _ _ _ _ _, awaits_raise _ _ _ _ _, ((grows_setJob s _).mono).andThen (grows_raiseWrite _ _ _ _ _)⟩

theorem setPart_status {s : State} {p : PartState} {r : SetupResult} (h : s.loader.part ≠ p) :
    StatusRaised (s.setPart p r) p r s.loader.faults := by
  rw [setPart_changed h]
  exact statusRaised_raiseStatus _

theorem format_accepted {s : State} {u : Setup} (hmeets : ∀ n : StreamId, FormatMeets (s.stream n))
    (hp : s.loader.part ≠ .formatting) :
    (s.formatAccepted u).loader =
      { s.loader with
        inForce := some u, part := .formatting, result := ⟨.accepted, 0⟩
        job := .formatting ⟨.stampZero, false, s.loader.today.getD 0⟩ } ∧
    StatusRaised (s.formatAccepted u) .formatting ⟨.accepted, 0⟩ s.loader.faults ∧
    Awaits (s.formatAccepted u) .format Config.summaryBase (.write (lanesOf (zeros 8))) ∧
    (s.formatAccepted u).sweep = s.sweep.formatted (s.loader.today.getD 0) ∧
    (∀ n : StreamId, (s.formatAccepted u).stream n = (s.formatCleared u).stream n) ∧
    OnlyParts s (s.formatAccepted u) [.loader, .raised, .streams, .sweep] := by
  obtain ⟨hloader, hsweep, hparts⟩ := formatCleared_frame (u := u) hmeets
  obtain ⟨hswept_loader, hswept_sweep, hswept_stream, hswept⟩ :=
    sweptAs_spec (s.formatCleared u) ((s.formatCleared u).sweep.formatted (s.loader.today.getD 0))
  rw [← State.formatSwept] at hswept_loader hswept_sweep hswept hswept_stream
  rw [hloader] at hswept_loader
  rw [hsweep] at hswept_sweep
  have hpart : (s.formatSwept u).loader.part ≠ .formatting := by
    rw [hswept_loader]
    exact hp
  have hset : Grows (s.formatSwept u) ((s.formatSwept u).setPart .formatting ⟨.accepted, 0⟩) [.loader, .raised] := by
    rw [setPart_changed hpart]
    exact grows_setLoader_raiseStatus _ _
  have hset_loader : ((s.formatSwept u).setPart .formatting ⟨.accepted, 0⟩).loader =
      { s.loader with inForce := some u, part := .formatting, result := ⟨.accepted, 0⟩ } := by
    rw [setPart_changed hpart, raiseStatus_loader, hswept_loader]
  have hset_status : StatusRaised ((s.formatSwept u).setPart .formatting ⟨.accepted, 0⟩) .formatting ⟨.accepted, 0⟩ s.loader.faults := by
    have h := setPart_status (r := ⟨.accepted, 0⟩) hpart
    rw [hswept_loader] at h
    exact h
  obtain ⟨hjob, hwrite, hgrow⟩ := formatWrite_spec ((s.formatSwept u).setPart .formatting ⟨.accepted, 0⟩)
    ⟨.stampZero, false, s.loader.today.getD 0⟩
  have hall := hset.andThen hgrow
  rw [formatAccepted_eq]
  refine ⟨?_, hset_status.grows hgrow, hwrite, ?_, fun n => ?_, ?_⟩
  · rw [hjob, hset_loader]
  · have h : ((s.formatSwept u).setPart .formatting ⟨.accepted, 0⟩ |>.formatWrite
        ⟨.stampZero, false, s.loader.today.getD 0⟩).sweep = (s.formatSwept u).sweep := hall.parts .sweep (by decide)
    rw [h, hswept_sweep]
  · exact (streams_of_grows hall (by decide) n).trans (hswept_stream n)
  · exact ((hparts.mono (by decide)).andThen hswept).andThen hall.parts

/-- Settles O58: the apply by part state and by each stream's turn, the format by whether it may be accepted. -/
theorem applyAndFormatTakeEffect : Obligations.ApplyAndFormatTakeEffect := by
  unfold Obligations.ApplyAndFormatTakeEffect
  refine ⟨fun s u hreset hjob => ⟨apply_unset hreset hjob, fun hp hs => ?_⟩,
    fun s u hreset hjob => ⟨fun hready hbusy => ?_, fun hp hmeets hs => ?_⟩⟩
  · obtain ⟨t, hexec, hloader, hstatus, hgrow⟩ := apply_accepted hreset hjob hp
    have hforce : t.loader.inForce = (s.loadTables u).loader.inForce := by rw [hloader, loadTables_loader]
    have hqueue : t.queue = (s.loadTables u).queue := hgrow.parts .commitQueue (by decide)
    have hengine : t.engine = (s.loadTables u).engine := hgrow.parts .engine (by decide)
    obtain ⟨hcut, hstands⟩ := loadTables_engine s u
    refine ⟨t, hexec, hloader, hstatus, hqueue.trans (loadTables_queue s u), fun b hb => ⟨fun hn hc => ?_, fun hn => ?_⟩,
      fun n hen => ?_, fun n hoff => ?_, fun n hn => ?_, (onlyParts_loadTables s u).andThen hgrow.parts⟩
    · rw [hengine, hcut hn, cutBy_disabled hb hc]
    · rw [hengine, hstands hn]
    · obtain ⟨hentry, -, hword, hanswer⟩ := entry_of_grows hgrow hforce n
      obtain ⟨htimeless, hidle, hcollect⟩ := loadTables_enabled (u := u) (hs n) hen
      rw [hentry]
      refine ⟨htimeless, fun h1 h2 => ?_, fun h2 hb => ?_⟩
      · obtain ⟨e1, e2, e3, e4, e5, e6, hraised, hfresh⟩ := hidle h1 h2
        exact ⟨e1, e2, e3, e4, e5, e6, hword hraised, hanswer _ _ hfresh⟩
      · obtain ⟨e1, hfresh, hrest⟩ := hcollect h2 hb
        exact ⟨e1, hanswer _ _ hfresh, hrest⟩
    · obtain ⟨hentry, -, -, hanswer⟩ := entry_of_grows hgrow hforce n
      obtain ⟨e1, e2, e3, e4, e5, hstill, htimeout, hcuts⟩ := loadTables_disabled (s := s) hoff
      rw [hentry]
      exact ⟨e1, e2, e3, e4, e5, hstill, fun h1 h2 h3 => ⟨(htimeout h1 h2 h3).1, hanswer _ _ (htimeout h1 h2 h3).2⟩,
        fun h1 h2 => ⟨(hcuts h1 h2).1, hanswer _ _ (hcuts h1 h2).2⟩⟩
    · obtain ⟨-, hsame, hword, -⟩ := entry_of_grows hgrow hforce n
      exact hword (loadTables_word (by rw [← hsame]; exact hn))
  · have hno : s.formatAllowed = false := Bool.eq_false_iff.mpr (fun hyes => by
      rcases (formatAllowed_iff s).mp hyes with hunf | ⟨-, hfree, hq, hb⟩
      · exact absurd (hready.symm.trans hunf) nofun
      · rcases hbusy with ⟨n, p, hc⟩ | hn | hn
        · exact absurd (hfree n) (by rw [hc]; nofun)
        · exact hn hq
        · exact hn hb)
    obtain ⟨hloader, hstatus, hgrow⟩ := finished_spec s ⟨.busy, 0⟩ (.inl hready)
    exact ⟨_, exec_format_refuses hreset hjob hno, hloader, fun hne => hready ▸ hstatus hne, hgrow.parts⟩
  · have hyes : s.formatAllowed = true := (formatAllowed_iff s).mpr (hp.imp id (fun ⟨hready, hq, hb⟩ =>
      ⟨hready, fun n => Bool.eq_false_iff.mpr (fun hc => by
        obtain ⟨p, hp⟩ := (isClaimed_iff _).mp hc
        exact (hmeets n).1 p hp), hq, hb⟩))
    have hpart : s.loader.part ≠ .formatting := by rcases hp with hp | ⟨hp, -⟩ <;> rw [hp] <;> nofun
    obtain ⟨hloader, hstatus, hwrite, hsweep, hentries, hparts⟩ := format_accepted (u := u) hmeets hpart
    refine ⟨_, exec_format_accepts hreset hjob hyes, hloader, hstatus, hwrite, hsweep, fun n => ?_, hparts⟩
    rw [hentries n]
    exact formatCleared_entry hmeets n

end Sys2Proof.Machine
end


section
/-! Obligation O59: the answer writes held for a format, and their release at their places. -/

namespace Sys2Proof.Machine

/-! ## A request at its place among those raised (R18) -/

theorem mem_insertRaised {x q : OwnReq} : ∀ {l : List OwnReq}, x ∈ insertRaised q l ↔ x = q ∨ x ∈ l
  | [] => by simp [insertRaised]
  | r :: rs => by
    unfold insertRaised
    split
    · exact List.mem_cons
    · rw [List.mem_cons, mem_insertRaised, List.mem_cons]
      exact or_left_comm

/-- By rising serial number. -/
def SerialsRise (l : List OwnReq) : Prop := l.Pairwise (fun p q => p.serial ≤ q.serial)

theorem serialsRise_insertRaised {q : OwnReq} : ∀ {l : List OwnReq}, SerialsRise l → SerialsRise (insertRaised q l)
  | [], _ => List.pairwise_singleton _ _
  | r :: rs, h => by
    obtain ⟨hr, hrs⟩ := List.pairwise_cons.mp h
    unfold insertRaised
    split
    next hlt =>
      refine List.Pairwise.cons (fun x hx => ?_) h
      rcases List.mem_cons.mp hx with rfl | hx
      · omega
      · have := hr x hx
        omega
    next hge =>
      refine List.Pairwise.cons (fun x hx => ?_) (serialsRise_insertRaised hrs)
      rcases mem_insertRaised.mp hx with rfl | hx
      · omega
      · exact hr x hx

/-- Several requests, each at its place. -/
def insertAll (l : List OwnReq) (qs : List OwnReq) : List OwnReq := qs.foldl (fun l q => insertRaised q l) l

theorem mem_insertAll {x : OwnReq} : ∀ {qs l : List OwnReq}, x ∈ insertAll l qs ↔ x ∈ qs ∨ x ∈ l
  | [], l => by simp [insertAll]
  | q :: qs, l => by
    have ih := mem_insertAll (x := x) (qs := qs) (l := insertRaised q l)
    rw [insertAll, List.foldl_cons, ← insertAll, ih, mem_insertRaised, List.mem_cons]
    exact or_left_comm.trans or_assoc.symm

theorem serialsRise_insertAll : ∀ {qs l : List OwnReq}, SerialsRise l → SerialsRise (insertAll l qs)
  | [], _, h => h
  | q :: qs, l, h => serialsRise_insertAll (qs := qs) (l := insertRaised q l) (serialsRise_insertRaised h)

/-! ## The requests of the slot and of the list -/

/-- A request waits for the port: in the own slot, or raised and in the list. -/
def State.waitsForPort (s : State) (q : OwnReq) : Prop := s.path.ownSlot = some q ∨ q ∈ s.path.raised

@[simp] theorem refillOwn_formatHeld (s : State) : s.refillOwn.path.formatHeld = s.path.formatHeld := by
  unfold State.refillOwn
  split <;> rfl

theorem waitsForPort_refillOwn {s : State} {q : OwnReq} (h : s.waitsForPort q) : s.refillOwn.waitsForPort q := by
  unfold State.refillOwn
  split
  next p ps hslot hraised =>
    rcases h with h | h
    · exact absurd (hslot.symm.trans h) nofun
    · rw [hraised] at h
      rcases List.mem_cons.mp h with rfl | h
      · exact .inl rfl
      · exact .inr h
  next => exact h

theorem refillOwn_raised_sublist (s : State) : s.refillOwn.path.raised.Sublist s.path.raised := by
  unfold State.refillOwn
  split
  next p ps hslot hraised =>
    rw [hraised]
    exact List.sublist_cons_self p ps
  next => exact List.Sublist.refl _

section
variable (s : State) (t : OwnTag) (o : Nat) (b : OwnBody) (h : Option Nat)

@[simp] theorem raise_formatHeld : (s.raise t o b h).path.formatHeld = s.path.formatHeld := by
  rw [State.raise, refillOwn_formatHeld, countAnswer_path]

theorem raise_raised_sublist : (s.raise t o b h).path.raised.Sublist (s.path.raised ++ [s.newOwn t o b h]) := by
  have hsub := refillOwn_raised_sublist (({ s with
      serial := s.serial + 1
      path := { s.path with raised := s.path.raised ++ [s.newOwn t o b h] } } : State).countAnswer t)
  rw [countAnswer_path] at hsub
  exact hsub

theorem waitsForPort_raise {q : OwnReq} (hq : s.waitsForPort q) : (s.raise t o b h).waitsForPort q := by
  rw [State.raise]
  apply waitsForPort_refillOwn
  rw [State.waitsForPort, countAnswer_path]
  exact hq.imp id (List.mem_append_left _)

theorem serialsRise_raise (hr : SerialsRise s.path.raised) (hs : ∀ q ∈ s.path.raised, q.serial ≤ s.serial) :
    SerialsRise (s.raise t o b h).path.raised := by
  refine List.Pairwise.sublist (raise_raised_sublist s t o b h) (List.pairwise_append.mpr ⟨hr, List.pairwise_singleton _ _, ?_⟩)
  intro q hq x hx
  rw [List.mem_singleton.mp hx]
  exact hs q hq
end

/-! ## The release (R175) -/

/-- An answer write held is no longer to be held. -/
def State.freed (s : State) (q : OwnReq) : Bool := !(q.tag.answerOf.any s.holdsAnswer)

/-- The state with the answer writes no longer to be held at their places, before the slot takes its next. -/
def State.answersFreed (s : State) : State :=
  { s with path := { s.path with
      raised := insertAll s.path.raised (s.path.formatHeld.filter s.freed)
      formatHeld := s.path.formatHeld.filter (fun q => !s.freed q) } }

theorem releaseAnswers_eq (s : State) : s.releaseAnswers = s.answersFreed.refillOwn := rfl

theorem freed_answer {s : State} {q : OwnReq} {n : StreamId} (h : q.tag.answerOf = some n) : s.freed q = !s.holdsAnswer n := by
  rw [State.freed, h, Option.any_some]

theorem mem_held_releaseAnswers {s : State} {q : OwnReq} :
    q ∈ s.releaseAnswers.path.formatHeld ↔ q ∈ s.path.formatHeld ∧ s.freed q = false := by
  rw [releaseAnswers_eq, refillOwn_formatHeld]
  simp only [State.answersFreed, List.mem_filter, Bool.not_eq_true']

theorem waitsForPort_releaseAnswers {s : State} {q : OwnReq} (hq : q ∈ s.path.formatHeld) (hf : s.freed q = true) :
    s.releaseAnswers.waitsForPort q := by
  rw [releaseAnswers_eq]
  exact waitsForPort_refillOwn (.inr (mem_insertAll.mpr (.inl (List.mem_filter.mpr ⟨hq, hf⟩))))

theorem ownWaiting_answersFreed {s : State} {q : OwnReq} (h : q ∈ s.ownWaiting) : q ∈ s.answersFreed.ownWaiting := by
  simp only [State.ownWaiting, State.answersFreed, List.mem_append, mem_insertAll, List.mem_filter, Bool.not_eq_true'] at h ⊢
  rcases h with ((h | h) | h) | h
  · exact .inl (.inl (.inl h))
  · exact .inl (.inl (.inr h))
  · exact .inl (.inr (.inr h))
  · cases hf : s.freed q with
    | true => exact .inl (.inr (.inl ⟨h, rfl⟩))
    | false => exact .inr ⟨h, rfl⟩

theorem grows_releaseAnswers (s : State) : Grows s s.releaseAnswers [.raised] := by
  have hfreed : OnlyParts s s.answersFreed [.raised] := fun p hp => by
    cases p <;> simp [Unchanged, State.answersFreed] at hp ⊢
  rw [releaseAnswers_eq]
  refine ⟨hfreed.andThen (onlyParts_refillOwn _), fun q hq => ?_, ?_⟩
  · exact (mem_ownWaiting_refillOwn_iff _ q).mpr (ownWaiting_answersFreed hq)
  · exact refillOwn_base _

@[simp] theorem releaseAnswers_serial (s : State) : s.releaseAnswers.serial = s.serial := refillOwn_serial _

theorem serialsRise_releaseAnswers {s : State} (h : SerialsRise s.path.raised) : SerialsRise s.releaseAnswers.path.raised := by
  rw [releaseAnswers_eq]
  exact List.Pairwise.sublist (refillOwn_raised_sublist s.answersFreed) (serialsRise_insertAll h)

theorem mem_raised_releaseAnswers {s : State} {q : OwnReq} (h : q ∈ s.releaseAnswers.path.raised) :
    q ∈ s.path.raised ++ s.path.formatHeld := by
  rw [releaseAnswers_eq] at h
  rcases mem_insertAll.mp ((refillOwn_raised_sublist s.answersFreed).mem h) with h | h
  · exact List.mem_append_right _ (List.mem_of_mem_filter h)
  · exact List.mem_append_left _ h

/-- Without a format under way, none is held any longer. -/
theorem held_releaseAnswers_idle {s : State} (h : s.loader.job = .idle) : s.releaseAnswers.path.formatHeld = [] := by
  refine List.eq_nil_iff_forall_not_mem.mpr (fun q hq => ?_)
  have hfree : s.holdsAnswer = fun _ => false := by
    funext n
    rw [State.holdsAnswer, h]
  have hheld := (mem_held_releaseAnswers.mp hq).2
  rw [State.freed, hfree] at hheld
  cases hq : q.tag.answerOf <;> rw [hq] at hheld <;> exact absurd hheld nofun

/-! ## Desks still to come -/

theorem deskToCome_yes {p : FormatStep} {n : StreamId} (h : p = .note ∨ ∃ m : StreamId, p = .desk m ∧ m.val ≤ n.val) :
    p.deskToCome n = true := by
  rcases h with rfl | ⟨m, rfl, hm⟩
  · rfl
  · exact decide_eq_true hm

theorem deskToCome_no {p : FormatStep} {n : StreamId}
    (h : (∃ m : StreamId, p = .desk m ∧ n.val < m.val) ∨ p = .stamp ∨ p = .summaryRest ∨ p = .summaryFields ∨
      ∃ r k, p = .record r k) : p.deskToCome n = false := by
  rcases h with ⟨m, rfl, hm⟩ | rfl | rfl | rfl | ⟨r, k, rfl⟩
  · exact decide_eq_false (Nat.not_le.mpr hm)
  all_goals rfl

theorem holdsAnswer_formatting {s : State} {f : Formatting} (h : s.loader.job = .formatting f) (n : StreamId) :
    s.holdsAnswer n = f.step.deskToCome n := by
  rw [State.holdsAnswer, h]

end Sys2Proof.Machine
end


section
/-! Obligation O59: the places of a format in their order, and what is written at each. -/

namespace Sys2Proof.Machine

/-! ## The order of the places (R175) -/

section
variable (s : State)

theorem formatNext_desk {n m : StreamId} (h : n.val + 1 = m.val) : s.formatNext (.desk n) = some (.desk m) := by
  simp only [State.formatNext, nextStream_some h]

theorem formatNext_lastDesk : s.formatNext (.desk 31) = some (.record .patrons 0) := by
  simp only [State.formatNext, nextStream_none (n := 31) rfl]

theorem formatNext_record {r : Region} {k : Nat} (h : k + 1 < s.regionCount r) :
    s.formatNext (.record r k) = some (.record r (k + 1)) := if_pos h

theorem formatNext_region {r q : Region} {k : Nat} (h : s.regionCount r ≤ k + 1) (hq : r.following = some q) :
    s.formatNext (.record r k) = some (.record q 0) := by
  simp only [State.formatNext, if_neg (Nat.not_lt.mpr h), hq]

theorem formatNext_lastRegion {k : Nat} (h : s.regionCount .holds ≤ k + 1) :
    s.formatNext (.record .holds k) = some .summaryRest := by
  simp only [State.formatNext, if_neg (Nat.not_lt.mpr h), Region.following]
end

/-! ## The empty forms as bytes (R35) -/

theorem leBytes_zero : ∀ n : Nat, leBytes n 0 = zeros n
  | 0 => rfl
  | n + 1 => by
    rw [leBytes, Nat.zero_div, leBytes_zero n]
    rfl

theorem putPlaces_nil : ∀ n : Nat, putPlaces n [] = List.replicate (4 * n) 0xFF
  | 0 => rfl
  | n + 1 => by
    rw [putPlaces, putPlaces_nil n, put4_none]
    rfl

theorem zeros_append (a b : Nat) : zeros a ++ zeros b = zeros (a + b) := List.replicate_append_replicate

theorem zeros_take {a b : Nat} (h : a ≤ b) : (zeros b).take a = zeros a := by
  rw [zeros, List.take_replicate, Nat.min_eq_left h]
  rfl

section
variable (k n : Nat)

theorem emptyRecord_patrons : emptyRecord .patrons k n = zeros 92 ++ List.replicate 164 0xFF := by
  show encodePatron (zeros 84) ⟨0, 0, [], 0, 0, false, none⟩ = _
  rw [encodePatron, zeros_take (Nat.le_refl 84), putPlaces_nil]
  rfl

theorem emptyRecord_cards : emptyRecord .cards k n = leBytes 4 Config.absent4 ++ zeros 12 := rfl

theorem emptyRecord_titles : emptyRecord .titles k n = zeros 120 ++ List.replicate 136 0xFF := by
  show encodeTitle (zeros 128 ++ putPlaces 32 []) ⟨[], 0, none, none⟩ = _
  rw [encodeTitle, putPlaces_nil]
  rfl

theorem emptyRecord_items : emptyRecord .items k n =
    zeros 9 ++ [0xFF, 0, 0] ++ List.replicate 8 0xFF ++ zeros 4 ++ List.replicate 8 0xFF ++ zeros 32 := rfl

theorem encodeHold_freeForm (next : Option Nat) : encodeHold (Hold.freeForm next) =
    zeros 4 ++ List.replicate 8 0xFF ++ zeros 4 ++ List.replicate 12 0xFF ++ put4 next ++ zeros 32 :=
  congrArg (fun l => l ++ put4 next ++ zeros 32) (show leBytes 1 HoldState.free.code ++ leBytes 1 0 ++ [0, 0] ++ put4 none ++
    put4 none ++ leBytes 2 0 ++ [0, 0] ++ put4 none ++ put4 none ++ put4 none =
      zeros 4 ++ List.replicate 8 0xFF ++ zeros 4 ++ List.replicate 12 0xFF by decide)

theorem emptyRecord_holds : emptyRecord .holds k n =
    zeros 4 ++ List.replicate 8 0xFF ++ zeros 4 ++ List.replicate 12 0xFF ++
      (if k + 1 < n then leBytes 4 (k + 1) else List.replicate 4 0xFF) ++ zeros 32 := by
  show encodeHold (Hold.freeForm (if k + 1 < n then some (k + 1) else none)) = _
  rw [encodeHold_freeForm]
  split <;> rfl

theorem emptyRecord_length (r : Region) : (emptyRecord r k n).length = r.size := by
  cases r with
  | patrons => rw [emptyRecord_patrons, List.length_append, zeros_length, List.length_replicate]; rfl
  | cards => rfl
  | titles => rw [emptyRecord_titles, List.length_append, zeros_length, List.length_replicate]; rfl
  | items => rfl
  | holds =>
    rw [emptyRecord_holds]
    split <;> rfl

theorem emptyRecord_mark (r : Region) : (emptyRecord r k n)[r.markOff]? = some 0 := by
  cases r with
  | patrons => rw [emptyRecord_patrons]; rfl
  | cards => rfl
  | titles => rw [emptyRecord_titles]; rfl
  | items => rfl
  | holds => rw [emptyRecord_holds]; rfl

/-! ## The empty forms read back (R35) -/

theorem parsePatron_emptyRecord : parsePatron (emptyRecord .patrons k n) = ⟨0, 0, [], 0, 0, false, none⟩ := by
  have hraw : encodePatron (zeros 84) ⟨0, 0, [], 0, 0, false, none⟩ = encodePatron (zeros 256) ⟨0, 0, [], 0, 0, false, none⟩ := by
    rw [encodePatron, encodePatron, zeros_take (Nat.le_refl 84), zeros_take (show 84 ≤ 256 by decide)]
  show parsePatron (encodePatron (zeros 84) _) = _
  rw [hraw]
  exact parsePatron_encodePatron (zeros_length 256) (by decide) (by decide) (by decide) nofun (by decide) (by decide) nofun

theorem parseTitle_emptyRecord : parseTitle (emptyRecord .titles k n) = ⟨[], 0, none, none⟩ := by
  have hlen : (zeros 128 ++ putPlaces 32 []).length = Region.titles.size := by
    rw [List.length_append, zeros_length, putPlaces_length]
    rfl
  exact parseTitle_encodeTitle hlen (by decide) (by decide) (by simp)

theorem parseItem_emptyRecord : parseItem (emptyRecord .items k n) =
    ⟨0, 0, 0, false, .available, none, 0, none, none, 0, none, none⟩ := by
  have hraw : ∀ c : Item, encodeItem (zeros 8) c = encodeItem (zeros 64) c := fun c => by
    rw [encodeItem, encodeItem, zeros_take (Nat.le_refl 8), zeros_take (show 8 ≤ 64 by decide)]
  show parseItem (encodeItem (zeros 8) _) = _
  rw [hraw]
  exact parseItem_encodeItem (zeros_length 64) (by decide) (by decide) (by decide) (by decide) nofun (by decide) (by decide)
    (by simp)

theorem parseHold_emptyRecord (hk : k + 1 < Config.absent4) : parseHold (emptyRecord .holds k n) =
    { state := .free, pickup := 0, patron := none, title := none, placed := 0, suspend := none, copy := none
      deadline := none, next := if k + 1 < n then some (k + 1) else none } := by
  refine parseHold_encodeHold (h := Hold.freeForm (if k + 1 < n then some (k + 1) else none)) (Nat.zero_lt_succ _) (Nat.zero_lt_succ _)
    (fun v hv x hx => ?_)
  simp only [Hold.freeForm, List.mem_cons, List.not_mem_nil, or_false] at hv
  rcases hv with rfl | rfl | rfl | rfl | rfl | rfl
  case inr.inr.inr.inr.inr =>
    split at hx
    · exact Option.some.inj hx ▸ hk
    · exact absurd hx nofun
  all_goals exact absurd hx nofun
end

/-! ## The summary of an empty store -/

theorem encodeSummary_stamp (m : Summary) : ∃ rest : List Byte, encodeSummary m = m.stamp ++ rest := by
  refine ⟨(encodeSummary m).drop m.stamp.length, ?_⟩
  unfold encodeSummary
  simp only [List.append_assoc, List.drop_left]

/-- The stamp is written apart, and last. -/
theorem stamp_summaryFields (n day : Nat) :
    Config.formatStamp ++ (encodeSummary (emptySummary n day)).drop 8 = encodeSummary (emptySummary n day) := by
  obtain ⟨rest, hrest⟩ := encodeSummary_stamp (emptySummary n day)
  rw [hrest, List.drop_left' (show (emptySummary n day).stamp.length = 8 from rfl)]
  rfl

theorem summaryFields_length (n day : Nat) : ((encodeSummary (emptySummary n day)).drop 8).length = 72 := by
  rw [List.length_drop, encodeSummary_length (m := emptySummary n day) rfl]

theorem parse_emptySummary {n day : Nat} (hday : day < 65536) (hn : n < 4294967296) :
    parseSummary (Config.formatStamp ++ (encodeSummary (emptySummary n day)).drop 8) = emptySummary n day := by
  rw [stamp_summaryFields]
  refine parseSummary_encodeSummary (m := emptySummary n day) rfl (fun k hk => ?_) hn (by simp [emptySummary]) (by simp [emptySummary]) ?_
  · rw [← Option.some.inj (show some 0 = some k from hk)]
    decide
  · simpa [emptySummary] using hday

/-! ## What a place's bytes depend on -/

theorem formatBytes_congr {s t : State} (hforce : t.loader.inForce = s.loader.inForce)
    (hstreams : ∀ n, t.stream n = s.stream n) (day : Nat) (p : FormatStep) : t.formatBytes day p = s.formatBytes day p := by
  cases p with
  | desk n => simp only [State.formatBytes, sessionWord_congr (congrArg Stream.session (hstreams n)) hforce]
  | record r k => simp only [State.formatBytes, targetOff_congr hforce, regionCount_congr hforce]
  | summaryFields => simp only [State.formatBytes, regionCount_congr hforce]
  | stampZero => rfl
  | note => rfl
  | summaryRest => rfl
  | stamp => rfl

theorem formatNext_congr {s t : State} (hforce : t.loader.inForce = s.loader.inForce) (p : FormatStep) :
    t.formatNext p = s.formatNext p := by
  cases p <;> simp only [State.formatNext, regionCount_congr hforce]

end Sys2Proof.Machine
end


section
/-! Obligation O59: a format write answered, by its answer and by whether it was written before. -/

namespace Sys2Proof.Machine

/-! ## Where the write lands (R175) -/

/-- Memory after the write of a place failed: the stamp is as it was, and the zero stamp stands when it failed a second time. -/
def State.formatFailMemory (s : State) (i : IssuedOwn) (ls : List Lane) (f : Formatting) (k : Nat) : Memory :=
  if f.step = .stamp then s.mem
  else if f.step = .stampZero ∧ f.retried = true then s.mem.writeLanes i.req.addr ls
  else s.mem.land i.req.addr ls (.error k)

section
variable {s : State} {i : IssuedOwn} {ls : List Lane} {f : Formatting}

theorem landFormat_done (hbody : i.req.body = .write ls) :
    s.landFormat f i.req .done = { s with mem := s.mem.writeLanes i.req.addr ls } := by
  unfold State.landFormat State.landOwn State.landOwnWhole
  rw [hbody, ite_self]
  split <;> rfl

theorem landFormat_error (hbody : i.req.body = .write ls) (k : Nat) :
    s.landFormat f i.req (.error k) = { s with mem := s.formatFailMemory i ls f k } := by
  unfold State.landFormat State.formatFailMemory State.landOwn State.landOwnWhole
  rw [hbody]
  cases hstep : f.step with
  | stamp => rfl
  | stampZero => cases f.retried <;> rfl
  | note => rfl
  | desk n => rfl
  | record r k => rfl
  | summaryRest => rfl
  | summaryFields => rfl

theorem exec_formatWriteDone (h : FormatWritten s i ls f) (a : Answer) : exec (.formatWriteDone a) s =
    .next (((s.landFormat f i.req a).dropOwn i.req.serial).formatWritten f (answeredDone a)) := by
  obtain ⟨hreset, hpull, -, hjob⟩ := h
  show Host.Outcome.next _ = _
  rw [live_eq hreset]
  simp only [hpull, hjob]

theorem exec_format_done (h : FormatWritten s i ls f) : exec (.formatWriteDone .done) s =
    .next ((s.landedAs (s.mem.writeLanes i.req.addr ls) i.req.serial).formatWritten f true) := by
  rw [exec_formatWriteDone h, landFormat_done h.2.2.1]
  rfl

theorem exec_format_error (h : FormatWritten s i ls f) (k : Nat) : exec (.formatWriteDone (.error k)) s =
    .next ((s.landedAs (s.formatFailMemory i ls f k) i.req.serial).formatWritten f false) := by
  rw [exec_formatWriteDone h, landFormat_error h.2.2.1]
  rfl
end

/-! ## On to the next place (R175) -/

/-- Format moves on: answer writes are released, and the write of the place is raised. -/
def State.formatMoves (s : State) (g : Formatting) : State := (s.setJob (.formatting g)).releaseAnswers.formatWrite g

section
variable (s : State) (g : Formatting)

theorem grows_released (j : Job) : Grows s (s.setJob j).releaseAnswers [.loader, .raised] :=
  ((grows_setJob s j).mono).andThen (grows_releaseAnswers _)

theorem released_loader (j : Job) : (s.setJob j).releaseAnswers.loader = { s.loader with job := j } :=
  (grows_releaseAnswers (s.setJob j)).parts .loader (by decide)

theorem formatMoves_spec : PlaceRaised s (s.formatMoves g) g := by
  obtain ⟨hloader, hwrite, hgrow⟩ := formatWrite_spec (s.setJob (.formatting g)).releaseAnswers g
  have hforce : (s.setJob (.formatting g)).releaseAnswers.loader.inForce = s.loader.inForce := by rw [released_loader]
  have hstreams := streams_of_grows (grows_released s (.formatting g))
  have hbytes := formatBytes_congr hforce hstreams g.day g.step
  rw [released_loader] at hloader
  rw [hbytes] at hwrite
  exact ⟨hloader, hwrite, (grows_released s _).andThen hgrow⟩

theorem formatMoves_held {q : OwnReq} {n : StreamId} (hq : q ∈ s.path.formatHeld) (hn : q.tag.answerOf = some n) :
    (g.step.deskToCome n = true → q ∈ (s.formatMoves g).path.formatHeld) ∧
    (g.step.deskToCome n = false → q ∉ (s.formatMoves g).path.formatHeld ∧ (s.formatMoves g).waitsForPort q) := by
  have hholds : (s.setJob (.formatting g)).holdsAnswer n = g.step.deskToCome n := holdsAnswer_formatting rfl n
  have hfreed : (s.setJob (.formatting g)).freed q = !g.step.deskToCome n := by rw [freed_answer hn, hholds]
  have hheld : (s.formatMoves g).path.formatHeld = (s.setJob (.formatting g)).releaseAnswers.path.formatHeld :=
    raise_formatHeld _ _ _ _ _
  rw [hheld, mem_held_releaseAnswers, hfreed]
  refine ⟨fun hcome => ⟨hq, by rw [hcome]; rfl⟩, fun hpast => ⟨fun ⟨_, hno⟩ => ?_, ?_⟩⟩
  · rw [hpast] at hno
    exact absurd hno nofun
  · exact waitsForPort_raise _ _ _ _ _ (waitsForPort_releaseAnswers hq (by rw [hfreed, hpast]; rfl))
end

/-! ## The part state at the end of a format -/

theorem grows_setPart (s : State) (p : PartState) (r : SetupResult) : Grows s (s.setPart p r) [.loader, .raised] :=
  Grows.ite (Grows.refl s _) (grows_setLoader_raiseStatus s _)

theorem setPart_loader (s : State) (p : PartState) (r : SetupResult) :
    (s.setPart p r).loader = { s.loader with part := p, result := r } := by
  unfold State.setPart
  split
  next hsame => rw [← hsame.1, ← hsame.2]
  next => exact raiseStatus_loader _ _

/-- Format has ended in a part state, and shows it (R175, R176). -/
structure FormatEnded (s t : State) (p : PartState) (r : SetupResult) : Prop where
  loader : t.loader = { s.loader with part := p, result := r, job := .idle }
  shown : s.loader.part ≠ p → StatusRaised t p r s.loader.faults
  grows : Grows s t [.loader, .raised]

/-- Format ends: the answer writes held are released, and the part state is shown. -/
def State.formatEnds (s : State) (p : PartState) (r : SetupResult) : State := (s.setJob .idle).releaseAnswers.setPart p r

section
variable (s : State) (p : PartState) (r : SetupResult)

theorem formatEnds_spec : FormatEnded s (s.formatEnds p r) p r := by
  have hloader := released_loader s .idle
  refine ⟨?_, fun hp => ?_, (grows_released s .idle).andThen (grows_setPart _ p r)⟩
  · rw [State.formatEnds, setPart_loader, hloader]
  · have hstatus := setPart_status (s := (s.setJob .idle).releaseAnswers) (p := p) (r := r) (by rw [hloader]; exact hp)
    rw [hloader] at hstatus
    exact hstatus

theorem formatEnds_held : (s.formatEnds p r).path.formatHeld = [] := by
  have hnone : (s.setJob .idle).releaseAnswers.path.formatHeld = [] := held_releaseAnswers_idle rfl
  unfold State.formatEnds State.setPart
  split
  · exact hnone
  · exact (raise_formatHeld _ _ _ _ _).trans hnone

theorem formatEnds_raised (hr : SerialsRise s.path.raised)
    (hs : ∀ q ∈ s.path.raised ++ s.path.formatHeld, q.serial ≤ s.serial) : SerialsRise (s.formatEnds p r).path.raised := by
  have hrise : SerialsRise (s.setJob .idle).releaseAnswers.path.raised := serialsRise_releaseAnswers hr
  unfold State.formatEnds State.setPart
  split
  · exact hrise
  · refine serialsRise_raise _ _ _ _ _ hrise (fun q hq => ?_)
    show q.serial ≤ (s.setJob .idle).releaseAnswers.serial
    rw [releaseAnswers_serial]
    exact hs q (mem_raised_releaseAnswers (s := s.setJob .idle) hq)
end

/-! ## The end of a failed format -/

theorem startRequest_warmReset {s : State} (h : ∀ r ∈ s.loader.requests, r = .warmReset) : s.startRequest = s := by
  unfold State.startRequest
  split
  next rs _ hrs => exact absurd (h .apply (by rw [hrs]; exact List.mem_cons_self)) nofun
  next rs _ hrs => exact absurd (h .format (by rw [hrs]; exact List.mem_cons_self)) nofun
  next => rfl

theorem endJob_warmReset {s : State} (h : ∀ r ∈ s.loader.requests, r = .warmReset) : s.endJob = s.setJob .idle := by
  unfold State.endJob State.startAtOnce
  rw [startRequest_warmReset (s := s.setJob .idle) h, ite_self]

/-! ## The four outcomes -/

section
variable {s : State} {i : IssuedOwn} {ls : List Lane} {f : Formatting} (h : FormatWritten s i ls f)
include h

theorem format_next {p : FormatStep} (hp : s.formatNext f.step = some p) : exec (.formatWriteDone .done) s =
    .next ((s.landedAs (s.mem.writeLanes i.req.addr ls) i.req.serial).formatMoves ⟨p, false, f.day⟩) := by
  have hnext : (s.landedAs (s.mem.writeLanes i.req.addr ls) i.req.serial).formatNext f.step = some p :=
    (formatNext_congr (s := s) rfl _).trans hp
  rw [exec_format_done h]
  generalize s.landedAs (s.mem.writeLanes i.req.addr ls) i.req.serial = x at hnext ⊢
  simp only [State.formatWritten, hnext, if_true]
  rfl

theorem format_stamp (hstep : f.step = .stamp) : exec (.formatWriteDone .done) s =
    .next ((s.landedAs (s.mem.writeLanes i.req.addr ls) i.req.serial).formatDone) := by
  rw [exec_format_done h]
  generalize s.landedAs (s.mem.writeLanes i.req.addr ls) i.req.serial = x
  simp only [State.formatWritten, hstep, State.formatNext, if_true]

theorem format_again (hr : f.retried = false) (k : Nat) : exec (.formatWriteDone (.error k)) s =
    .next ((s.landedAs (s.formatFailMemory i ls f k) i.req.serial).storeFault.formatWrite { f with retried := true }) := by
  rw [exec_format_error h]
  generalize s.landedAs (s.formatFailMemory i ls f k) i.req.serial = x
  rw [State.formatWritten, if_neg nofun, if_neg (by rw [hr]; nofun)]

theorem format_fails (hr : f.retried = true) (k : Nat) : exec (.formatWriteDone (.error k)) s =
    .next ((s.landedAs (s.formatFailMemory i ls f k) i.req.serial).storeFault.formatFails) := by
  rw [exec_format_error h]
  generalize s.landedAs (s.formatFailMemory i ls f k) i.req.serial = x
  rw [State.formatWritten, if_neg nofun, if_pos hr]

end
end Sys2Proof.Machine
end


section
/-! Obligation O59. -/

namespace Sys2Proof.Machine

section
variable {s : State} {i : IssuedOwn} {ls : List Lane} {f : Formatting}

theorem formatFailMemory_first (hr : f.retried = false) (k : Nat) : s.formatFailMemory i ls f k =
    (if f.step = .stamp then s.mem else s.mem.land i.req.addr ls (.error k)) := by
  simp only [State.formatFailMemory, hr, Bool.false_eq_true, and_false, if_false]

theorem formatFailMemory_second (hr : f.retried = true) (k : Nat) : s.formatFailMemory i ls f k =
    (if f.step = .stamp then s.mem
      else if f.step = .stampZero then s.mem.writeLanes i.req.addr ls
      else s.mem.land i.req.addr ls (.error k)) := by
  simp only [State.formatFailMemory, hr, and_true]

/-- A write held for format still stands after the landing, and in every state that grows from it. -/
theorem held_stands {m : Memory} {k : Nat} {v : State} {ps : List Part} (hg : Grows (s.landedAs m k) v ps) :
    ∀ q ∈ s.path.formatHeld, q ∈ v.ownWaiting := fun q hq =>
  hg.stands q (List.mem_append_right _ hq)

theorem formatBytes_landedAs (s : State) (m : Memory) (k day : Nat) (p : FormatStep) :
    (s.landedAs m k).formatBytes day p = s.formatBytes day p := formatBytes_congr rfl (fun _ => rfl) day p

variable (h : FormatWritten s i ls f)
include h

theorem formatWrite_goesOn {p : FormatStep} (hp : s.formatNext f.step = some p) :
    ∃ t : State, exec (.formatWriteDone .done) s = .next t ∧
      t.mem = s.mem.writeLanes i.req.addr ls ∧ SameMemoryOutside s t i.req.addr ls.length ∧
      t.loader = { s.loader with job := .formatting ⟨p, false, f.day⟩ } ∧
      Awaits t .format (s.formatBytes f.day p).1 (.write (lanesOf (s.formatBytes f.day p).2)) ∧
      (∀ (q : OwnReq) (n : StreamId), q ∈ s.path.formatHeld → q.tag.answerOf = some n →
        ((p = .note ∨ ∃ m : StreamId, p = .desk m ∧ m.val ≤ n.val) → q ∈ t.path.formatHeld) ∧
        (((∃ m : StreamId, p = .desk m ∧ n.val < m.val) ∨ p = .stamp ∨ p = .summaryRest ∨ p = .summaryFields ∨
            ∃ r k, p = .record r k) →
          q ∉ t.path.formatHeld ∧ (t.path.ownSlot = some q ∨ q ∈ t.path.raised))) ∧
      OnlyParts s t [.memory, .issued, .raised, .loader] := by
  obtain ⟨hloader, hwrite, hgrow⟩ :=
    formatMoves_spec (s.landedAs (s.mem.writeLanes i.req.addr ls) i.req.serial) ⟨p, false, f.day⟩
  rw [formatBytes_landedAs] at hwrite
  refine ⟨_, format_next h hp, mem_of_landedAs hgrow, sameMemoryOutside_writeLanes (mem_of_landedAs hgrow), hloader, hwrite,
    fun q n hq hn => ?_, parts_of_landedAs hgrow⟩
  obtain ⟨hstays, hleaves⟩ := formatMoves_held (s.landedAs (s.mem.writeLanes i.req.addr ls) i.req.serial)
    ⟨p, false, f.day⟩ hq hn
  exact ⟨fun hto => hstays (deskToCome_yes hto), fun hpast => hleaves (deskToCome_no hpast)⟩

theorem formatWrite_last (hstep : f.step = .stamp) : ∃ v : State,
    exec (.formatWriteDone .done) s =
      .next (if s.sweep.sweptThrough < s.loader.today.getD 0 then v.beginPass (s.loader.today.getD 0) else v) ∧
    v.mem = s.mem.writeLanes i.req.addr ls ∧ SameMemoryOutside s v i.req.addr ls.length ∧
    v.loader = { s.loader with part := .ready, job := .idle } ∧
    (s.loader.part = .formatting → StatusRaised v .ready s.loader.result s.loader.faults) ∧
    v.path.formatHeld = [] ∧ (∀ q ∈ s.path.formatHeld, q ∈ v.ownWaiting) ∧
    (s.path.raised.Pairwise (fun p q => p.serial ≤ q.serial) →
      (∀ q ∈ s.path.raised ++ s.path.formatHeld, q.serial ≤ s.serial) →
      v.path.raised.Pairwise (fun p q => p.serial ≤ q.serial)) ∧
    OnlyParts s v [.memory, .issued, .raised, .loader] := by
  have hspec := formatEnds_spec (s.landedAs (s.mem.writeLanes i.req.addr ls) i.req.serial) .ready s.loader.result
  have hheld := formatEnds_held (s.landedAs (s.mem.writeLanes i.req.addr ls) i.req.serial) .ready s.loader.result
  have hrise := formatEnds_raised (s.landedAs (s.mem.writeLanes i.req.addr ls) i.req.serial) .ready s.loader.result
  obtain ⟨hloader, hstatus, hgrow⟩ := hspec
  refine ⟨(s.landedAs (s.mem.writeLanes i.req.addr ls) i.req.serial).formatEnds .ready s.loader.result, ?_,
    mem_of_landedAs hgrow, sameMemoryOutside_writeLanes (mem_of_landedAs hgrow), hloader, fun hp => hstatus ?_, hheld,
    held_stands hgrow, hrise, parts_of_landedAs hgrow⟩
  · rw [format_stamp h hstep]
    have hsweep : ((s.landedAs (s.mem.writeLanes i.req.addr ls) i.req.serial).formatEnds .ready s.loader.result).sweep =
        s.sweep := hgrow.parts .sweep (by decide)
    have htoday : ((s.landedAs (s.mem.writeLanes i.req.addr ls) i.req.serial).formatEnds .ready
        s.loader.result).loader.today = s.loader.today := by rw [hloader]; rfl
    rw [← hsweep, ← htoday]
    rfl
  · rw [landedAs_loader, hp]
    nofun

theorem formatWrite_retried (hr : f.retried = false) (k : Nat) : ∃ t : State, exec (.formatWriteDone (.error k)) s = .next t ∧
    t.mem = (if f.step = .stamp then s.mem else s.mem.land i.req.addr ls (.error k)) ∧
    t.loader = { oneMoreFault s.loader with job := .formatting { f with retried := true } } ∧ StatusShown s t ∧
    Awaits t .format (s.formatBytes f.day f.step).1 (.write (lanesOf (s.formatBytes f.day f.step).2)) ∧
    OnlyParts s t [.memory, .issued, .raised, .loader] := by
  have hexec := format_again h hr k
  have hfault := grows_storeFault (s.landedAs (s.formatFailMemory i ls f k) i.req.serial)
  have hfault_loader := storeFault_loader (s.landedAs (s.formatFailMemory i ls f k) i.req.serial)
  have hshown : StatusShown s (s.landedAs (s.formatFailMemory i ls f k) i.req.serial).storeFault :=
    statusShown_storeFault (s.landedAs (s.formatFailMemory i ls f k) i.req.serial)
  have hforce : (s.landedAs (s.formatFailMemory i ls f k) i.req.serial).storeFault.loader.inForce = s.loader.inForce := by
    rw [hfault_loader]
    rfl
  have hstreams := streams_of_grows hfault
  have hbytes := formatBytes_congr (s := s) hforce hstreams f.day f.step
  obtain ⟨hloader, hwrite, hgrow⟩ :=
    formatWrite_spec (s.landedAs (s.formatFailMemory i ls f k) i.req.serial).storeFault { f with retried := true }
  rw [hfault_loader, landedAs_loader] at hloader
  rw [hbytes] at hwrite
  have hall := hfault.andThen hgrow
  refine ⟨_, hexec, ?_, hloader, hshown.trans (.inl ?_) hgrow, hwrite, parts_of_landedAs hall⟩
  · rw [mem_of_landedAs hall, formatFailMemory_first hr]
  · rw [hloader, hfault_loader]
    exact ⟨rfl, rfl, rfl⟩

theorem formatWrite_givenUp (hr : f.retried = true) (hreq : ∀ r ∈ s.loader.requests, r = .warmReset)
    (hpart : s.loader.part = .formatting) (k : Nat) : ∃ t : State, exec (.formatWriteDone (.error k)) s = .next t ∧
    t.mem = (if f.step = .stamp then s.mem
      else if f.step = .stampZero then s.mem.writeLanes i.req.addr ls
      else s.mem.land i.req.addr ls (.error k)) ∧
    t.loader = { oneMoreFault s.loader with part := .unformatted, result := ⟨.formatFault, 0⟩, job := .idle } ∧
    StatusRaised t .unformatted ⟨.formatFault, 0⟩ (oneMoreFault s.loader).faults ∧
    t.path.formatHeld = [] ∧ (∀ q ∈ s.path.formatHeld, q ∈ t.ownWaiting) ∧
    OnlyParts s t [.memory, .issued, .raised, .loader] := by
  have hexec := format_fails h hr k
  have hfault := grows_storeFault (s.landedAs (s.formatFailMemory i ls f k) i.req.serial)
  have hfault_loader := storeFault_loader (s.landedAs (s.formatFailMemory i ls f k) i.req.serial)
  have hheld :=
    formatEnds_held (s.landedAs (s.formatFailMemory i ls f k) i.req.serial).storeFault .unformatted ⟨.formatFault, 0⟩
  obtain ⟨hloader, hstatus, hgrow⟩ :=
    formatEnds_spec (s.landedAs (s.formatFailMemory i ls f k) i.req.serial).storeFault .unformatted ⟨.formatFault, 0⟩
  rw [hfault_loader, landedAs_loader] at hloader hstatus
  have hend := endJob_warmReset
    (s := (s.landedAs (s.formatFailMemory i ls f k) i.req.serial).storeFault.formatEnds .unformatted ⟨.formatFault, 0⟩)
    (by rw [hloader]; exact hreq)
  have hidle := grows_setJob
    ((s.landedAs (s.formatFailMemory i ls f k) i.req.serial).storeFault.formatEnds .unformatted ⟨.formatFault, 0⟩) .idle
  have hall := (hfault.andThen hgrow).andThen hidle
  rw [State.formatFails, ← State.formatEnds, hend] at hexec
  refine ⟨_, hexec, ?_, ?_, (hstatus ?_).grows hidle, hheld, held_stands hall, parts_of_landedAs hall⟩
  · rw [mem_of_landedAs hall, formatFailMemory_second hr]
  · rw [State.setJob, hloader]
  · rw [show (oneMoreFault s.loader).part = .formatting from hpart]
    nofun
end

/-- The places in their order. -/
theorem formatNext_order (s : State) : s.formatNext .stampZero = some .note ∧ s.formatNext .note = some (.desk 0) ∧
    (∀ n m : StreamId, n.val + 1 = m.val → s.formatNext (.desk n) = some (.desk m)) ∧
    s.formatNext (.desk 31) = some (.record .patrons 0) ∧
    (∀ r k, k + 1 < s.regionCount r → s.formatNext (.record r k) = some (.record r (k + 1))) ∧
    (∀ r q k, s.regionCount r ≤ k + 1 →
      (r, q) ∈ [(Region.patrons, Region.cards), (.cards, .titles), (.titles, .items), (.items, .holds)] →
      s.formatNext (.record r k) = some (.record q 0)) ∧
    (∀ k, s.regionCount .holds ≤ k + 1 → s.formatNext (.record .holds k) = some .summaryRest) ∧
    s.formatNext .summaryRest = some .summaryFields ∧ s.formatNext .summaryFields = some .stamp ∧
    s.formatNext .stamp = none := by
  refine ⟨rfl, rfl, fun n m => formatNext_desk s, formatNext_lastDesk s, fun r k => formatNext_record s,
    fun r q k hk hq => formatNext_region s hk ?_, fun k => formatNext_lastRegion s, rfl, rfl, rfl⟩
  simp only [List.mem_cons, Prod.mk.injEq, List.not_mem_nil, or_false] at hq
  rcases hq with ⟨rfl, rfl⟩ | ⟨rfl, rfl⟩ | ⟨rfl, rfl⟩ | ⟨rfl, rfl⟩ <;> rfl

section
variable (s : State) (day : Nat)

theorem formatBytes_desk (n : StreamId) :
    s.formatBytes day (.desk n) = (16384 + 1024 * n.val, zeros 800 ++ s.sessionWord n) := by
  have haddr : deskAddr n 0 = 16384 + 1024 * n.val := congrArg (16384 + ·) (Nat.mul_comm n.val 1024)
  have hoff : Config.sessionOff = 800 := rfl
  rw [State.formatBytes, haddr, hoff]

theorem formatBytes_record (r : Region) (k : Nat) :
    s.formatBytes day (.record r k) = (s.targetOff (.record r k), emptyRecord r k (s.regionCount r)) := rfl

theorem formatBytes_summaryRest : s.formatBytes day .summaryRest = (8272, zeros 8112) := by
  have hoff : Config.summaryBase + Config.summarySize = 8272 := rfl
  have hlen : Config.summaryAreaSize - Config.summarySize = 8112 := rfl
  rw [State.formatBytes, hoff, hlen]

theorem formatBytes_summaryFields : s.formatBytes day .summaryFields =
    (8200, (encodeSummary (emptySummary (s.regionCount .holds) day)).drop 8) := by
  have hoff : Config.summaryBase + 8 = 8200 := rfl
  rw [State.formatBytes, hoff]
end

/-- Settles O59: the answer to a format write by the place and by whether it was written before; then the order of the places,
and the bytes of each. -/
theorem formatWritesInOrder : Obligations.FormatWritesInOrder := by
  unfold Obligations.FormatWritesInOrder
  refine ⟨fun s i ls f h => ⟨fun p => formatWrite_goesOn h, formatWrite_last h, fun k hr => formatWrite_retried h hr k,
    fun k hr hreq hpart => formatWrite_givenUp h hr hreq hpart k⟩, formatNext_order, fun s day => ?_⟩
  simp only [formatBytes_record, formatBytes_summaryRest, formatBytes_summaryFields]
  generalize hcount : s.regionCount = count
  refine ⟨rfl, rfl, formatBytes_desk s day, fun r k => ⟨trivial, emptyRecord_length k (count r) r⟩, fun k => ?_,
    trivial, trivial, summaryFields_length (count .holds) day, fun hday hn => parse_emptySummary hday hn, rfl⟩
  exact ⟨parsePatron_emptyRecord k (count .patrons), parseTitle_emptyRecord k (count .titles),
    parseItem_emptyRecord k (count .items), emptyRecord_cards k (count .cards), parseHold_emptyRecord k (count .holds),
    emptyRecord_patrons k (count .patrons), emptyRecord_titles k (count .titles), emptyRecord_items k (count .items),
    emptyRecord_holds k (count .holds), fun r => emptyRecord_mark k (count r) r⟩

end Sys2Proof.Machine
end
